-- ==== Sys2Proof/Word.lean ====
section
/-! DEFINITION. The word types of the Skelboler: bytes, 32-bit and 64-bit words, 128-byte rows (R3, R5). -/
namespace Sys2Proof

/-- One byte (R4). -/
abbrev Byte := BitVec 8
/-- A 32-bit word. -/
abbrev Word32 := BitVec 32
/-- A 64-bit word: scalar registers, syllables, head words. -/
abbrev Word64 := BitVec 64
/-- A scratchpad row or a vector register: 128 bytes (R5, R57). -/
abbrev Row := BitVec 1024

/-- The eight slots of a bundle, in the order sync, S, VA, VB, MX, LD, ST, CP (R103, R330). -/
inductive Lane | sync | s | va | vb | mx | ld | st | cp
  deriving DecidableEq, Repr

/-- The slot's number in an event record (R330). -/
def Lane.num : Lane → Nat
  | .sync => 0 | .s => 1 | .va => 2 | .vb => 3 | .mx => 4 | .ld => 5 | .st => 6 | .cp => 7

/-- The seven slots that carry a slot syllable, in stored order (R103). -/
def Lane.slots : List Lane := [.s, .va, .vb, .mx, .ld, .st, .cp]

end Sys2Proof
end

