-- ==== Sys2Proof/Machine/Bits.lean ====
section
/-! DEFINITION. Bit fields, sign extension, byte order (R3, R4). -/
namespace Sys2Proof.Machine

/-- Bits off+len-1 : off of a word (R3). -/
def fld {n : Nat} (w : BitVec n) (off len : Nat) : BitVec len := w.extractLsb' off len
/-- The same field as a number (R3). -/
def fldN {n : Nat} (w : BitVec n) (off len : Nat) : Nat := (w.toNat >>> off) % 2 ^ len
/-- One bit (R3). -/
def bit {n : Nat} (w : BitVec n) (off : Nat) : Bool := w.getLsbD off
def b2n (b : Bool) : Nat := if b then 1 else 0

/-- A word made of fields, each an offset and a value. -/
def packN : List (Nat × Nat) → Nat
  | [] => 0
  | (off, v) :: r => v * 2 ^ off + packN r
def pack (fs : List (Nat × Nat)) : Word64 := BitVec.ofNat 64 (packN fs)

/-- Replace a field. -/
def setFld {n : Nat} (w : BitVec n) (off len v : Nat) : BitVec n :=
  (w &&& ~~~(BitVec.ofNat n ((2 ^ len - 1) <<< off))) ||| BitVec.ofNat n ((v % 2 ^ len) <<< off)

/-- The two's-complement value of the low w bits of a number. -/
def signed (w : Nat) (x : Nat) : Int :=
  let y := x % 2 ^ w
  if 2 * y < 2 ^ w then (y : Int) else (y : Int) - (2 ^ w : Nat)
/-- The low w bits of an integer, as a number. -/
def wrap (w : Nat) (x : Int) : Nat := (x % ((2 ^ w : Nat) : Int)).toNat

/-- Little-endian bytes of a number, the lowest first (R4). -/
def bytesLE : Nat → Nat → List Byte
  | 0, _ => []
  | n + 1, x => BitVec.ofNat 8 x :: bytesLE n (x / 256)
def ofBytesLE : List Byte → Nat
  | [] => 0
  | b :: r => b.toNat + 256 * ofBytesLE r

/-- Lane i of width w bits of a row (R4, R146). -/
def laneN (x : Row) (w i : Nat) : Nat := (x.toNat >>> (i * w)) % 2 ^ w
/-- A row made of lanes of width w bits, lane 0 first. -/
def ofLanes (w : Nat) : List Nat → Nat
  | [] => 0
  | v :: r => v % 2 ^ w + (ofLanes w r) * 2 ^ w
def rowOfLanes (w : Nat) (ls : List Nat) : Row := BitVec.ofNat 1024 (ofLanes w ls)
/-- Word i (64 bits) of a row. -/
def rowWord (x : Row) (i : Nat) : Word64 := BitVec.ofNat 64 (x.toNat >>> (64 * i))
def rowOfWords (ws : List Word64) : Row := rowOfLanes 64 (ws.map BitVec.toNat)
/-- A mask with ones in bits off+len-1 : off. -/
def maskAt (off len : Nat) : Row := BitVec.ofNat 1024 ((2 ^ len - 1) <<< off)
/-- The bits of new where the mask is set, and of old elsewhere. -/
def blend {n : Nat} (old new mask : BitVec n) : BitVec n := (old &&& ~~~mask) ||| (new &&& mask)
def allOnes : Row := BitVec.allOnes 1024

/-- Sum of a list (used for counts). -/
def sumN (l : List Nat) : Nat := l.foldl (· + ·) 0
/-- The number of one bits among the low n bits. -/
def popN : Nat → Nat → Nat
  | 0, _ => 0
  | n + 1, x => x % 2 + popN n (x / 2)
/-- Bit length: the number of bits up to the highest one bit; 0 for 0. -/
def bitLen (x : Nat) : Nat := if x = 0 then 0 else Nat.log2 x + 1
/-- Trailing zeros among the low n bits. -/
def ctzN : Nat → Nat → Nat
  | 0, _ => 0
  | n + 1, x => if x % 2 = 1 then 0 else 1 + ctzN n (x / 2)

/-- Insert before the first element that the new one may precede. -/
def insertBy {α : Type} (le : α → α → Bool) (x : α) : List α → List α
  | [] => [x]
  | y :: r => if le x y then x :: y :: r else y :: insertBy le x r
/-- Sort a list, keeping the order of equals. -/
def sortBy {α : Type} (le : α → α → Bool) (l : List α) : List α := l.foldr (insertBy le) []

end Sys2Proof.Machine
end

