-- ==== Sys2Proof/Syntax.lean ====
section
/-! DEFINITION. The steps of the machine: one constructor of `Instr` for each row of the opcode table. Slot and sync
instructions carry the operand fields of their layout (R129, R147, R154, R159, R162, R163, R167, R170, R174, R175, R189,
R204, R213-R215, R224, R228, R251, R272); microwords carry theirs (R197); the events of the device name what they act on. -/
namespace Sys2Proof

/-- Element formats (R61, R83, R86, R87). -/
inductive Fmt | f32 | f16 | bf16 | f8e4 | f8e5 | f4 | s32 | s16 | s8 | s4 | n32 | n16 | n8 | n4 | k128
  deriving DecidableEq, Repr

/-- The alu layout (R129). -/
structure AluOp where
  d : BitVec 6
  a : BitVec 6
  i : Bool
  b : BitVec 6
  imm : BitVec 32
  deriving DecidableEq, Repr

/-- The sel layout (R129): `x` is the condition of `scmp.cc` or the selector predicate of `ssel`. -/
structure SelOp where
  d : BitVec 6
  a : BitVec 6
  i : Bool
  b : BitVec 6
  x : BitVec 4
  imm : BitVec 28
  deriving DecidableEq, Repr

/-- The common vector layout (R147). -/
structure VecOp where
  d : BitVec 10
  a : BitVec 10
  b : BitVec 10
  c : BitVec 10
  km : BitVec 3
  ke : Bool
  ty : BitVec 4
  x : BitVec 3
  deriving DecidableEq, Repr

/-- The conversion layout (R154). -/
structure CvtOp where
  d : BitVec 10
  a : BitVec 10
  b : BitVec 10
  fty : BitVec 4
  part : BitVec 3
  rz : Bool
  bw : Bool
  km : BitVec 3
  ke : Bool
  ty : BitVec 4
  deriving DecidableEq, Repr

/-- The scalar-transfer layout (R162). -/
structure XferOp where
  d : BitVec 10
  a : BitVec 10
  i : Bool
  sr : BitVec 6
  imm : BitVec 12
  km : BitVec 3
  ke : Bool
  ty : BitVec 4
  deriving DecidableEq, Repr

/-- A scratchpad row operand (R167, R204): address register, post-modification, signed offset. -/
structure RowRef where
  an : BitVec 4
  pm : Bool
  off : BitVec 12
  deriving DecidableEq, Repr

/-- The transfer layout of the copy slot (R204). -/
structure CopyOp where
  ch : BitVec 2
  td : BitVec 4
  an : BitVec 4
  pm : Bool
  off : BitVec 10
  ab : BitVec 4
  boff : BitVec 8
  bh : Bool
  rg : Bool
  ring : BitVec 3
  x : BitVec 13
  deriving DecidableEq, Repr

/-- The operands of `rcast` (R215). -/
structure RcastOp where
  ch : BitVec 2
  td : BitVec 4
  all : Bool
  cur : Bool
  role : BitVec 2
  cf : Bool
  owner : BitVec 6
  ab : BitVec 4
  boff : BitVec 8
  bh : Bool
  deriving DecidableEq, Repr

/-- The operands of `cp.xf` (R224). -/
structure XformOp where
  ch : BitVec 2
  rt : BitVec 6
  an : BitVec 4
  off : BitVec 7
  ad : BitVec 4
  doff : BitVec 7
  icnt : BitVec 7
  ocnt : BitVec 7
  sa : BitVec 6
  deriving DecidableEq, Repr

/-- The operands of `cl.run`, `cl.arm` and `mlr` (R251). -/
structure CollOp where
  ch : BitVec 2
  ar : BitVec 4
  roff : BitVec 8
  as : BitVec 4
  soff : BitVec 8
  cnt : BitVec 20
  deriving DecidableEq, Repr

/-- The operands of `pl.q` (R272). -/
structure QueryOp where
  ch : BitVec 2
  aq : BitVec 4
  qoff : BitVec 8
  ac : BitVec 4
  coff : BitVec 8
  ar : BitVec 4
  roff : BitVec 8
  deriving DecidableEq, Repr

/-- The operands of the synchronisation-engine instructions (R228). -/
structure SeOp where
  d : BitVec 6
  h : BitVec 6
  b : BitVec 6
  c : BitVec 6
  land : BitVec 6
  wd : Bool
  deriving DecidableEq, Repr

/-- What firmware sets for a partition (R312). -/
structure PartCfg where
  first : Nat
  dies : List Nat
  s2base : Nat
  s2len : Nat
  age : Nat
  ktime : Nat
  saveArea : List Nat
  overflow : List (Nat × Nat × Nat)
  deriving DecidableEq, Repr

/-- One step of the machine. -/
inductive Instr
  -- sync syllable (R122, R228)
  | snop | knot | yield | drain (ch : BitVec 2) | qfence (mask : BitVec 7) | lfence | fmtset (value : BitVec 32)
  | seLd (o : SeOp) | seSt (o : SeOp) | seAdd (o : SeOp) | seMin (o : SeOp) | seMax (o : SeOp) | seAnd (o : SeOp)
  | seOr (o : SeOp) | seXor (o : SeOp) | seSwap (o : SeOp) | seCas (o : SeOp) | seArrive (o : SeOp) | seAwait (o : SeOp)
  | seSemdown (o : SeOp) | seSemup (o : SeOp) | seAlloc (o : SeOp) | seFree (o : SeOp)
  | tsys (code : BitVec 16) | brk (code : BitVec 16) | halt
  -- S slot (R123, R129)
  | sadd (o : AluOp) | ssub (o : AluOp) | smul (o : AluOp) | smulh (o : AluOp) | smulhn (o : AluOp) | sdiv (o : AluOp)
  | sdivn (o : AluOp) | srem (o : AluOp) | sremn (o : AluOp) | sand (o : AluOp) | sor (o : AluOp) | sxor (o : AluOp)
  | sandn (o : AluOp) | sshl (o : AluOp) | sshr (o : AluOp) | ssra (o : AluOp) | srot (o : AluOp) | sclz (o : AluOp)
  | sctz (o : AluOp) | spop (o : AluOp) | smin (o : AluOp) | smax (o : AluOp) | sminn (o : AluOp) | smaxn (o : AluOp)
  | ssel (o : SelOp) | sli (d : BitVec 6) (imm : BitVec 32) | slih (d : BitVec 6) (imm : BitVec 32)
  | smov (d a : BitVec 6) (kind idx : BitVec 3) (h : Bool) | scmp (o : SelOp)
  | pand (pd pa pb : BitVec 4) | por (pd pa pb : BitVec 4) | pxor (pd pa pb : BitVec 4) | pnot (pd pa : BitVec 4)
  | pmov (pd : BitVec 4) (src : BitVec 6) (f : Bool)
  | br (disp : BitVec 32) | jmp (tgt : BitVec 48) | call (d : BitVec 6) (disp : BitVec 32) | ret (a : BitVec 6)
  | jr (a : BitVec 6) (disp : BitVec 32)
  | loop (lvl : BitVec 3) (ci : Bool) (a : BitVec 6) (stride : BitVec 16) (cnt : BitVec 25)
  | lbody (len : BitVec 6) (lo hi e : BitVec 3)
  | mfs (d : BitVec 6) (spec : BitVec 6) | mts (a : BitVec 6) (spec : BitVec 6)
  | amov (dir : Bool) (ar : BitVec 4) (sr : BitVec 6)
  | aadd (ad aa : BitVec 4) (i : Bool) (b : BitVec 6) (imm : BitVec 24)
  -- VA and VB slots (R124)
  | vadd (o : VecOp) | vsub (o : VecOp) | vmul (o : VecOp) | vfma (o : VecOp) | vfms (o : VecOp) | vfnma (o : VecOp)
  | vmin (o : VecOp) | vmax (o : VecOp) | vabs (o : VecOp) | vneg (o : VecOp) | vrcp (o : VecOp) | vrsqrt (o : VecOp)
  | vexp2 (o : VecOp) | vlog2 (o : VecOp) | vrnd (o : VecOp) | vtsum (o : VecOp) | vcmp (o : VecOp) | vsel (o : VecOp)
  | vmulh (o : VecOp) | vsadd (o : VecOp) | vssub (o : VecOp) | vshl (o : VecOp) | vshr (o : VecOp) | vsra (o : VecOp)
  | vand (o : VecOp) | vor (o : VecOp) | vxor (o : VecOp) | vandn (o : VecOp) | vpopc (o : VecOp)
  | vcvt (o : CvtOp) | vquant (o : CvtOp) | vdeq (o : CvtOp) | vpack (o : CvtOp) | vunpk (o : CvtOp)
  | vperm (o : VecOp) | vrotm (d a b : BitVec 10) (i : Bool) (sr : BitVec 6) (off : BitVec 7)
  | vbcast (o : VecOp) | vshuf (o : VecOp) | vslide (o : VecOp) | vredsum (o : VecOp) | vredmax (o : VecOp)
  | vredmin (o : VecOp) | vscan (o : VecOp) | vtopk (o : VecOp) | vmov (o : VecOp)
  | vsplat (o : XferOp) | vext (o : XferOp) | vins (o : XferOp) | vidx (o : VecOp)
  | kand (kd ka kb : BitVec 3) | kor (kd ka kb : BitVec 3) | kxor (kd ka kb : BitVec 3) | kinv (kd ka : BitVec 3)
  | kpop (sd : BitVec 6) (ka : BitVec 3) | kmov (kd ka : BitVec 3)
  -- LD and ST slots (R125, R167-R175)
  | ldRow (v : BitVec 10) (r : RowRef) | ldLane (v : BitVec 10) (r : RowRef) (lane : BitVec 8) (ty : BitVec 4)
  | ldK (kd : BitVec 3) (r : RowRef) (seg : BitVec 3) | ldPeek (v : BitVec 10) (ring : BitVec 3) (j : BitVec 11)
  | xsel (r : RowRef) (mx dir hw : Bool) (dc : BitVec 8) (dr : BitVec 6)
  | stRow (v : BitVec 10) (r : RowRef) | stRowk (v : BitVec 10) (r : RowRef) (km : BitVec 3) (ty : BitVec 4)
  | stLane (v : BitVec 10) (r : RowRef) (lane : BitVec 8) (ty : BitVec 4)
  | stFill (sf : BitVec 6) (r : RowRef) (cnt : BitVec 6) | stRing (v : BitVec 10) (ring : BitVec 3)
  | xsend (v : BitVec 10) (r : RowRef) (sk dir hw : Bool)
  -- MX slot (R189); `rep` is the repeat count minus one of form 01 (R107)
  | mcall (rt : BitVec 5) (acc alt : Bool) (rep : Option (BitVec 8)) | mset (kind : Bool) (idx : BitVec 3) (sa : BitVec 6)
  | mring (ra rb : BitVec 3) | macz (acc : Bool) (rep : Option (BitVec 8))
  | mread (vd : BitVec 10) (acc : Bool) (row : BitVec 5) (mode : BitVec 2)
  | mwrite (vh vl : BitVec 10) (acc : Bool) (row : BitVec 5) (rep : Option (BitVec 8))
  | mroute (nb : BitVec 2) (sa : BitVec 6) | mwait (all w0 w1 snd : Bool) | mfmt (ent : BitVec 4) (sa : BitVec 6)
  -- CP slot (R204-R216)
  | cpDesc (ch : BitVec 2) (td : BitVec 4) (an : BitVec 4) (pm : Bool) (off : BitVec 10) (h : Bool)
  | cpIn (o : CopyOp) | cpOut (o : CopyOp) | cpAcc (o : CopyOp) | cpGat (o : CopyOp) | cpSca (o : CopyOp)
  | cpSl (o : CopyOp) | cpXf (o : XformOp) | cpRep (o : CopyOp)
  | cpCurSet (ch : BitVec 2) (td : BitVec 4) (sa : BitVec 6)
  | cpCurSave (ch : BitVec 2) (td : BitVec 4) (an : BitVec 4) (pm : Bool) (off : BitVec 10) (h : Bool)
  | cpCurStatus (ch : BitVec 2) (an : BitVec 4) (pm : Bool) (off : BitVec 10) (h : Bool)
  | rcast (o : RcastOp) | plQ (o : QueryOp) | clRun (o : CollOp) | clArm (o : CollOp) | mlr (o : CollOp)
  -- microwords of a matrix routine (R197)
  | wpopa (t : Bool) | wpopb (t : Bool) | wfeed (part : BitVec 2) (ta tb : Bool)
  | wgroup (sa : Bool) (mpa : BitVec 3) (sb : Bool) (mpb : BitVec 3) | wsum (src : Bool) | wretire (pa pb : Bool)
  | wsend (dst : Bool) (n : BitVec 2) (sc : Bool) (m : BitVec 3) (first cnt : BitVec 5) | wfmt (lvl : BitVec 3)
  | wloop (c : BitVec 2) (src : Bool) (m : BitVec 3) (imm : BitVec 32)
  | wjump (c cond : BitVec 2) (tgt : BitVec 11) | wwait (f sn : Bool) | wend
  -- events of the cores (contexts are named by core and slot, gangs by partition and tree)
  | groupEntry (core : Nat) | conditionClears (core slot : Nat) | heldReissue (lane : Lane) | resultArrival (op : Nat)
  | landing (core slot : Nat) | loopPassEnd (core slot : Nat) | knotArrival (core slot : Nat)
  | knotAnnouncement (part tree : Nat) | knotRelease (part tree : Nat) | exchangeGrant (part tree : Nat)
  | preemptSave (part tree : Nat) | gangRestore (part tree : Nat) | withheldRelease (part tree : Nat)
  | copyRequest (cmd : Nat) | copyRowWrite (cmd row : Nat) | fillRowWrite (core slot : Nat) | ropeBeat
  | xselRowWrite (core mux : Nat) | matrixEntryStart (core slot : Nat) | kblockRetire (core slot : Nat)
  | entryRetire (core slot : Nat) | routedRowSend (msg : Nat) | routedRowArrival (msg : Nat) | xformRun (core : Nat)
  | collector (part : Nat) (td : BitVec 512)
  -- events of memory and of the synchronisation engines
  | luAccess (acc : Nat) | recastSeal (cmd : Nat) | sealReceive (cmd lu : Nat) | recastRewrite (cmd : Nat)
  | invalidationMarker (core slot : Nat) (handle tile : Nat) | markerWatchdog (core slot : Nat)
  | seOperationPerform (op : Nat) | seGrantArrival (op : Nat)
  -- events of the collective and posting-list engines
  | collectiveStart (die comm : Nat) | joinArrival (msg : Nat) | joinTimeout (die comm : Nat)
  | presenceQuery (msg : Nat) | presenceTimeout (die comm : Nat) | chunkSendStart (die comm : Nat)
  | chainPairArrival (msg : Nat) | copyChunkArrival (msg : Nat) | transferTimeout (die comm : Nat)
  | collectiveAbort (die comm : Nat) | collectiveComplete (die comm : Nat) | switchReduce (group chunk : Nat)
  | switchGroupLoad (group epoch : Nat) (members : List Nat) | membershipApply (die comm : Nat)
  | spareJoin (die comm slot : Nat) | plQueryAccept (ple : Nat) | plQueryComplete (ple : Nat)
  -- host and scheduler
  | qtailWrite (part queue : Nat) (v : Word64) | qcfgEnable (part queue : Nat) (v : Word64)
  | qcfgDisable (part queue : Nat) (v : Word64) | qcfgConfig (part queue : Nat) (v : Word64)
  | cheadWrite (part queue : Nat) (v : Word64) | ecfgEnable (part : Nat) (v : Word64) | ecfgDisable (part : Nat) (v : Word64)
  | eheadWrite (part : Nat) (v : Word64) | ebrkContinue (part : Nat) (entry : Nat) | ebrkTerminate (part : Nat) (entry : Nat)
  | registerWrite (offset : Nat) (size : Nat) (v : Word64) | recordRead (part queue : Nat) | placementDecision (part : Nat)
  | groupComplete (part tree : Nat) | completionRecordWrite (part queue : Nat) | preemptDecision (part queue : Nat)
  | partitionConfigure (cfg : PartCfg) | hostCxlMemAccess (part addr : Nat) (write : Bool) (bytes : List Byte)
  -- power, bring-up, attestation; from here on an event acts on the subject that the state names (`State.subject`), and
  -- an attestation request on the mailbox
  | supplySag | clockStepUp | dutyUpdate | bootStep
  | getVersion | getCapabilities | negotiateAlgorithms | getDigests | getCertificate
  | challenge | getMeasurements | vendorDefinedRequest
  -- firmware services and actions, on a context (core, slot)
  | tsysNull | communicatorCreate | membershipChange | communicatorDelete | cycleCount | overflowAreaQuery
  | retry | cont | terminate | freeze | brkRecordWrite | faultResolve
  -- migration: handle, tile and what else the event names
  | migration | stubForward | redirect | directoryRequest | stubTimeout | reclaimGrant | remoteNack | remoteTimeout
  -- faults of the fabric and of storage
  | knotTimeout | knotSecondTimeout | terminationTimeout | partitionReset | routerIdleTimeout | routerWakeNotice
  | umtuicCodewordError | d2dCrcError | boundaryFailure | sramScrub | sramUncorrectable
  | storageUncorrectable | dramUncorrectable | dutyFrameBoundary | deviceReset | earlierEpochAnswer
  deriving DecidableEq, Repr

end Sys2Proof
end

