-- ==== Sys2Proof/Machine/Flags.lean ====
section
/-! DEFINITION. Number formats, exact values, every rounding and every flag (R83-R91, R98-R102, R150, R151). -/
namespace Sys2Proof

/-- Element-format codes (R61). -/
def Fmt.code : Fmt → Nat
  | .f32 => 0 | .f16 => 1 | .bf16 => 2 | .f8e4 => 3 | .f8e5 => 4 | .f4 => 5 | .s32 => 6 | .s16 => 7
  | .s8 => 8 | .s4 => 9 | .n32 => 10 | .n16 => 11 | .n8 => 12 | .n4 => 13 | .k128 => 14
def Fmt.ofCode : Nat → Option Fmt
  | 0 => some .f32 | 1 => some .f16 | 2 => some .bf16 | 3 => some .f8e4 | 4 => some .f8e5 | 5 => some .f4
  | 6 => some .s32 | 7 => some .s16 | 8 => some .s8 | 9 => some .s4 | 10 => some .n32 | 11 => some .n16
  | 12 => some .n8 | 13 => some .n4 | 14 => some .k128 | _ => none
/-- The format of a field that decoding has checked; code 15 is refused before (R61, R146). -/
def Fmt.get (c : Nat) : Fmt := (Fmt.ofCode c).getD .f32
/-- Width in bits (R61). -/
def Fmt.width : Fmt → Nat
  | .f32 | .s32 | .n32 => 32
  | .f16 | .bf16 | .s16 | .n16 => 16
  | .f8e4 | .f8e5 | .s8 | .n8 => 8
  | .f4 | .s4 | .n4 => 4
  | .k128 => 128
def Fmt.isFloat : Fmt → Bool
  | .f32 | .f16 | .bf16 | .f8e4 | .f8e5 | .f4 => true
  | _ => false
def Fmt.isSigned : Fmt → Bool
  | .s32 | .s16 | .s8 | .s4 | .k128 => true
  | _ => false
/-- Mantissa width M (R83). -/
def Fmt.mant : Fmt → Nat
  | .f32 => 23 | .f16 => 10 | .bf16 => 7 | .f8e4 => 3 | .f8e5 => 2 | .f4 => 1 | _ => 0
/-- Exponent width (R83). -/
def Fmt.expo : Fmt → Nat
  | .f32 => 8 | .f16 => 5 | .bf16 => 8 | .f8e4 => 4 | .f8e5 => 5 | .f4 => 2 | _ => 0
def Fmt.bias : Fmt → Nat
  | .f32 => 127 | .f16 => 15 | .bf16 => 127 | .f8e4 => 7 | .f8e5 => 15 | .f4 => 1 | _ => 0
def Fmt.hasInf : Fmt → Bool
  | .f32 | .f16 | .bf16 | .f8e5 => true
  | _ => false
/-- The canonical NaN (R85); f4 has none and gives +0. -/
def Fmt.nan : Fmt → Nat
  | .f32 => 0x7fc00000 | .f16 => 0x7e00 | .bf16 => 0x7fc0 | .f8e5 => 0x7e | .f8e4 => 0x7f | _ => 0
/-- The magnitude code of the largest finite value (R83). -/
def Fmt.maxCode : Fmt → Nat
  | .f32 => 0x7f7fffff | .f16 => 0x7bff | .bf16 => 0x7f7f | .f8e5 => 0x7b | .f8e4 => 0x7e | .f4 => 7 | _ => 0
/-- The magnitude code of infinity, for formats that have one. -/
def Fmt.infCode (f : Fmt) : Nat := f.maxCode + 1
/-- Class F (R146). -/
def Fmt.clsF : Fmt → Bool
  | .f32 | .f16 | .bf16 => true
  | _ => false
/-- Class I (R146). -/
def Fmt.clsI : Fmt → Bool
  | .s32 | .s16 | .s8 | .n32 | .n16 | .n8 => true
  | _ => false
def Fmt.clsFI (f : Fmt) : Bool := f.clsF || f.clsI
/-- Class W8 (R146). -/
def Fmt.clsW8 : Fmt → Bool
  | .f4 | .s4 | .n4 | .k128 => false
  | _ => true
/-- Class A (R146). -/
def Fmt.clsA : Fmt → Bool
  | .k128 => false
  | _ => true

namespace Machine

/-- The six sticky flags, bits iv, dz, of, uf, ix, sat from bit 0 (R90, R92). -/
abbrev FFlags := BitVec 6
def flIv : FFlags := 1#6
def flDz : FFlags := 2#6
def flOf : FFlags := 4#6
def flUf : FFlags := 8#6
def flIx : FFlags := 16#6
def flSat : FFlags := 32#6

/-- An exact value: NaN, an infinity, or (-1)^neg x m x 2^e, where m = 0 is a zero of that sign (R84). -/
inductive Num
  | nan
  | inf (neg : Bool)
  | fin (neg : Bool) (m : Nat) (e : Int)
  deriving DecidableEq, Repr

def Num.isNan : Num → Bool
  | .nan => true
  | _ => false
def Num.isNeg : Num → Bool
  | .nan => false
  | .inf s => s
  | .fin s _ _ => s
def Num.isZero : Num → Bool
  | .fin _ 0 _ => true
  | _ => false
def Num.isFin : Num → Bool
  | .fin _ _ _ => true
  | _ => false
def Num.zero : Num := .fin false 0 0
def Num.one : Num := .fin false 1 0
def Num.neg : Num → Num
  | .nan => .nan
  | .inf s => .inf (!s)
  | .fin s m e => .fin (!s) m e
def Num.ofInt (i : Int) : Num := .fin (i < 0) i.natAbs 0

/-- The value of a code (R84, R86). -/
def decodeNum (f : Fmt) (code : Nat) : Num :=
  if f.isFloat then
    let M := f.mant
    let s := (code >>> (M + f.expo)) % 2 = 1
    let e := (code >>> M) % 2 ^ f.expo
    let m := code % 2 ^ M
    if f.hasInf && e = 2 ^ f.expo - 1 then (if m = 0 then .inf s else .nan)
    else if f = .f8e4 && e = 15 && m = 7 then .nan
    else if e = 0 then .fin s m (1 - (f.bias : Int) - M)
    else .fin s (2 ^ M + m) ((e : Int) - f.bias - M)
  else if f.isSigned then Num.ofInt (signed f.width code)
  else Num.ofInt ((code % 2 ^ f.width : Nat) : Int)

/-- The signed integer n with value n x 2^e of a finite number, at an exponent not above its own. -/
def Num.scaled (s : Bool) (m : Nat) (e e0 : Int) : Int :=
  let v := ((m <<< (e - e0).toNat : Nat) : Int)
  if s then -v else v

/-- Exact sum; opposite infinities give NaN; an exact zero is +0 unless both are -0 (R88, R101). -/
def Num.add : Num → Num → Num
  | .nan, _ => .nan
  | _, .nan => .nan
  | .inf s, .inf t => if s = t then .inf s else .nan
  | .inf s, .fin _ _ _ => .inf s
  | .fin _ _ _, .inf t => .inf t
  | .fin s m e, .fin t n f =>
    let e0 := min e f
    let v := Num.scaled s m e e0 + Num.scaled t n f e0
    if v = 0 then .fin (s && t) 0 0 else .fin (v < 0) v.natAbs e0
def Num.sub (x y : Num) : Num := x.add y.neg
/-- Exact product; 0 x infinity gives NaN. -/
def Num.mul : Num → Num → Num
  | .nan, _ => .nan
  | _, .nan => .nan
  | .inf s, .inf t => .inf (s != t)
  | .inf s, .fin t n _ => if n = 0 then .nan else .inf (s != t)
  | .fin s m _, .inf t => if m = 0 then .nan else .inf (s != t)
  | .fin s m e, .fin t n f => .fin (s != t) (m * n) (e + f)

/-- The total order of R102 as a comparison key: sign-magnitude, -0 below +0. -/
def Num.lt : Num → Num → Bool
  | .nan, _ => false
  | _, .nan => false
  | .inf s, .inf t => s && !t
  | .inf s, .fin _ _ _ => s
  | .fin _ _ _, .inf t => !t
  | .fin s m e, .fin t n f =>
    let e0 := min e f
    let x := Num.scaled s m e e0
    let y := Num.scaled t n f e0
    if x = y then (m = 0 && n = 0 && s && !t) else x < y
/-- Numerical equality, -0 equal to +0 (R102, `vcmp`). -/
def Num.eqv : Num → Num → Bool
  | .nan, _ => false
  | _, .nan => false
  | .inf s, .inf t => s = t
  | .fin s m e, .fin t n f =>
    let e0 := min e f
    Num.scaled s m e e0 = Num.scaled t n f e0
  | _, _ => false

/-- Whether m x 2^e (plus a fraction when sticky) is greater than n x 2^f. -/
def magGt (m : Nat) (e : Int) (sticky : Bool) (n : Nat) (f : Int) : Bool :=
  let e0 := min e f
  let a := m <<< (e - e0).toNat
  let b := n <<< (f - e0).toNat
  a > b || (sticky && a = b)

/-- Rounding of a magnitude at a given ulp exponent q, to nearest, ties to even (R88): the multiple and whether it
is inexact. -/
def roundAt (m : Nat) (e q : Int) (sticky : Bool) : Nat × Bool :=
  if q ≤ e then (m <<< (e - q).toNat, sticky)
  else
    let s := (q - e).toNat
    let t := m >>> s
    let rem := m % 2 ^ s
    let half := 2 ^ (s - 1)
    let up := rem > half || (rem = half && (sticky || t % 2 = 1))
    ((if up then t + 1 else t), rem ≠ 0 || sticky)

/-- Round a non-zero magnitude m x 2^e to a float format (R88, R89): code and flags. `quant` takes the quantising column. -/
def roundMag (f : Fmt) (quant : Bool) (neg : Bool) (m : Nat) (e : Int) (sticky : Bool) : Nat × FFlags :=
  let M := f.mant
  let emin : Int := 1 - (f.bias : Int) - M
  let q := max (e + bitLen m - (M + 1)) emin
  let (r, ix) := roundAt m e q sticky
  let mag := if r = 0 then 0 else ((q - emin).toNat <<< M) + r
  let sgn := if neg then 1 <<< (M + f.expo) else 0
  let past : Bool := match f with
    | .f8e4 => magGt m e sticky 448 0
    | .f4 => magGt m e sticky 6 0
    | _ => decide (f.maxCode < mag)
  let tiny : Bool := decide (e + bitLen m ≤ emin + M)
  if past then
    if f.hasInf && !quant then (sgn + f.infCode, flOf ||| flIx)
    else (sgn + f.maxCode, flSat ||| flIx)
  else (sgn + mag, (if ix then flIx else 0) ||| (if ix && tiny then flUf else 0))

/-- Round an exact value to a float format (R89). A NaN gives the canonical NaN, or +0 in f4, and invalid; in f8e4 its NaN alone (R85; log
38). -/
def roundTo (f : Fmt) (quant : Bool) : Num → Nat × FFlags
  | .nan => (f.nan, if f = .f8e4 then 0 else flIv)
  | .inf s =>
    let sgn := if s then 1 <<< (f.mant + f.expo) else 0
    if f.hasInf && !quant then (sgn + f.infCode, 0) else (sgn + f.maxCode, flSat)
  | .fin s m e =>
    if m = 0 then ((if s then 1 <<< (f.mant + f.expo) else 0), 0) else roundMag f quant s m e false

/-- The nearest integer, ties to even, or toward zero; and whether it differs. -/
def toInteger (rz : Bool) (s : Bool) (m : Nat) (e : Int) : Int × Bool :=
  let (r, ix) := if rz then
      (if 0 ≤ e then (m <<< e.toNat, false) else (m >>> (-e).toNat, m % 2 ^ (-e).toNat ≠ 0))
    else roundAt m e 0 false
  (if s then -(r : Int) else (r : Int), ix)

/-- Least and greatest value of an integer format; quantising leaves out the most negative code (R89). -/
def intLo (f : Fmt) (quant : Bool) : Int :=
  if f.isSigned then (if quant then -(2 ^ (f.width - 1) : Nat) + 1 else -(2 ^ (f.width - 1) : Nat)) else 0
def intHi (f : Fmt) : Int :=
  if f.isSigned then (2 ^ (f.width - 1) : Nat) - 1 else (2 ^ f.width : Nat) - 1
/-- Clamp to a format; true when clamped. -/
def clampInt (f : Fmt) (quant : Bool) (x : Int) : Int × Bool :=
  if x < intLo f quant then (intLo f quant, true) else if intHi f < x then (intHi f, true) else (x, false)

/-- Conversion of an exact value to any format (R89); a clamped one sets `sat` only (log 38). -/
def convert (f : Fmt) (quant rz : Bool) (x : Num) : Nat × FFlags :=
  if f.isFloat then roundTo f quant x
  else match x with
    | .nan => (0, flIv)
    | .inf s => (wrap f.width (if s then intLo f quant else intHi f), flSat)
    | .fin s m e =>
      let (r, ix) := toInteger rz s m e
      let (c, cl) := clampInt f quant r
      (wrap f.width c, if cl then flSat else if ix then flIx else 0)

/-- A result from operands: a NaN made from operands none of which is NaN is invalid (R90, R149). -/
def result (f : Fmt) (anyNan : Bool) (x : Num) : Nat × FFlags :=
  match x with
  | .nan => (f.nan, if anyNan then 0 else flIv)
  | _ => roundTo f false x

/-- Addition, subtraction, multiplication in a float format (R149). -/
def fAdd (f : Fmt) (x y : Nat) : Nat × FFlags :=
  let a := decodeNum f x
  let b := decodeNum f y
  result f (a.isNan || b.isNan) (a.add b)
def fSub (f : Fmt) (x y : Nat) : Nat × FFlags :=
  let a := decodeNum f x
  let b := decodeNum f y
  result f (a.isNan || b.isNan) (a.sub b)
def fMul (f : Fmt) (x y : Nat) : Nat × FFlags :=
  let a := decodeNum f x
  let b := decodeNum f y
  result f (a.isNan || b.isNan) (a.mul b)
/-- Fused multiply-add: negp negates the product, negz the addend (R149). -/
def fMac (f : Fmt) (negp negz : Bool) (x y z : Nat) : Nat × FFlags :=
  let a := decodeNum f x
  let b := decodeNum f y
  let c := decodeNum f z
  let p := a.mul b
  let p := if negp then p.neg else p
  result f (a.isNan || b.isNan || c.isNan) (p.add (if negz then c.neg else c))

/-- A quotient of naturals with k extra bits: floor(n x 2^k / d) and whether a remainder is left. -/
def quotBits (n d k : Nat) : Nat × Bool := let x := n <<< k; (x / d, x % d ≠ 0)
/-- Division in a float format (R276, IEEE 754-2019): special values as exact arithmetic gives them, x/0 infinite. -/
def fDiv (f : Fmt) (x y : Nat) : Nat × FFlags :=
  match decodeNum f x, decodeNum f y with
  | .nan, _ => (f.nan, 0)
  | _, .nan => (f.nan, 0)
  | .inf _, .inf _ => (f.nan, flIv)
  | .inf s, .fin t _ _ => roundTo f false (.inf (s != t))
  | .fin s _ _, .inf t => roundTo f false (.fin (s != t) 0 0)
  | .fin s m e, .fin t n g =>
    if n = 0 then (if m = 0 then (f.nan, flIv) else ((roundTo f false (.inf (s != t))).1, flDz))
    else if m = 0 then roundTo f false (.fin (s != t) 0 0)
    else
      let k := bitLen n + 40
      let (q, st) := quotBits m n k
      roundMag f false (s != t) q (e - g - k) st

/-- Reciprocal (R150). -/
def fRcp (f : Fmt) (x : Nat) : Nat × FFlags :=
  match decodeNum f x with
  | .nan => (f.nan, 0)
  | .inf s => roundTo f false (.fin s 0 0)
  | .fin s m e =>
    if m = 0 then ((roundTo f false (.inf s)).1, flDz)
    else
      let k := bitLen m + 40
      let (q, st) := quotBits 1 m k
      roundMag f false s q (-e - k) st

/-- Integer square root by bits, the highest first. -/
def isqrtAux (x : Nat) : Nat → Nat → Nat
  | 0, r => r
  | n + 1, r =>
    let r' := r + 2 ^ n
    isqrtAux x n (if r' * r' ≤ x then r' else r)
def isqrt (x : Nat) : Nat := isqrtAux x (bitLen x / 2 + 1) 0

/-- Reciprocal square root (R150): floor(sqrt(2^k / m)) with a sticky remainder, rounded once. -/
def fRsqrt (f : Fmt) (x : Nat) : Nat × FFlags :=
  match decodeNum f x with
  | .nan => (f.nan, 0)
  | .inf s => if s then (f.nan, flIv) else (0, 0)
  | .fin s m e =>
    if m = 0 then ((roundTo f false (.inf s)).1, flDz)
    else if s then (f.nan, flIv)
    else
      -- x = m 2^e with e even after adjustment; 1/sqrt(x) = sqrt(2^(2k)/m) 2^(-k-e/2)
      let (m, e) := if e % 2 = 0 then (m, e) else (2 * m, e - 1)
      let k := bitLen m + 40
      let n := 2 ^ (2 * k)
      let q := n / m
      let r := isqrt q
      let exact := r * r * m = n
      roundMag f false false r (-(k : Int) - e / 2) (!exact)

/-- ln 2 as a fixed-point number with 256 fraction bits. -/
def ln2Fixed : Nat := 80260960185991308862233904206310070533990667611589946606122867505419956976171
/-- Taylor terms of exp at y / 2^256: the running sum after n more terms. -/
def expSeries (y : Nat) : Nat → Nat → Nat → Nat → Nat
  | 0, _, _, acc => acc
  | n + 1, i, t, acc =>
    let t' := t * y / (i * 2 ^ 256)
    expSeries y n (i + 1) t' (acc + t')

/-- 2^x, correctly rounded (R101, R150): the fraction by 80 terms at 256 bits (log 14). -/
def fExp2 (f : Fmt) (x : Nat) : Nat × FFlags :=
  match decodeNum f x with
  | .nan => (f.nan, 0)
  | .inf s => if s then (0, 0) else (f.infCode, 0)
  | .fin s m e =>
    if m = 0 then roundTo f false Num.one
    else if 12 ≤ e + bitLen m then
      -- |x| of 2^11 or more lies beyond every class F format
      if s then roundMag f false false 1 (-100000) false else roundMag f false false 1 100000 false
    else if 0 ≤ e then
      let n : Int := if s then -((m <<< e.toNat : Nat) : Int) else ((m <<< e.toNat : Nat) : Int)
      roundMag f false false 1 n false
    else
      let k := (-e).toNat
      let v : Int := if s then -(m : Int) else (m : Int)
      let ip := v / (2 ^ k : Nat)
      let fr := (v % (2 ^ k : Nat)).toNat
      if fr = 0 then roundMag f false false 1 ip false
      else
        let y := if k ≤ 256 then (fr <<< (256 - k)) * ln2Fixed / 2 ^ 256 else (fr >>> (k - 256)) * ln2Fixed / 2 ^ 256
        let r := expSeries y 80 1 (2 ^ 256) (2 ^ 256)
        roundMag f false false r (ip - 256) true

/-- Binary digits of log2 of a fixed-point mantissa in [1, 2) with 400 fraction bits, by repeated squaring. -/
def logBits : Nat → Nat → Nat → Nat
  | 0, _, acc => acc
  | n + 1, y, acc =>
    let z := y * y / 2 ^ 400
    if 2 ^ 401 ≤ z then logBits n (z / 2) (2 * acc + 1) else logBits n z (2 * acc)

/-- log2 x, correctly rounded (R101, R150): 200 fraction digits (log 14). -/
def fLog2 (f : Fmt) (x : Nat) : Nat × FFlags :=
  match decodeNum f x with
  | .nan => (f.nan, 0)
  | .inf s => if s then (f.nan, flIv) else (f.infCode, 0)
  | .fin s m e =>
    if m = 0 then ((roundTo f false (.inf true)).1, flDz)
    else if s then (f.nan, flIv)
    else
      let n := e + bitLen m - 1
      if m = 2 ^ (bitLen m - 1) then roundTo f false (Num.ofInt n)
      else
        let y := m <<< (400 - (bitLen m - 1))
        let b := logBits 200 y 0
        -- log2 x = n + b / 2^200 plus less than one unit
        let v : Int := n * (2 ^ 200 : Nat) + (b : Int)
        if 0 ≤ v then roundMag f false false v.natAbs (-200) true
        else roundMag f false true (v.natAbs - 1) (-200) true

/-- Nearest integral value in the format (R149). -/
def fRnd (f : Fmt) (x : Nat) : Nat × FFlags :=
  match decodeNum f x with
  | .nan => (f.nan, 0)
  | .inf s => roundTo f false (.inf s)
  | .fin s m e =>
    let (r, ix) := toInteger false s m e
    ((roundTo f false (.fin s r.natAbs 0)).1, if ix then flIx else 0)

/-- Absolute value and negation; a NaN gives the canonical NaN (R149). -/
def fAbs (f : Fmt) (x : Nat) : Nat := if (decodeNum f x).isNan then f.nan else x % 2 ^ (f.width - 1)
def fNeg (f : Fmt) (x : Nat) : Nat := if (decodeNum f x).isNan then f.nan else x ^^^ 2 ^ (f.width - 1)

/-- Lesser and greater by the total order, NaN when either is NaN (R102). -/
def fMin (f : Fmt) (x y : Nat) : Nat :=
  if (decodeNum f x).isNan || (decodeNum f y).isNan then f.nan
  else if (decodeNum f y).lt (decodeNum f x) then y else x
def fMax (f : Fmt) (x y : Nat) : Nat :=
  if (decodeNum f x).isNan || (decodeNum f y).isNan then f.nan
  else if (decodeNum f x).lt (decodeNum f y) then y else x

/-- The exact sum of terms, by R101: NaN if any is NaN or opposite infinities meet, -0 only if every term is -0. -/
def sumExact (l : List Num) : Num :=
  match l with
  | [] => Num.zero
  | x :: r => r.foldl Num.add x
/-- The sum of codes rounded once, with its flags (R160); one that is a NaN sets iv, whatever made it (R101; log 38). -/
def fSum (f : Fmt) (l : List Nat) : Nat × FFlags := result f false (sumExact (l.map (decodeNum f)))

/-- The integer value of a code (R86). -/
def intOf (f : Fmt) (x : Nat) : Int := if f.isSigned then signed f.width x else ((x % 2 ^ f.width : Nat) : Int)

/-- `twosum` on f32 codes (R10): hi, lo and the flags of the addition into lo. -/
def twosum (hi lo x : Nat) : Nat × Nat × FFlags :=
  let s := (fAdd .f32 hi x).1
  let bp := (fSub .f32 s hi).1
  let e := (fAdd .f32 (fSub .f32 hi (fSub .f32 s bp).1).1 (fSub .f32 x bp).1).1
  let (l, fl) := fAdd .f32 lo e
  (s, l, fl)
/-- One accumulation step of R99 (and R151): hi, lo, flags. -/
def accStep (hi lo x : Nat) : Nat × Nat × FFlags :=
  let h := decodeNum .f32 hi
  let v := decodeNum .f32 x
  let (s, fs) := fAdd .f32 hi x
  if v.isNan || h.isNan || !(decodeNum .f32 s).isFin then
    (s, 0, fs)
  else
    let (a, b, fl) := twosum hi lo x
    (a, b, fl &&& (flIx ||| flUf))
/-- Readout of a pair (R100): the exact sum hi + lo times an optional factor, rounded once to a format. -/
def pairNum (hi lo : Nat) : Num :=
  (decodeNum .f32 hi).add (decodeNum .f32 lo)
def readPair (f : Fmt) (hi lo : Nat) : Nat := (roundTo f false (pairNum hi lo)).1
/-- An f32 widened or any float code converted to f32 exactly (R249, R276). -/
def toF32 (f : Fmt) (x : Nat) : Nat := (roundTo .f32 false (decodeNum f x)).1
def natF32 (n : Nat) : Nat := (roundTo .f32 false (Num.ofInt n)).1

/-- K128 units of a contribution: floor(x x 2^(100-W)) (R72); none for NaN or infinity. -/
def k128Units (W : Int) : Num → Option Int
  | .fin s m e =>
    let k := e + (100 - W)
    let v : Int := if s then -(m : Int) else (m : Int)
    some (if 0 ≤ k then v * (2 ^ k.toNat : Nat) else v / (2 ^ (-k).toNat : Nat))
  | _ => none
/-- The value of a K128 element (R72, R73). -/
def k128Num (W : Int) (n : Int) : Num := .fin (n < 0) n.natAbs (W - 100)

end Machine
end Sys2Proof
end

