-- ==== Sys2Proof/Config.lean ====
section
/-! DEFINITION. What the manual leaves open: free values, each an opaque constant applied to a counter of the
state or to the operands it depends on, and the fixed choices of one implementation. -/
namespace Sys2Proof.Config

/-- A duration that R397 does not fix, in cycles. Free for every use (log 4). -/
opaque duration : Nat → Nat
/-- A choice the rules leave open (which of two allowed outcomes occurs). Free for every use (log 5). -/
opaque choice : Nat → Bool
/-- An index chosen by the implementation, such as the translation a full cache replaces (R66) (log 5). -/
opaque index : Nat → Nat
/-- Whether a fetch is served from the instruction cache's copy of a line or from memory: a fresh number, the line (R21) (log 32). -/
opaque cached : Nat → Nat → Bool
/-- A byte of a gang's save, whose layout is firmware's: a fresh number (R48, R310) (log 27). -/
opaque saveByte : Nat → Byte
/-- The contents of a window row at the start of a group, undefined by R27: a function of the core, the row and
a fresh number (log 6). -/
opaque undefinedRow : Nat → Nat → Nat → Row
/-- Data that another chip returns to a remote read: one byte for a fresh number (R79) (log 7). -/
opaque remoteByte : Nat → Byte
/-- Byte of a frame beyond the converted elements after a recast from A, for a fresh number (R73, R77) (log 22). -/
opaque frameRest : Nat → Byte
/-- The image of the transform cores' routines that the device's firmware holds, the code and the 64 entry addresses in it (R225) (log 8). -/
opaque transformImage : List Byte
opaque transformCode : List Byte → List Byte
opaque transformTable : List Byte → List Nat
/-- Whether the vector unit of a transform core sets an element that an agnostic policy leaves open to ones: instruction of the call, element
(R226) (log 8). -/
opaque vectorAgnostic : Nat → Nat → Bool
/-- The part of the vector length that an implementation chooses between half the application's length and the longest (R226) (log 8). -/
opaque vectorLength : Nat → Nat → Nat
/-- An unordered floating-point sum: width, rounding mode, elements; value and flags (R226) (log 8). -/
opaque unorderedSum : Nat → Nat → List Nat → Nat × Nat
/-- Whether a boot step (step, its number within the step, alternate or not, boot count) passes (R318) (log 9). -/
opaque bootPasses : Nat → Nat → Bool → Nat → Bool
/-- Whether both signatures of a byte string verify against the device's keys (R322) (log 10). -/
opaque signatureValid : List Byte → Bool
/-- The security version that an image or a routine section names (R322) (log 10). -/
opaque securityVersion : List Byte → Nat
/-- The control-core firmware image in a slot of the flash: 0 first, 1 backup (R318, R322) (log 10). -/
opaque firmwareImage : Nat → List Byte
/-- The number of the alias key that a boot derives from the device identity and the measurements of indices 1-3 (R324) (log 10). -/
opaque aliasKey : List Byte → Nat
/-- The bytes of a measured item, whose layout the manual does not give, from what it holds: index, contents (R323) (log 10). -/
opaque measuredBytes : Nat → List Nat → List Byte
/-- Prieri's registry identifier (R323) (log 10). -/
opaque registryId : List Byte
/-- Routers on a packet's way through the mortar network; the manual numbers no routers and fixes no route (R369; log 76). -/
opaque path : Nat → List Nat
/-- The firmware-set error limit of a Umtuic port, in codewords not corrected within 1 ms, and the chip at its far end, if known (R361, R370)
(log 62). -/
opaque portLimit : Nat → Nat
opaque portPeer : Nat → Option Nat
/-- Whether a port's way leads to another chip, itself or through others: port, chip (R262, R370, R385) (log 62). -/
opaque reaches : Nat → Nat → Bool
/-- The time-outs that firmware sets for a communicator, none for the default, at a fresh number (R372, R373) (log 24). -/
opaque joinWait : Nat → Option Nat
opaque transferWait : Nat → Option Nat
/-- The routines that firmware loads at entries 8-31 from its own configuration, as `kyas` writes them: index, microwords (R201) (log 66). -/
opaque firmwareRoutines : List (Nat × List Word64)
/-- A signature over a digest: with the alias key of that number for index 0, else with the lower HSS tree of that number at a leaf (R323,
R324) (log 10). -/
opaque signature : Nat → Nat → List Byte → List Byte
/-- The certificate chain provisioned in a slot; slot 0's ends in the alias key of that number (R324) (log 10). -/
opaque certificateChain : Nat → Nat → List Byte
/-- The body of an SPDM response the manual does not lay out: request code, then a fresh number (R323) (log 10). -/
opaque spdmBody : Nat → Nat → List Byte
/-- The estimated power of a die, in watts, at a fresh number (R317) (log 11). -/
opaque diePower : Nat → Nat
/-- Firmware's answer to a fault it may settle (S1MISS, R345): none refuses, some writes the entry (log 12). -/
opaque missEntry : Nat → Nat → Nat → Option Word64
/-- The status firmware's runtime extension lands in s1 to s7 for codes it serves (R231, R337): code, register,
fresh number; none for a code that no loaded firmware serves (log 13). -/
opaque extensionService : Nat → Nat → Option (Nat → Word64)
/-- Operand width that an unassigned kind 111 gives a row block, 0 to 2 for 16, 8 and 4 bits (R92, R185) (log 21). -/
opaque unassignedKind : Nat
/-- Side rows of a block bound under the unassigned gsz 11 (R92, R185) (log 21). -/
opaque unassignedSides : Nat

end Sys2Proof.Config
end

