-- ==== Sys2Proof/WellFormed.lean ====
section
/-! DEFINITION. Well-formed instructions: every check of an operand field that decoding makes on the instruction as
syntax (R109, R129, R147, R154-R164, R167, R170, R174, R175, R189, R191, R204, R213-R215, R224, R228, R251, R332).
A check that fails names the sub-code of R332, the bit offset of the field in its syllable, and the field's value. -/
namespace Sys2Proof

/-- One field that breaks its rule: sub-code (R332), bit offset within the syllable, value (R331). -/
structure FieldErr where
  sub : Nat
  off : Nat
  val : Nat
  deriving DecidableEq, Repr

/-- A check: nothing when it holds. -/
def need (ok : Bool) (sub off val : Nat) : List FieldErr := if ok then [] else [⟨sub, off, val⟩]
/-- A field that holds 0 (R129, R147, R167, R189, R204, R228). -/
def needZero {n : Nat} (x : BitVec n) (off : Nat) : List FieldErr := need (x == 0) 4 off x.toNat
/-- A vector register name: 640-1023 are unassigned (R109). -/
def needVec (x : BitVec 10) (off : Nat) : List FieldErr := need (x.toNat < 640) 3 off x.toNat
/-- The first register of a pair d, d + 1 lies in one tier (R164). -/
def needPair (x : BitVec 10) : List FieldErr :=
  need (x.toNat != 511 && x.toNat != 607 && x.toNat != 639) 5 41 x.toNat
/-- An element type of a class (R146, R164). -/
def needTy (ty : BitVec 4) (ok : Fmt → Bool) (off : Nat) : List FieldErr :=
  need (match Fmt.ofCode ty.toNat with | some f => ok f | none => false) 5 off ty.toNat
/-- Lanes of a type (R146). -/
def lanesOf (ty : BitVec 4) : Nat := 1024 / (Fmt.get ty.toNat).width

def AluOp.errs (o : AluOp) (unary : Bool) : List FieldErr :=
  (if o.i || unary then needZero o.b 32 else []) ++ (if o.i then [] else needZero o.imm 0)
def SelOp.errs (o : SelOp) : List FieldErr :=
  (if o.i then needZero o.b 32 else needZero o.imm 0)

/-- Two-source common layout: a and b name registers, c and x are zero. -/
def VecOp.errs2 (o : VecOp) (ok : Fmt → Bool) : List FieldErr :=
  needVec o.d 41 ++ needVec o.a 31 ++ needVec o.b 21 ++ needZero o.c 11 ++ needTy o.ty ok 3 ++ needZero o.x 0
/-- One-source common layout. -/
def VecOp.errs1 (o : VecOp) (ok : Fmt → Bool) : List FieldErr :=
  needVec o.d 41 ++ needVec o.a 31 ++ needZero o.b 21 ++ needZero o.c 11 ++ needTy o.ty ok 3 ++ needZero o.x 0
/-- Three-source common layout. -/
def VecOp.errs3 (o : VecOp) (ok : Fmt → Bool) : List FieldErr :=
  needVec o.d 41 ++ needVec o.a 31 ++ needVec o.b 21 ++ needVec o.c 11 ++ needTy o.ty ok 3 ++ needZero o.x 0
/-- Shifts (R153). -/
def VecOp.errsShift (o : VecOp) : List FieldErr :=
  needVec o.d 41 ++ needVec o.a 31 ++ (if o.x.getLsbD 0 then needZero o.b 21 else needVec o.b 21 ++ needZero o.c 11)
    ++ needTy o.ty Fmt.clsI 3 ++ needZero (o.x.extractLsb' 1 2) 1

/-- Source types of `vunpk` (R157). -/
def unpkSrc : Fmt → Bool
  | .s16 | .s8 | .s4 | .n16 | .n8 | .n4 => true
  | _ => false
/-- Result types of `vquant` (R156). -/
def quantTy : Fmt → Bool
  | .f16 | .bf16 | .f8e4 | .f8e5 | .f4 | .s8 | .n8 | .s4 | .n4 => true
  | _ => false
/-- Source types of `vdeq` (R156). -/
def deqSrc : Fmt → Bool
  | .s8 | .n8 | .s4 | .n4 | .f8e4 | .f8e5 | .f4 => true
  | _ => false
def topkTy : Fmt → Bool
  | .f32 | .f16 | .bf16 | .s32 | .n32 | .s16 | .n16 => true
  | _ => false
def isInt (f : Fmt) : Bool := !f.isFloat && f.clsA
def CvtOp.from (o : CvtOp) : Fmt := Fmt.get o.fty.toNat
def CvtOp.to (o : CvtOp) : Fmt := Fmt.get o.ty.toNat
/-- The part ratio q (R155). -/
def CvtOp.ratio (o : CvtOp) : Nat :=
  max o.from.width o.to.width / min o.from.width o.to.width
def CvtOp.errsCommon (o : CvtOp) (src dst : Fmt → Bool) : List FieldErr :=
  needVec o.d 41 ++ needVec o.a 31 ++ needTy o.fty src 17 ++ needTy o.ty dst 3
def CvtOp.errsPart (o : CvtOp) : List FieldErr := need (o.part.toNat < o.ratio) 5 14 o.part.toNat
def CvtOp.errsRz (o : CvtOp) (ok : Bool) : List FieldErr := need (!o.rz || ok) 5 13 1
def CvtOp.errsBw (o : CvtOp) (ok : Bool) : List FieldErr := need (!o.bw || ok) 5 12 1

/-- Data operations of the synchronisation engine (R228, R235): which fields an operation uses. -/
def SeOp.errs (o : SeOp) (ret h b c data : Bool) : List FieldErr :=
  (if ret then [] else needZero o.d 36) ++ (if h then [] else needZero o.h 30) ++ (if b then [] else needZero o.b 24)
    ++ (if c then [] else needZero o.c 18)
    ++ (if ret then need (o.land != 0) 5 12 0 else need (o.land == 0) 5 12 o.land.toNat)
    ++ need (data || !o.wd) 5 11 1

/-- The transfer layout (R204). `ringOk`: `cp.in` and `cp.gat`; `rows`: the command has data rows. Without an
address register of data rows only `an` must be zero (R332). -/
def CopyOp.errs (o : CopyOp) (ringOk rows : Bool) (xok : List FieldErr) : List FieldErr :=
  need (!o.rg || ringOk) 5 16 1 ++
    (if o.rg || !rows then needZero o.an 41 else [])
    ++ (if o.rg then [] else needZero o.ring 13) ++ xok

/-- A loop level 0-5 (R109). -/
def needLvl (x : BitVec 3) (off : Nat) : List FieldErr := need (x.toNat < 6) 3 off x.toNat
/-- A special register of R109. -/
def specOk (x : BitVec 6) : Bool := x.toNat ≤ 8 || (16 ≤ x.toNat && x.toNat ≤ 23)

/-- Every check of an instruction's fields that its own operands decide. An empty list: the instruction is well formed.
Events of the device are not encoded and have no fields to check. -/
def Instr.errs : Instr → List FieldErr
  | .snop | .knot | .yield | .lfence | .halt | .drain _ | .qfence _ | .fmtset _ | .tsys _ | .brk _ => []
  | .seLd o => o.errs true true false false true
  | .seSt o => o.errs false true true false true
  | .seAdd o | .seMin o | .seMax o | .seAnd o | .seOr o | .seXor o | .seSwap o => o.errs true true true false true
  | .seCas o => o.errs true true true true true
  | .seArrive o => o.errs true true true false false
  | .seAwait o | .seSemdown o | .seSemup o => o.errs false true true false false
  | .seAlloc o => o.errs true false false false false
  | .seFree o => o.errs false true false false false
  | .sadd o | .ssub o | .smul o | .smulh o | .smulhn o | .sdiv o | .sdivn o | .srem o | .sremn o | .sand o | .sor o
  | .sxor o | .sandn o | .sshl o | .sshr o | .ssra o | .srot o | .smin o | .smax o | .sminn o | .smaxn o => o.errs false
  | .sclz o | .sctz o | .spop o => o.errs true
  | .ssel o => o.errs
  | .scmp o => needZero (o.d.extractLsb' 4 2) 49 ++ o.errs ++ need (o.x.toNat < 10) 5 28 o.x.toNat
  | .sli _ _ | .slih _ _ => []
  | .smov d a kind idx h =>
    let k := kind.toNat
    (if k = 2 || k = 6 || k = 7 then needZero d 45 else []) ++
    (if k = 1 || k = 3 || k = 4 || k = 5 then needZero a 39 else []) ++
    (if k ≥ 4 then needLvl idx 33 else if k = 1 || k = 2 then [] else needZero idx 33) ++
    (if k = 1 || k = 2 then [] else need (!h) 4 32 1)
  | .pand _ _ _ | .por _ _ _ | .pxor _ _ _ | .pnot _ _ => []
  | .pmov _ src f => if f then [] else needZero (src.extractLsb' 4 2) 43
  | .br _ | .jmp _ | .call _ _ | .ret _ | .jr _ _ => []
  | .loop lvl ci a _ cnt => needLvl lvl 48 ++ (if ci then needZero a 41 else needZero cnt 0)
  | .lbody _ lo hi _ => needLvl lo 9 ++ needLvl hi 6 ++ need (lo.toNat ≤ hi.toNat) 5 6 hi.toNat
  | .mfs _ spec | .mts _ spec => need (specOk spec) 3 32 spec.toNat
  | .amov _ _ _ => []
  | .aadd _ _ i b imm => if i then needZero b 36 else needZero imm 0
  | .vadd o | .vsub o | .vmul o | .vmin o | .vmax o => o.errs2 Fmt.clsFI
  | .vfma o | .vfms o | .vfnma o => o.errs3 Fmt.clsF
  | .vabs o | .vneg o => o.errs1 Fmt.clsFI
  | .vrcp o | .vrsqrt o | .vexp2 o | .vlog2 o | .vrnd o => o.errs1 Fmt.clsF
  | .vtsum o => o.errs1 (· == .f32) ++ needPair o.d
  | .vcmp o =>
    needZero (o.d.extractLsb' 3 7) 44 ++ needVec o.a 31 ++ needVec o.b 21 ++ needZero o.c 11 ++ needTy o.ty Fmt.clsFI 3
      ++ need (o.x.toNat < 6) 5 0 o.x.toNat
  | .vsel o => o.errs2 Fmt.clsA ++ need (!o.ke) 5 7 1
  | .vmulh o | .vsadd o | .vssub o => o.errs2 Fmt.clsI
  | .vshl o | .vshr o | .vsra o => o.errsShift
  | .vand o | .vor o | .vxor o | .vandn o => o.errs2 Fmt.clsA
  | .vpopc o => o.errs1 Fmt.clsI
  | .vcvt o => o.errsCommon Fmt.clsA Fmt.clsA ++ needZero o.b 21 ++ o.errsPart
      ++ o.errsRz (o.from.isFloat && isInt o.to) ++ o.errsBw false
  | .vquant o => o.errsCommon (· == .f32) quantTy ++ needVec o.b 21 ++ o.errsPart ++ o.errsRz false ++ o.errsBw true
  | .vdeq o => o.errsCommon deqSrc Fmt.clsF ++ needVec o.b 21 ++ o.errsPart ++ o.errsRz false ++ o.errsBw true
  | .vpack o => o.errsCommon Fmt.clsI isInt ++ needVec o.b 21 ++ needZero o.part 14 ++ o.errsRz false ++ o.errsBw false
      ++ need (o.from.width == 2 * o.to.width) 5 3 o.ty.toNat
  | .vunpk o => o.errsCommon unpkSrc isInt ++ needZero o.b 21 ++ need (o.part.toNat < 2) 5 14 o.part.toNat
      ++ o.errsRz false ++ o.errsBw false ++ need (2 * o.from.width == o.to.width) 5 3 o.ty.toNat
  | .vperm o => o.errs2 Fmt.clsW8
  | .vrotm d a b i sr off => needVec d 41 ++ needVec a 31 ++ needVec b 21 ++ (if i then needZero sr 14 else needZero off 7)
  | .vbcast o => needVec o.d 41 ++ needVec o.a 31 ++ needZero o.b 21 ++ needTy o.ty Fmt.clsW8 3 ++ needZero o.x 0
      ++ need (o.c.toNat < lanesOf o.ty) 5 11 o.c.toNat
  | .vshuf o => needVec o.d 41 ++ needVec o.a 31 ++ (if o.x.toNat = 4 then needZero o.b 21 else needVec o.b 21)
      ++ needZero o.c 11 ++ needTy o.ty Fmt.clsW8 3 ++ need (o.x.toNat < 5) 5 0 o.x.toNat
  | .vslide o => needVec o.d 41 ++ needVec o.a 31 ++ needVec o.b 21 ++ needTy o.ty Fmt.clsW8 3 ++ needZero o.x 0
      ++ need (o.c.toNat ≤ lanesOf o.ty) 5 11 o.c.toNat
  | .vredsum o | .vredmax o | .vredmin o | .vscan o => o.errs1 Fmt.clsFI
  | .vtopk o => needVec o.d 41 ++ needPair o.d ++ needVec o.a 31 ++ needZero o.b 21 ++ needTy o.ty topkTy 3
      ++ needZero (o.x.extractLsb' 1 2) 1 ++ need (o.c != 0 && o.c.toNat ≤ lanesOf o.ty) 5 11 o.c.toNat
  | .vmov o => o.errs1 Fmt.clsA
  | .vsplat o => needVec o.d 41 ++ needZero o.a 31 ++ (if o.i then needZero o.sr 24 else needZero o.imm 12)
      ++ needTy o.ty Fmt.clsA 3
  | .vext o => needZero (o.d.extractLsb' 6 4) 47 ++ needVec o.a 31 ++ need (!o.i) 4 30 1 ++ needZero o.sr 24
      ++ needZero o.km 8 ++ need (!o.ke) 4 7 1 ++ needTy o.ty Fmt.clsW8 3
      ++ need (o.imm.toNat < lanesOf o.ty) 5 12 o.imm.toNat
  | .vins o => needVec o.d 41 ++ needZero o.a 31 ++ need (!o.i) 4 30 1 ++ needTy o.ty Fmt.clsW8 3
      ++ need (o.imm.toNat < lanesOf o.ty) 5 12 o.imm.toNat
  | .vidx o => needVec o.d 41 ++ needZero o.a 31 ++ needZero o.b 21 ++ needTy o.ty Fmt.clsI 3 ++ needZero o.x 0
  | .kand _ _ _ | .kor _ _ _ | .kxor _ _ _ | .kinv _ _ | .kpop _ _ | .kmov _ _ => []
  | .ldRow v _ | .stRow v _ | .stRing v _ | .ldPeek v _ _ => needVec v 41
  | .ldLane v _ lane ty | .stLane v _ lane ty => needVec v 41 ++ needTy ty Fmt.clsA 3
      ++ need (lane.toNat < lanesOf ty) 5 16 lane.toNat
  | .ldK _ _ _ => []
  | .xsel _ _ _ _ dc dr => need (dc.toInt ≤ 95 && -95 ≤ dc.toInt) 5 13 dc.toNat
      ++ need (dr.toInt ≤ 23 && -23 ≤ dr.toInt) 5 7 dr.toNat
  | .stRowk v _ _ ty => needVec v 41 ++ needTy ty Fmt.clsA 3
  | .stFill _ _ _ => []
  | .xsend v r sk _ _ =>
    if sk then needVec v 41 ++ needZero r.an 37 ++ need (!r.pm) 4 36 1 ++ needZero r.off 24 else needZero v 41
  | .mcall _ _ alt rep => need (!alt || rep.isSome) 4 41 1
  | .mset kind idx _ => need (!(kind && idx.getLsbD 2)) 3 44 idx.toNat
  | .mring _ _ | .macz _ _ | .mroute _ _ | .mwait _ _ _ _ | .mfmt _ _ => []
  | .mread vd _ _ mode => needVec vd 38 ++ need (mode != 3) 5 30 3
  | .mwrite vh vl _ _ _ => needVec vh 38 ++ needVec vl 28
  | .cpDesc _ _ _ _ _ _ => []
  | .cpIn o | .cpGat o => o.errs true true (needZero o.x 0)
  | .cpOut o | .cpSca o => o.errs false true (needZero o.x 0)
  | .cpAcc o => o.errs false true (needZero (o.x.extractLsb' 0 12) 0)
  | .cpSl o => o.errs false false (needZero (o.x.extractLsb' 0 9) 0)
  | .cpXf o => need (o.icnt.toNat < 96) 5 14 o.icnt.toNat ++ need (o.ocnt.toNat < 96) 5 7 o.ocnt.toNat
  | .cpRep o => o.errs false false (needZero (o.x.extractLsb' 0 5) 0 ++
      need (o.x.extractLsb' 11 2 != 3) 5 11 3 ++
      (if o.x.extractLsb' 11 2 == 2 then [] else needZero (o.x.extractLsb' 5 6) 5))
  | .cpCurSet _ _ _ | .cpCurSave _ _ _ _ _ _ | .cpCurStatus _ _ _ _ _ => []
  | .rcast o => if o.role == 3 then [] else needZero o.owner 34
  | .plQ _ => []
  | .clRun o | .mlr o => needZero o.cnt 5
  | .clArm _ => []
  | .wpopa _ | .wpopb _ | .wfeed _ _ _ | .wgroup _ _ _ _ | .wsum _ | .wretire _ _ | .wsend _ _ _ _ _ _ | .wloop _ _ _ _
  | .wwait _ _ | .wend => []
  | .wfmt lvl => need (lvl.toNat < 6) 2 57 lvl.toNat
  | .wjump _ cond _ => need (cond != 3) 2 56 3
  | .groupEntry _ | .conditionClears _ _ | .heldReissue _ | .resultArrival _ | .landing _ _ | .loopPassEnd _ _
  | .knotArrival _ _ | .knotAnnouncement _ _ | .knotRelease _ _ | .exchangeGrant _ _ | .preemptSave _ _ | .gangRestore _ _
  | .withheldRelease _ _ | .copyRequest _ | .copyRowWrite _ _ | .fillRowWrite _ _ | .ropeBeat | .xselRowWrite _ _
  | .matrixEntryStart _ _ | .kblockRetire _ _ | .entryRetire _ _ | .routedRowSend _ | .routedRowArrival _ | .xformRun _
  | .collector _ _ | .luAccess _ | .recastSeal _ | .sealReceive _ _ | .recastRewrite _ | .invalidationMarker _ _ _ _
  | .markerWatchdog _ _ | .seOperationPerform _ | .seGrantArrival _ | .collectiveStart _ _ | .joinArrival _
  | .joinTimeout _ _ | .presenceQuery _ | .presenceTimeout _ _ | .chunkSendStart _ _ | .chainPairArrival _
  | .copyChunkArrival _ | .transferTimeout _ _ | .collectiveAbort _ _ | .collectiveComplete _ _ | .switchReduce _ _
  | .switchGroupLoad _ _ _ | .membershipApply _ _ | .spareJoin _ _ _ | .plQueryAccept _ | .plQueryComplete _
  | .qtailWrite _ _ _ | .qcfgEnable _ _ _ | .qcfgDisable _ _ _ | .qcfgConfig _ _ _ | .cheadWrite _ _ _
  | .ecfgEnable _ _ | .ecfgDisable _ _ | .eheadWrite _ _ | .ebrkContinue _ _ | .ebrkTerminate _ _ | .registerWrite _ _ _
  | .recordRead _ _ | .placementDecision _ | .groupComplete _ _ | .completionRecordWrite _ _ | .preemptDecision _ _
  | .partitionConfigure _ | .hostCxlMemAccess _ _ _ _
  | .supplySag | .clockStepUp | .dutyUpdate | .bootStep | .getVersion | .getCapabilities | .negotiateAlgorithms
  | .getDigests | .getCertificate | .challenge | .getMeasurements | .vendorDefinedRequest | .tsysNull
  | .communicatorCreate | .membershipChange | .communicatorDelete | .cycleCount | .overflowAreaQuery | .retry
  | .cont | .terminate | .freeze | .brkRecordWrite | .faultResolve | .migration | .stubForward | .redirect
  | .directoryRequest | .stubTimeout | .reclaimGrant | .remoteNack | .remoteTimeout | .knotTimeout
  | .knotSecondTimeout | .terminationTimeout | .partitionReset | .routerIdleTimeout | .routerWakeNotice
  | .umtuicCodewordError | .d2dCrcError | .boundaryFailure | .sramScrub | .sramUncorrectable
  | .storageUncorrectable | .dramUncorrectable | .dutyFrameBoundary | .deviceReset | .earlierEpochAnswer => []

/-- Well formed: no field breaks its rule. -/
def Instr.wf (i : Instr) : Bool := i.errs.isEmpty

end Sys2Proof
end

