-- ==== Sys2Proof/Decode.lean ====
section
/-! DEFINITION. Decoding stored bundles and microwords, total on any words, and the encoder written from the same tables
(R103-R108, R122-R125, R129, R147, R154, R159, R162, R163, R167, R170, R174, R175, R189, R197, R204, R213-R216, R224,
R228, R251, R272, R332). -/
namespace Sys2Proof

/-- A slot syllable: hold bit, predicate and operation (R105). A repeated MX syllable carries no predicate (R107). -/
structure Syl where
  hold : Bool
  pn : Bool
  pred : BitVec 4
  op : Instr
  deriving DecidableEq, Repr

/-- An issued bundle: stop bit, sync operation, the present slots in stored order (R103). -/
structure Bundle where
  stop : Bool
  sync : Instr
  slots : List (Lane × Syl)
  deriving DecidableEq, Repr

/-- What decoding a bundle answers: the bundle, or the slot and field of an illegal encoding (R332). -/
inductive BundleDec
  | ok (b : Bundle)
  | bad (slot : Lane) (e : FieldErr)
  deriving DecidableEq, Repr

/-- What decoding a syllable answers. -/
inductive OpDec
  | ok (i : Instr)
  | bad (e : FieldErr)
  deriving DecidableEq, Repr

open Machine (fld fldN bit packN b2n)

/-- The error at the lowest bit offset, and of those the lowest sub-code (R331; log 16). -/
def firstErr : List FieldErr → Option FieldErr
  | [] => none
  | e :: r =>
    match firstErr r with
    | none => some e
    | some f => if f.off < e.off || (f.off = e.off && f.sub < e.sub) then some f else some e

/-- The zero fields of a layout that do not hold 0 (R8, R332). -/
def zeroErrs {n : Nat} (w : BitVec n) : List (Nat × Nat) → List FieldErr
  | [] => []
  | (off, len) :: r => (if fldN w off len = 0 then [] else [⟨4, off, fldN w off len⟩]) ++ zeroErrs w r

/-- The operation of a known opcode, checked. -/
def checked {n : Nat} (w : BitVec n) (zs : List (Nat × Nat)) (i : Instr) : OpDec :=
  match firstErr (zeroErrs w zs ++ i.errs) with
  | some e => .bad e
  | none => .ok i

def decAlu (w : Word64) : AluOp := ⟨fld w 45 6, fld w 39 6, bit w 38, fld w 32 6, fld w 0 32⟩
def decSel (w : Word64) : SelOp := ⟨fld w 45 6, fld w 39 6, bit w 38, fld w 32 6, fld w 28 4, fld w 0 28⟩
def decVecOp (w : Word64) : VecOp :=
  ⟨fld w 41 10, fld w 31 10, fld w 21 10, fld w 11 10, fld w 8 3, bit w 7, fld w 3 4, fld w 0 3⟩
def decCvt (w : Word64) : CvtOp :=
  ⟨fld w 41 10, fld w 31 10, fld w 21 10, fld w 17 4, fld w 14 3, bit w 13, bit w 12, fld w 8 3, bit w 7, fld w 3 4⟩
def decXfer (w : Word64) : XferOp :=
  ⟨fld w 41 10, fld w 31 10, bit w 30, fld w 24 6, fld w 12 12, fld w 8 3, bit w 7, fld w 3 4⟩
def decRow (w : Word64) : RowRef := ⟨fld w 37 4, bit w 36, fld w 24 12⟩
def decCopy (w : Word64) : CopyOp :=
  ⟨fld w 49 2, fld w 45 4, fld w 41 4, bit w 40, fld w 30 10, fld w 26 4, fld w 18 8, bit w 17, bit w 16, fld w 13 3, fld w 0 13⟩
def decColl (w : Word64) : CollOp := ⟨fld w 49 2, fld w 45 4, fld w 37 8, fld w 33 4, fld w 25 8, fld w 5 20⟩
def decSe (w : BitVec 48) : SeOp := ⟨fld w 36 6, fld w 30 6, fld w 24 6, fld w 18 6, fld w 12 6, bit w 11⟩

/-- The opcode of a slot syllable. -/
def sylOp (w : Word64) : Nat := fldN w 56 7

/-- The sync syllable (R122, R228). -/
def decodeSync (w : BitVec 48) : OpDec :=
  match fldN w 42 6 with
  | 0x00 => checked w [(0, 42)] .snop
  | 0x01 => checked w [(0, 42)] .knot
  | 0x02 => checked w [(0, 42)] .yield
  | 0x03 => checked w [(2, 40)] (.drain (fld w 0 2))
  | 0x04 => checked w [(7, 35)] (.qfence (fld w 0 7))
  | 0x05 => checked w [(0, 42)] .lfence
  | 0x06 => checked w [(32, 10)] (.fmtset (fld w 0 32))
  | 0x08 => checked w [(0, 11)] (.seLd (decSe w))
  | 0x09 => checked w [(0, 11)] (.seSt (decSe w))
  | 0x0a => checked w [(0, 11)] (.seAdd (decSe w))
  | 0x0b => checked w [(0, 11)] (.seMin (decSe w))
  | 0x0c => checked w [(0, 11)] (.seMax (decSe w))
  | 0x0d => checked w [(0, 11)] (.seAnd (decSe w))
  | 0x0e => checked w [(0, 11)] (.seOr (decSe w))
  | 0x0f => checked w [(0, 11)] (.seXor (decSe w))
  | 0x10 => checked w [(0, 11)] (.seSwap (decSe w))
  | 0x11 => checked w [(0, 11)] (.seCas (decSe w))
  | 0x12 => checked w [(0, 11)] (.seArrive (decSe w))
  | 0x13 => checked w [(0, 11)] (.seAwait (decSe w))
  | 0x14 => checked w [(0, 11)] (.seSemdown (decSe w))
  | 0x15 => checked w [(0, 11)] (.seSemup (decSe w))
  | 0x16 => checked w [(0, 11)] (.seAlloc (decSe w))
  | 0x17 => checked w [(0, 11)] (.seFree (decSe w))
  | 0x3c => checked w [(16, 26)] (.tsys (fld w 0 16))
  | 0x3d => checked w [(16, 26)] (.brk (fld w 0 16))
  | 0x3e => checked w [(0, 42)] .halt
  | o => .bad ⟨2, 42, o⟩

/-- The S slot (R123, R129). -/
def decodeS (w : Word64) : OpDec :=
  match sylOp w with
  | 0x01 => checked w [] (.sadd (decAlu w))
  | 0x02 => checked w [] (.ssub (decAlu w))
  | 0x03 => checked w [] (.smul (decAlu w))
  | 0x04 => checked w [] (.smulh (decAlu w))
  | 0x05 => checked w [] (.smulhn (decAlu w))
  | 0x06 => checked w [] (.sdiv (decAlu w))
  | 0x07 => checked w [] (.sdivn (decAlu w))
  | 0x08 => checked w [] (.srem (decAlu w))
  | 0x09 => checked w [] (.sremn (decAlu w))
  | 0x0a => checked w [] (.sand (decAlu w))
  | 0x0b => checked w [] (.sor (decAlu w))
  | 0x0c => checked w [] (.sxor (decAlu w))
  | 0x0d => checked w [] (.sandn (decAlu w))
  | 0x0e => checked w [] (.sshl (decAlu w))
  | 0x0f => checked w [] (.sshr (decAlu w))
  | 0x10 => checked w [] (.ssra (decAlu w))
  | 0x11 => checked w [] (.srot (decAlu w))
  | 0x12 => checked w [] (.sclz (decAlu w))
  | 0x13 => checked w [] (.sctz (decAlu w))
  | 0x14 => checked w [] (.spop (decAlu w))
  | 0x15 => checked w [] (.smin (decAlu w))
  | 0x16 => checked w [] (.smax (decAlu w))
  | 0x17 => checked w [] (.sminn (decAlu w))
  | 0x18 => checked w [] (.smaxn (decAlu w))
  | 0x19 => checked w [] (.ssel (decSel w))
  | 0x1a => checked w [(32, 13)] (.sli (fld w 45 6) (fld w 0 32))
  | 0x1b => checked w [(32, 13)] (.slih (fld w 45 6) (fld w 0 32))
  | 0x1c => checked w [(0, 32)] (.smov (fld w 45 6) (fld w 39 6) (fld w 36 3) (fld w 33 3) (bit w 32))
  | 0x1d => checked w [] (.scmp (decSel w))
  | 0x1e => checked w [(49, 2), (43, 2), (38, 1), (36, 2), (0, 32)] (.pand (fld w 45 4) (fld w 39 4) (fld w 32 4))
  | 0x1f => checked w [(49, 2), (43, 2), (38, 1), (36, 2), (0, 32)] (.por (fld w 45 4) (fld w 39 4) (fld w 32 4))
  | 0x20 => checked w [(49, 2), (43, 2), (38, 1), (36, 2), (0, 32)] (.pxor (fld w 45 4) (fld w 39 4) (fld w 32 4))
  | 0x21 => checked w [(49, 2), (43, 2), (38, 1), (36, 2), (32, 4), (0, 32)] (.pnot (fld w 45 4) (fld w 39 4))
  | 0x22 => checked w [(49, 2), (36, 2), (32, 4), (0, 32)] (.pmov (fld w 45 4) (fld w 39 6) (bit w 38))
  | 0x23 => checked w [(45, 6), (32, 13)] (.br (fld w 0 32))
  | 0x24 => checked w [(48, 3)] (.jmp (fld w 0 48))
  | 0x25 => checked w [(32, 13)] (.call (fld w 45 6) (fld w 0 32))
  | 0x26 => checked w [(45, 6), (32, 7), (0, 32)] (.ret (fld w 39 6))
  | 0x27 => checked w [(45, 6), (32, 7)] (.jr (fld w 39 6) (fld w 0 32))
  | 0x28 => checked w [] (.loop (fld w 48 3) (bit w 47) (fld w 41 6) (fld w 25 16) (fld w 0 25))
  | 0x29 => checked w [(18, 33), (0, 3)] (.lbody (fld w 12 6) (fld w 9 3) (fld w 6 3) (fld w 3 3))
  | 0x2a => checked w [(39, 6), (38, 1), (0, 32)] (.mfs (fld w 45 6) (fld w 32 6))
  | 0x2b => checked w [(45, 6), (38, 1), (0, 32)] (.mts (fld w 39 6) (fld w 32 6))
  | 0x2c => checked w [(48, 2), (0, 38)] (.amov (bit w 50) (fld w 44 4) (fld w 38 6))
  | 0x2d => checked w [(24, 12)] (.aadd (fld w 47 4) (fld w 43 4) (bit w 42) (fld w 36 6) (fld w 0 24))
  | o => .bad ⟨2, 56, o⟩

/-- The VA and VB slots (R124). -/
def decodeV (w : Word64) : OpDec :=
  match sylOp w with
  | 0x01 => checked w [] (.vadd (decVecOp w))
  | 0x02 => checked w [] (.vsub (decVecOp w))
  | 0x03 => checked w [] (.vmul (decVecOp w))
  | 0x04 => checked w [] (.vfma (decVecOp w))
  | 0x05 => checked w [] (.vfms (decVecOp w))
  | 0x06 => checked w [] (.vfnma (decVecOp w))
  | 0x07 => checked w [] (.vmin (decVecOp w))
  | 0x08 => checked w [] (.vmax (decVecOp w))
  | 0x09 => checked w [] (.vabs (decVecOp w))
  | 0x0a => checked w [] (.vneg (decVecOp w))
  | 0x0b => checked w [] (.vrcp (decVecOp w))
  | 0x0c => checked w [] (.vrsqrt (decVecOp w))
  | 0x0d => checked w [] (.vexp2 (decVecOp w))
  | 0x0e => checked w [] (.vlog2 (decVecOp w))
  | 0x0f => checked w [] (.vrnd (decVecOp w))
  | 0x10 => checked w [] (.vtsum (decVecOp w))
  | 0x11 => checked w [] (.vcmp (decVecOp w))
  | 0x12 => checked w [] (.vsel (decVecOp w))
  | 0x13 => checked w [] (.vmulh (decVecOp w))
  | 0x14 => checked w [] (.vsadd (decVecOp w))
  | 0x15 => checked w [] (.vssub (decVecOp w))
  | 0x16 => checked w [] (.vshl (decVecOp w))
  | 0x17 => checked w [] (.vshr (decVecOp w))
  | 0x18 => checked w [] (.vsra (decVecOp w))
  | 0x19 => checked w [] (.vand (decVecOp w))
  | 0x1a => checked w [] (.vor (decVecOp w))
  | 0x1b => checked w [] (.vxor (decVecOp w))
  | 0x1c => checked w [] (.vandn (decVecOp w))
  | 0x1d => checked w [] (.vpopc (decVecOp w))
  | 0x1e => checked w [(11, 1), (0, 3)] (.vcvt (decCvt w))
  | 0x1f => checked w [(11, 1), (0, 3)] (.vquant (decCvt w))
  | 0x20 => checked w [(11, 1), (0, 3)] (.vdeq (decCvt w))
  | 0x21 => checked w [(11, 1), (0, 3)] (.vpack (decCvt w))
  | 0x22 => checked w [(11, 1), (0, 3)] (.vunpk (decCvt w))
  | 0x23 => checked w [] (.vperm (decVecOp w))
  | 0x24 => checked w [(0, 7)] (.vrotm (fld w 41 10) (fld w 31 10) (fld w 21 10) (bit w 20) (fld w 14 6) (fld w 7 7))
  | 0x25 => checked w [] (.vbcast (decVecOp w))
  | 0x26 => checked w [] (.vshuf (decVecOp w))
  | 0x27 => checked w [] (.vslide (decVecOp w))
  | 0x28 => checked w [] (.vredsum (decVecOp w))
  | 0x29 => checked w [] (.vredmax (decVecOp w))
  | 0x2a => checked w [] (.vredmin (decVecOp w))
  | 0x2b => checked w [] (.vscan (decVecOp w))
  | 0x2c => checked w [] (.vtopk (decVecOp w))
  | 0x2d => checked w [] (.vmov (decVecOp w))
  | 0x2e => checked w [(11, 1), (0, 3)] (.vsplat (decXfer w))
  | 0x2f => checked w [(11, 1), (0, 3)] (.vext (decXfer w))
  | 0x30 => checked w [(11, 1), (0, 3)] (.vins (decXfer w))
  | 0x31 => checked w [] (.vidx (decVecOp w))
  | 0x32 => checked w [(36, 6), (0, 36)] (.kand (fld w 48 3) (fld w 45 3) (fld w 42 3))
  | 0x33 => checked w [(36, 6), (0, 36)] (.kor (fld w 48 3) (fld w 45 3) (fld w 42 3))
  | 0x34 => checked w [(36, 6), (0, 36)] (.kxor (fld w 48 3) (fld w 45 3) (fld w 42 3))
  | 0x35 => checked w [(42, 3), (36, 6), (0, 36)] (.kinv (fld w 48 3) (fld w 45 3))
  | 0x36 => checked w [(48, 3), (42, 3), (0, 36)] (.kpop (fld w 36 6) (fld w 45 3))
  | 0x37 => checked w [(42, 3), (36, 6), (0, 36)] (.kmov (fld w 48 3) (fld w 45 3))
  | o => .bad ⟨2, 56, o⟩

/-- The fields 15:0 of the row layout where an operation leaves all of them zero (R167). -/
def rowTail : List (Nat × Nat) := [(11, 5), (8, 3), (7, 1), (3, 4), (0, 3)]

/-- The LD slot (R125, R167, R170, R175). -/
def decodeLd (w : Word64) : OpDec :=
  match sylOp w with
  | 0x01 => checked w ((16, 8) :: rowTail) (.ldRow (fld w 41 10) (decRow w))
  | 0x02 => checked w [(11, 5), (8, 3), (7, 1), (0, 3)] (.ldLane (fld w 41 10) (decRow w) (fld w 16 8) (fld w 3 4))
  | 0x03 => checked w ((44, 7) :: (19, 5) :: rowTail) (.ldK (fld w 41 3) (decRow w) (fld w 16 3))
  | 0x04 => checked w [(35, 3), (0, 24)] (.ldPeek (fld w 41 10) (fld w 38 3) (fld w 24 11))
  | 0x05 => checked w [(41, 10), (0, 7)] (.xsel (decRow w) (bit w 23) (bit w 22) (bit w 21) (fld w 13 8) (fld w 7 6))
  | o => .bad ⟨2, 56, o⟩

/-- The ST slot (R125, R167, R170, R174). -/
def decodeSt (w : Word64) : OpDec :=
  match sylOp w with
  | 0x01 => checked w ((16, 8) :: rowTail) (.stRow (fld w 41 10) (decRow w))
  | 0x02 => checked w [(16, 8), (11, 5), (7, 1), (0, 3)] (.stRowk (fld w 41 10) (decRow w) (fld w 8 3) (fld w 3 4))
  | 0x03 => checked w [(11, 5), (8, 3), (7, 1), (0, 3)] (.stLane (fld w 41 10) (decRow w) (fld w 16 8) (fld w 3 4))
  | 0x04 => checked w ((47, 4) :: (22, 2) :: rowTail) (.stFill (fld w 41 6) (decRow w) (fld w 16 6))
  | 0x05 => checked w [(35, 3), (24, 11), (0, 24)] (.stRing (fld w 41 10) (fld w 38 3))
  | 0x06 => checked w [(16, 5), (0, 16)] (.xsend (fld w 41 10) (decRow w) (bit w 23) (bit w 22) (bit w 21))
  | o => .bad ⟨2, 56, o⟩

/-- The repeat field of a MX syllable: count minus one under form 01 (R107). -/
def repOf (form01 : Bool) (w : Word64) : Option (BitVec 8) := if form01 then some (fld w 48 8) else none
/-- A MX operation that takes no repeat prefix (R191, R332). -/
def noRep (form01 : Bool) (w : Word64) (d : OpDec) : OpDec :=
  if form01 then
    match d with
    | .bad e => if e.off < 48 then .bad e else .bad ⟨5, 48, fldN w 48 8⟩
    | .ok _ => .bad ⟨5, 48, fldN w 48 8⟩
  else d
/-- Bits 50:48 are zero under form 00 (R105). -/
def mxZero (form01 : Bool) : List (Nat × Nat) := if form01 then [] else [(48, 3)]

/-- The MX slot (R125, R189). -/
def decodeMx (form01 : Bool) (w : Word64) : OpDec :=
  let z := mxZero form01
  match sylOp w with
  | 0x01 => checked w (z ++ [(0, 41)]) (.mcall (fld w 43 5) (bit w 42) (bit w 41) (repOf form01 w))
  | 0x02 => noRep form01 w (checked w (z ++ [(0, 38)]) (.mset (bit w 47) (fld w 44 3) (fld w 38 6)))
  | 0x03 => noRep form01 w (checked w (z ++ [(0, 42)]) (.mring (fld w 45 3) (fld w 42 3)))
  | 0x04 => checked w (z ++ [(0, 47)]) (.macz (bit w 47) (repOf form01 w))
  | 0x05 => noRep form01 w (checked w (z ++ [(0, 30)]) (.mread (fld w 38 10) (bit w 37) (fld w 32 5) (fld w 30 2)))
  | 0x06 => checked w (z ++ [(0, 22)]) (.mwrite (fld w 38 10) (fld w 28 10) (bit w 27) (fld w 22 5) (repOf form01 w))
  | 0x07 => noRep form01 w (checked w (z ++ [(0, 40)]) (.mroute (fld w 46 2) (fld w 40 6)))
  | 0x08 => noRep form01 w (checked w (z ++ [(0, 44)]) (.mwait (bit w 47) (bit w 46) (bit w 45) (bit w 44)))
  | 0x09 => noRep form01 w (checked w (z ++ [(0, 38)]) (.mfmt (fld w 44 4) (fld w 38 6)))
  | o => .bad ⟨2, 56, o⟩

/-- `cp.cur` by its mode (R214). -/
def decodeCur (w : Word64) : OpDec :=
  match fldN w 43 2 with
  | 0 => checked w [(33, 4), (32, 1), (22, 10), (21, 1), (0, 21)] (.cpCurSet (fld w 49 2) (fld w 45 4) (fld w 37 6))
  | 1 => checked w [(37, 6), (0, 21)] (.cpCurSave (fld w 49 2) (fld w 45 4) (fld w 33 4) (bit w 32) (fld w 22 10) (bit w 21))
  | 2 => checked w [(45, 4), (37, 6), (0, 21)] (.cpCurStatus (fld w 49 2) (fld w 33 4) (bit w 32) (fld w 22 10) (bit w 21))
  | _ =>
    match firstErr (zeroErrs w [(0, 21)]) with
    | some e => .bad e
    | none => .bad ⟨5, 43, 3⟩

/-- The CP slot (R125, R204). -/
def decodeCp (w : Word64) : OpDec :=
  match sylOp w with
  | 0x01 => checked w [(0, 29)] (.cpDesc (fld w 49 2) (fld w 45 4) (fld w 41 4) (bit w 40) (fld w 30 10) (bit w 29))
  | 0x02 => checked w [] (.cpIn (decCopy w))
  | 0x03 => checked w [] (.cpOut (decCopy w))
  | 0x04 => checked w [] (.cpAcc (decCopy w))
  | 0x05 => checked w [] (.cpGat (decCopy w))
  | 0x06 => checked w [] (.cpSca (decCopy w))
  | 0x07 => checked w [] (.cpSl (decCopy w))
  | 0x08 => checked w [(0, 1)] (.cpXf ⟨fld w 49 2, fld w 43 6, fld w 39 4, fld w 32 7, fld w 28 4, fld w 21 7, fld w 14 7, fld w 7 7, fld w 1 6⟩)
  | 0x09 => checked w [] (.cpRep (decCopy w))
  | 0x0a => decodeCur w
  | 0x0b => checked w [(0, 21)] (.rcast ⟨fld w 49 2, fld w 45 4, bit w 44, bit w 43, fld w 41 2, bit w 40, fld w 34 6, fld w 30 4, fld w 22 8, bit w 21⟩)
  | 0x0c => checked w [(0, 13)] (.plQ ⟨fld w 49 2, fld w 45 4, fld w 37 8, fld w 33 4, fld w 25 8, fld w 21 4, fld w 13 8⟩)
  | 0x0d => checked w [(0, 5)] (.clRun (decColl w))
  | 0x0e => checked w [(0, 5)] (.clArm (decColl w))
  | 0x0f => checked w [(0, 5)] (.mlr (decColl w))
  | o => .bad ⟨2, 56, o⟩

/-- The operation of a slot syllable. -/
def decodeOp (l : Lane) (form01 : Bool) (w : Word64) : OpDec :=
  match l with
  | .sync => .bad ⟨2, 42, 0⟩
  | .s => decodeS w
  | .va | .vb => decodeV w
  | .mx => decodeMx form01 w
  | .ld => decodeLd w
  | .st => decodeSt w
  | .cp => decodeCp w

/-- The common fields of a slot syllable (R105). A repeated syllable always performs (R107). -/
def sylOf (l : Lane) (form01 : Bool) (w : Word64) (i : Instr) : Syl :=
  if form01 && l == .mx then ⟨bit w 63, false, 0, i⟩ else ⟨bit w 63, bit w 55, fld w 51 4, i⟩

/-- The slots present in a head word, in stored order (R103). -/
def presentLanes (head : Word64) : List Lane :=
  (if bit head 0 then [.s] else []) ++ (if bit head 1 then [.va] else []) ++ (if bit head 2 then [.vb] else []) ++
  (if bit head 3 then [.mx] else []) ++ (if bit head 4 then [.ld] else []) ++ (if bit head 5 then [.st] else []) ++
  (if bit head 6 then [.cp] else [])
/-- The length of a stored bundle in 64-bit words (R103). -/
def bundleWords (head : Word64) : Nat := 1 + (presentLanes head).length

/-- The checks of the head word itself (R103, R332): bits 15:10, form 10 or 11, form 01 without MX. -/
def headErr (head : Word64) : Option FieldErr :=
  firstErr ((if fldN head 8 2 < 2 then [] else [⟨1, 8, fldN head 8 2⟩]) ++
    (if fldN head 8 2 = 1 && !bit head 3 then [⟨1, 8, 1⟩] else []) ++
    (if fldN head 10 6 = 0 then [] else [⟨1, 10, fldN head 10 6⟩]))

/-- The syllables of a bundle, in stored order. -/
def decodeSlots (form01 : Bool) : List (Lane × Word64) → List (Lane × Syl) → List (Lane × Syl) ⊕ (Lane × FieldErr)
  | [], acc => .inl acc.reverse
  | (l, w) :: r, acc =>
    match decodeOp l form01 w with
    | .ok i => decodeSlots form01 r ((l, sylOf l form01 w i) :: acc)
    | .bad e => .inr (l, e)

/-- Check 2 on one stored bundle: head word, then sync, then the slots in order (R329, R332). -/
def decodeBundle (head : Word64) (syls : List Word64) : BundleDec :=
  match headErr head with
  | some e => .bad .sync e
  | none =>
    match decodeSync (fld head 16 48) with
    | .bad e => .bad .sync e
    | .ok sync =>
      match decodeSlots (fldN head 8 2 = 1) ((presentLanes head).zip syls) [] with
      | .inl slots => .ok ⟨bit head 7, sync, slots⟩
      | .inr (l, e) => .bad l e

/-- A microword (R197); none for an unassigned one. Bits of zero fields are not looked at (log 17). -/
def decodeMicro (w : Word64) : Option Instr :=
  let i : Option Instr := match fldN w 60 4 with
    | 0x1 => some (.wpopa (bit w 59))
    | 0x2 => some (.wpopb (bit w 59))
    | 0x3 => some (.wfeed (fld w 58 2) (bit w 57) (bit w 56))
    | 0x4 => some (.wgroup (bit w 59) (fld w 56 3) (bit w 55) (fld w 52 3))
    | 0x5 => some (.wsum (bit w 59))
    | 0x6 => some (.wretire (bit w 59) (bit w 58))
    | 0x7 => some (.wsend (bit w 59) (fld w 57 2) (bit w 56) (fld w 53 3) (fld w 48 5) (fld w 43 5))
    | 0x8 => some (.wfmt (fld w 57 3))
    | 0x9 => some (.wloop (fld w 58 2) (bit w 57) (fld w 54 3) (fld w 0 32))
    | 0xa => some (.wjump (fld w 58 2) (fld w 56 2) (fld w 45 11))
    | 0xb => some (.wwait (bit w 59) (bit w 58))
    | 0xc => some .wend
    | _ => none
  match i with
  | some i => if i.wf then some i else none
  | none => none

/-! The encoder, from the same tables. -/

def AluOp.fields (o : AluOp) : List (Nat × Nat) := [(45, o.d.toNat), (39, o.a.toNat), (38, b2n o.i), (32, o.b.toNat), (0, o.imm.toNat)]
def SelOp.fields (o : SelOp) : List (Nat × Nat) :=
  [(45, o.d.toNat), (39, o.a.toNat), (38, b2n o.i), (32, o.b.toNat), (28, o.x.toNat), (0, o.imm.toNat)]
def VecOp.fields (o : VecOp) : List (Nat × Nat) :=
  [(41, o.d.toNat), (31, o.a.toNat), (21, o.b.toNat), (11, o.c.toNat), (8, o.km.toNat), (7, b2n o.ke), (3, o.ty.toNat), (0, o.x.toNat)]
def CvtOp.fields (o : CvtOp) : List (Nat × Nat) :=
  [(41, o.d.toNat), (31, o.a.toNat), (21, o.b.toNat), (17, o.fty.toNat), (14, o.part.toNat), (13, b2n o.rz), (12, b2n o.bw),
   (8, o.km.toNat), (7, b2n o.ke), (3, o.ty.toNat)]
def XferOp.fields (o : XferOp) : List (Nat × Nat) :=
  [(41, o.d.toNat), (31, o.a.toNat), (30, b2n o.i), (24, o.sr.toNat), (12, o.imm.toNat), (8, o.km.toNat), (7, b2n o.ke), (3, o.ty.toNat)]
def RowRef.fields (r : RowRef) : List (Nat × Nat) := [(37, r.an.toNat), (36, b2n r.pm), (24, r.off.toNat)]
def CopyOp.fields (o : CopyOp) : List (Nat × Nat) :=
  [(49, o.ch.toNat), (45, o.td.toNat), (41, o.an.toNat), (40, b2n o.pm), (30, o.off.toNat), (26, o.ab.toNat), (18, o.boff.toNat),
   (17, b2n o.bh), (16, b2n o.rg), (13, o.ring.toNat), (0, o.x.toNat)]
def CollOp.fields (o : CollOp) : List (Nat × Nat) :=
  [(49, o.ch.toNat), (45, o.ar.toNat), (37, o.roff.toNat), (33, o.as.toNat), (25, o.soff.toNat), (5, o.cnt.toNat)]
def SeOp.fields (o : SeOp) : List (Nat × Nat) :=
  [(36, o.d.toNat), (30, o.h.toNat), (24, o.b.toNat), (18, o.c.toNat), (12, o.land.toNat), (11, b2n o.wd)]
def repFields : Option (BitVec 8) → List (Nat × Nat)
  | some r => [(48, r.toNat)]
  | none => []

/-- Opcode and operand fields of a sync operation (R122, R228); none for what no sync syllable encodes. -/
def syncFields : Instr → Option (Nat × List (Nat × Nat))
  | .snop => some (0x00, [])
  | .knot => some (0x01, [])
  | .yield => some (0x02, [])
  | .drain ch => some (0x03, [(0, ch.toNat)])
  | .qfence m => some (0x04, [(0, m.toNat)])
  | .lfence => some (0x05, [])
  | .fmtset v => some (0x06, [(0, v.toNat)])
  | .seLd o => some (0x08, o.fields)
  | .seSt o => some (0x09, o.fields)
  | .seAdd o => some (0x0a, o.fields)
  | .seMin o => some (0x0b, o.fields)
  | .seMax o => some (0x0c, o.fields)
  | .seAnd o => some (0x0d, o.fields)
  | .seOr o => some (0x0e, o.fields)
  | .seXor o => some (0x0f, o.fields)
  | .seSwap o => some (0x10, o.fields)
  | .seCas o => some (0x11, o.fields)
  | .seArrive o => some (0x12, o.fields)
  | .seAwait o => some (0x13, o.fields)
  | .seSemdown o => some (0x14, o.fields)
  | .seSemup o => some (0x15, o.fields)
  | .seAlloc o => some (0x16, o.fields)
  | .seFree o => some (0x17, o.fields)
  | .tsys c => some (0x3c, [(0, c.toNat)])
  | .brk c => some (0x3d, [(0, c.toNat)])
  | .halt => some (0x3e, [])
  | _ => none

/-- Slot, opcode and operand fields of a slot operation (R123-R125). Vector operations answer VA; VB encodes the same. -/
def slotFields : Instr → Option (Lane × Nat × List (Nat × Nat))
  | .sadd o => some (.s, 0x01, o.fields)
  | .ssub o => some (.s, 0x02, o.fields)
  | .smul o => some (.s, 0x03, o.fields)
  | .smulh o => some (.s, 0x04, o.fields)
  | .smulhn o => some (.s, 0x05, o.fields)
  | .sdiv o => some (.s, 0x06, o.fields)
  | .sdivn o => some (.s, 0x07, o.fields)
  | .srem o => some (.s, 0x08, o.fields)
  | .sremn o => some (.s, 0x09, o.fields)
  | .sand o => some (.s, 0x0a, o.fields)
  | .sor o => some (.s, 0x0b, o.fields)
  | .sxor o => some (.s, 0x0c, o.fields)
  | .sandn o => some (.s, 0x0d, o.fields)
  | .sshl o => some (.s, 0x0e, o.fields)
  | .sshr o => some (.s, 0x0f, o.fields)
  | .ssra o => some (.s, 0x10, o.fields)
  | .srot o => some (.s, 0x11, o.fields)
  | .sclz o => some (.s, 0x12, o.fields)
  | .sctz o => some (.s, 0x13, o.fields)
  | .spop o => some (.s, 0x14, o.fields)
  | .smin o => some (.s, 0x15, o.fields)
  | .smax o => some (.s, 0x16, o.fields)
  | .sminn o => some (.s, 0x17, o.fields)
  | .smaxn o => some (.s, 0x18, o.fields)
  | .ssel o => some (.s, 0x19, o.fields)
  | .sli d imm => some (.s, 0x1a, [(45, d.toNat), (0, imm.toNat)])
  | .slih d imm => some (.s, 0x1b, [(45, d.toNat), (0, imm.toNat)])
  | .smov d a k i h => some (.s, 0x1c, [(45, d.toNat), (39, a.toNat), (36, k.toNat), (33, i.toNat), (32, b2n h)])
  | .scmp o => some (.s, 0x1d, o.fields)
  | .pand d a b => some (.s, 0x1e, [(45, d.toNat), (39, a.toNat), (32, b.toNat)])
  | .por d a b => some (.s, 0x1f, [(45, d.toNat), (39, a.toNat), (32, b.toNat)])
  | .pxor d a b => some (.s, 0x20, [(45, d.toNat), (39, a.toNat), (32, b.toNat)])
  | .pnot d a => some (.s, 0x21, [(45, d.toNat), (39, a.toNat)])
  | .pmov d a f => some (.s, 0x22, [(45, d.toNat), (39, a.toNat), (38, b2n f)])
  | .br disp => some (.s, 0x23, [(0, disp.toNat)])
  | .jmp t => some (.s, 0x24, [(0, t.toNat)])
  | .call d disp => some (.s, 0x25, [(45, d.toNat), (0, disp.toNat)])
  | .ret a => some (.s, 0x26, [(39, a.toNat)])
  | .jr a disp => some (.s, 0x27, [(39, a.toNat), (0, disp.toNat)])
  | .loop l ci a st c => some (.s, 0x28, [(48, l.toNat), (47, b2n ci), (41, a.toNat), (25, st.toNat), (0, c.toNat)])
  | .lbody n lo hi e => some (.s, 0x29, [(12, n.toNat), (9, lo.toNat), (6, hi.toNat), (3, e.toNat)])
  | .mfs d sp => some (.s, 0x2a, [(45, d.toNat), (32, sp.toNat)])
  | .mts a sp => some (.s, 0x2b, [(39, a.toNat), (32, sp.toNat)])
  | .amov dir ar sr => some (.s, 0x2c, [(50, b2n dir), (44, ar.toNat), (38, sr.toNat)])
  | .aadd ad aa i b imm => some (.s, 0x2d, [(47, ad.toNat), (43, aa.toNat), (42, b2n i), (36, b.toNat), (0, imm.toNat)])
  | .vadd o => some (.va, 0x01, o.fields)
  | .vsub o => some (.va, 0x02, o.fields)
  | .vmul o => some (.va, 0x03, o.fields)
  | .vfma o => some (.va, 0x04, o.fields)
  | .vfms o => some (.va, 0x05, o.fields)
  | .vfnma o => some (.va, 0x06, o.fields)
  | .vmin o => some (.va, 0x07, o.fields)
  | .vmax o => some (.va, 0x08, o.fields)
  | .vabs o => some (.va, 0x09, o.fields)
  | .vneg o => some (.va, 0x0a, o.fields)
  | .vrcp o => some (.va, 0x0b, o.fields)
  | .vrsqrt o => some (.va, 0x0c, o.fields)
  | .vexp2 o => some (.va, 0x0d, o.fields)
  | .vlog2 o => some (.va, 0x0e, o.fields)
  | .vrnd o => some (.va, 0x0f, o.fields)
  | .vtsum o => some (.va, 0x10, o.fields)
  | .vcmp o => some (.va, 0x11, o.fields)
  | .vsel o => some (.va, 0x12, o.fields)
  | .vmulh o => some (.va, 0x13, o.fields)
  | .vsadd o => some (.va, 0x14, o.fields)
  | .vssub o => some (.va, 0x15, o.fields)
  | .vshl o => some (.va, 0x16, o.fields)
  | .vshr o => some (.va, 0x17, o.fields)
  | .vsra o => some (.va, 0x18, o.fields)
  | .vand o => some (.va, 0x19, o.fields)
  | .vor o => some (.va, 0x1a, o.fields)
  | .vxor o => some (.va, 0x1b, o.fields)
  | .vandn o => some (.va, 0x1c, o.fields)
  | .vpopc o => some (.va, 0x1d, o.fields)
  | .vcvt o => some (.va, 0x1e, o.fields)
  | .vquant o => some (.va, 0x1f, o.fields)
  | .vdeq o => some (.va, 0x20, o.fields)
  | .vpack o => some (.va, 0x21, o.fields)
  | .vunpk o => some (.va, 0x22, o.fields)
  | .vperm o => some (.va, 0x23, o.fields)
  | .vrotm d a b i sr off =>
    some (.va, 0x24, [(41, d.toNat), (31, a.toNat), (21, b.toNat), (20, b2n i), (14, sr.toNat), (7, off.toNat)])
  | .vbcast o => some (.va, 0x25, o.fields)
  | .vshuf o => some (.va, 0x26, o.fields)
  | .vslide o => some (.va, 0x27, o.fields)
  | .vredsum o => some (.va, 0x28, o.fields)
  | .vredmax o => some (.va, 0x29, o.fields)
  | .vredmin o => some (.va, 0x2a, o.fields)
  | .vscan o => some (.va, 0x2b, o.fields)
  | .vtopk o => some (.va, 0x2c, o.fields)
  | .vmov o => some (.va, 0x2d, o.fields)
  | .vsplat o => some (.va, 0x2e, o.fields)
  | .vext o => some (.va, 0x2f, o.fields)
  | .vins o => some (.va, 0x30, o.fields)
  | .vidx o => some (.va, 0x31, o.fields)
  | .kand d a b => some (.va, 0x32, [(48, d.toNat), (45, a.toNat), (42, b.toNat)])
  | .kor d a b => some (.va, 0x33, [(48, d.toNat), (45, a.toNat), (42, b.toNat)])
  | .kxor d a b => some (.va, 0x34, [(48, d.toNat), (45, a.toNat), (42, b.toNat)])
  | .kinv d a => some (.va, 0x35, [(48, d.toNat), (45, a.toNat)])
  | .kpop sd a => some (.va, 0x36, [(45, a.toNat), (36, sd.toNat)])
  | .kmov d a => some (.va, 0x37, [(48, d.toNat), (45, a.toNat)])
  | .ldRow v r => some (.ld, 0x01, (41, v.toNat) :: r.fields)
  | .ldLane v r m ty => some (.ld, 0x02, (41, v.toNat) :: r.fields ++ [(16, m.toNat), (3, ty.toNat)])
  | .ldK kd r seg => some (.ld, 0x03, (41, kd.toNat) :: r.fields ++ [(16, seg.toNat)])
  | .ldPeek v ring j => some (.ld, 0x04, [(41, v.toNat), (38, ring.toNat), (24, j.toNat)])
  | .xsel r mx dir hw dc dr =>
    some (.ld, 0x05, r.fields ++ [(23, b2n mx), (22, b2n dir), (21, b2n hw), (13, dc.toNat), (7, dr.toNat)])
  | .stRow v r => some (.st, 0x01, (41, v.toNat) :: r.fields)
  | .stRowk v r km ty => some (.st, 0x02, (41, v.toNat) :: r.fields ++ [(8, km.toNat), (3, ty.toNat)])
  | .stLane v r m ty => some (.st, 0x03, (41, v.toNat) :: r.fields ++ [(16, m.toNat), (3, ty.toNat)])
  | .stFill sf r cnt => some (.st, 0x04, (41, sf.toNat) :: r.fields ++ [(16, cnt.toNat)])
  | .stRing v ring => some (.st, 0x05, [(41, v.toNat), (38, ring.toNat)])
  | .xsend v r sk dir hw => some (.st, 0x06, (41, v.toNat) :: r.fields ++ [(23, b2n sk), (22, b2n dir), (21, b2n hw)])
  | .mcall rt acc alt rep => some (.mx, 0x01, [(43, rt.toNat), (42, b2n acc), (41, b2n alt)] ++ repFields rep)
  | .mset k i sa => some (.mx, 0x02, [(47, b2n k), (44, i.toNat), (38, sa.toNat)])
  | .mring a b => some (.mx, 0x03, [(45, a.toNat), (42, b.toNat)])
  | .macz acc rep => some (.mx, 0x04, (47, b2n acc) :: repFields rep)
  | .mread vd acc row mode => some (.mx, 0x05, [(38, vd.toNat), (37, b2n acc), (32, row.toNat), (30, mode.toNat)])
  | .mwrite vh vl acc row rep =>
    some (.mx, 0x06, [(38, vh.toNat), (28, vl.toNat), (27, b2n acc), (22, row.toNat)] ++ repFields rep)
  | .mroute nb sa => some (.mx, 0x07, [(46, nb.toNat), (40, sa.toNat)])
  | .mwait a w0 w1 s => some (.mx, 0x08, [(47, b2n a), (46, b2n w0), (45, b2n w1), (44, b2n s)])
  | .mfmt e sa => some (.mx, 0x09, [(44, e.toNat), (38, sa.toNat)])
  | .cpDesc ch td an pm off h =>
    some (.cp, 0x01, [(49, ch.toNat), (45, td.toNat), (41, an.toNat), (40, b2n pm), (30, off.toNat), (29, b2n h)])
  | .cpIn o => some (.cp, 0x02, o.fields)
  | .cpOut o => some (.cp, 0x03, o.fields)
  | .cpAcc o => some (.cp, 0x04, o.fields)
  | .cpGat o => some (.cp, 0x05, o.fields)
  | .cpSca o => some (.cp, 0x06, o.fields)
  | .cpSl o => some (.cp, 0x07, o.fields)
  | .cpXf o => some (.cp, 0x08, [(49, o.ch.toNat), (43, o.rt.toNat), (39, o.an.toNat), (32, o.off.toNat), (28, o.ad.toNat),
      (21, o.doff.toNat), (14, o.icnt.toNat), (7, o.ocnt.toNat), (1, o.sa.toNat)])
  | .cpRep o => some (.cp, 0x09, o.fields)
  | .cpCurSet ch td sa => some (.cp, 0x0a, [(49, ch.toNat), (45, td.toNat), (37, sa.toNat)])
  | .cpCurSave ch td an pm off h => some (.cp, 0x0a, [(49, ch.toNat), (45, td.toNat), (43, 1), (33, an.toNat), (32, b2n pm),
      (22, off.toNat), (21, b2n h)])
  | .cpCurStatus ch an pm off h => some (.cp, 0x0a, [(49, ch.toNat), (43, 2), (33, an.toNat), (32, b2n pm), (22, off.toNat),
      (21, b2n h)])
  | .rcast o => some (.cp, 0x0b, [(49, o.ch.toNat), (45, o.td.toNat), (44, b2n o.all), (43, b2n o.cur), (41, o.role.toNat),
      (40, b2n o.cf), (34, o.owner.toNat), (30, o.ab.toNat), (22, o.boff.toNat), (21, b2n o.bh)])
  | .plQ o => some (.cp, 0x0c, [(49, o.ch.toNat), (45, o.aq.toNat), (37, o.qoff.toNat), (33, o.ac.toNat), (25, o.coff.toNat),
      (21, o.ar.toNat), (13, o.roff.toNat)])
  | .clRun o => some (.cp, 0x0d, o.fields)
  | .clArm o => some (.cp, 0x0e, o.fields)
  | .mlr o => some (.cp, 0x0f, o.fields)
  | _ => none

/-- Opcode and fields of a microword (R197). -/
def microFields : Instr → Option (List (Nat × Nat))
  | .wpopa t => some [(60, 0x1), (59, b2n t)]
  | .wpopb t => some [(60, 0x2), (59, b2n t)]
  | .wfeed p ta tb => some [(60, 0x3), (58, p.toNat), (57, b2n ta), (56, b2n tb)]
  | .wgroup sa a sb b => some [(60, 0x4), (59, b2n sa), (56, a.toNat), (55, b2n sb), (52, b.toNat)]
  | .wsum s => some [(60, 0x5), (59, b2n s)]
  | .wretire a b => some [(60, 0x6), (59, b2n a), (58, b2n b)]
  | .wsend d n sc m f c => some [(60, 0x7), (59, b2n d), (57, n.toNat), (56, b2n sc), (53, m.toNat), (48, f.toNat), (43, c.toNat)]
  | .wfmt l => some [(60, 0x8), (57, l.toNat)]
  | .wloop c s m imm => some [(60, 0x9), (58, c.toNat), (57, b2n s), (54, m.toNat), (0, imm.toNat)]
  | .wjump c cond t => some [(60, 0xa), (58, c.toNat), (56, cond.toNat), (45, t.toNat)]
  | .wwait f s => some [(60, 0xb), (59, b2n f), (58, b2n s)]
  | .wend => some [(60, 0xc)]
  | _ => none

/-- The sync syllable of an operation. -/
def encodeSync (i : Instr) : Option (BitVec 48) :=
  match syncFields i with
  | some (op, fs) => some (BitVec.ofNat 48 (packN ((42, op) :: fs)))
  | none => none
/-- Whether a MX operation carries a repeat prefix. -/
def repeats : Instr → Bool
  | .mcall _ _ _ (some _) | .macz _ (some _) | .mwrite _ _ _ _ (some _) => true
  | _ => false
/-- The syllable word of an operation with its common fields (R105); a repeated syllable has no predicate. -/
def encodeSyl (s : Syl) : Option Word64 :=
  match slotFields s.op with
  | some (_, op, fs) =>
    let common := if repeats s.op then [] else [(55, b2n s.pn), (51, s.pred.toNat)]
    some (BitVec.ofNat 64 (packN ((63, b2n s.hold) :: (56, op) :: common ++ fs)))
  | none => none
def encodeMicro (i : Instr) : Option Word64 :=
  match microFields i with
  | some fs => some (BitVec.ofNat 64 (packN fs))
  | none => none

/-- The present bit of a slot (R103). -/
def Lane.bit : Lane → Nat
  | .sync => 0 | .s => 0 | .va => 1 | .vb => 2 | .mx => 3 | .ld => 4 | .st => 5 | .cp => 6

/-- A stored bundle that ends its group and holds one operation: the words of an instruction alone. A sync operation is a
head word; a slot operation is a head word with `snop` and one syllable, always performing. -/
def encode (i : Instr) : Option (List Word64) :=
  match syncFields i with
  | some (op, fs) => some [BitVec.ofNat 64 (packN ((58, op) :: (7, 1) :: fs.map fun f => (f.1 + 16, f.2)))]
  | none =>
    match slotFields i, encodeSyl ⟨false, false, 0, i⟩ with
    | some (l, _, _), some w => some [BitVec.ofNat 64 (packN [(8, b2n (repeats i)), (7, 1), (l.bit, 1)]), w]
    | _, _ =>
      match encodeMicro i with
      | some w => some [w]
      | none => none

/-- The words of n bytes stored in order, each word little-endian (R4); missing high bytes are 0. -/
def wordsOf : Nat → Nat → List Word64
  | 0, _ => []
  | n + 1, x => BitVec.ofNat 64 x :: wordsOf n (x / 2 ^ 64)

/-- The instruction of a bundle that holds one operation: its only slot when the sync syllable is `snop`, or its sync
operation when no slot is present. -/
def Bundle.single (b : Bundle) : Option Instr :=
  match b.slots with
  | [] => some b.sync
  | [(_, s)] => if b.sync = .snop then some s.op else none
  | _ => none

/-- The instruction that the decoder reads from the bytes of a stored bundle, bit 0 the least significant bit of the
first byte; bits above nbits are 0 (R103, R4). -/
def decodeTableWord (nbits w : Nat) : Option Instr :=
  match wordsOf 8 (w % 2 ^ nbits) with
  | head :: rest =>
    match decodeBundle head rest with
    | .ok b => b.single
    | .bad _ _ => none
  | [] => none

end Sys2Proof
end

