-- ==== Sys2Proof/Machine/Sparse.lean ====
section
/-! DEFINITION. Sparse data by key: a list of key and value pairs in one canonical form, keys strictly rising and no
entry equal to what an unlisted key reads as. Memory and every numbered register file are held so. -/
namespace Sys2Proof.Machine

/-- A sparse table. -/
abbrev Sp (α : Type) := List (Nat × α)

/-- The entry of a key, or the value an unlisted key reads as. -/
def Sp.get {α : Type} (d : α) : Sp α → Nat → α
  | [], _ => d
  | (k, v) :: r, i => if k = i then v else Sp.get d r i

/-- The entry of a key, if listed. -/
def Sp.find {α : Type} : Sp α → Nat → Option α
  | [], _ => none
  | (k, v) :: r, i => if k = i then some v else Sp.find r i

/-- Remove a key. -/
def Sp.del {α : Type} : Sp α → Nat → Sp α
  | [], _ => []
  | (k, v) :: r, i => if k = i then Sp.del r i else (k, v) :: Sp.del r i

/-- Put an entry before the first greater key. -/
def Sp.ins {α : Type} : Sp α → Nat → α → Sp α
  | [], i, x => [(i, x)]
  | (k, v) :: r, i, x => if i < k then (i, x) :: (k, v) :: r else (k, v) :: Sp.ins r i x

/-- Write an entry, keeping the canonical form. -/
def Sp.put {α : Type} [DecidableEq α] (d : α) (m : Sp α) (i : Nat) (x : α) : Sp α :=
  if x = d then Sp.del m i else Sp.ins (Sp.del m i) i x

/-- Every key at or above a bound, keys strictly rising, no entry equal to the default. -/
def Sp.wfFrom {α : Type} [DecidableEq α] (d : α) : Nat → Sp α → Bool
  | _, [] => true
  | lo, (k, v) :: r => decide (lo ≤ k) && decide (v ≠ d) && Sp.wfFrom d (k + 1) r
/-- The canonical form. -/
def Sp.wf {α : Type} [DecidableEq α] (d : α) (m : Sp α) : Bool := Sp.wfFrom d 0 m

/-- Device memory: bytes by device address (device frame x 64 KiB + offset, R5, R65). -/
abbrev Memory := List Host.Cell
/-- What a byte of device memory that nothing has written reads as: 0 (log 2). -/
def Memory.unlisted : Byte := 0
def Memory.wf (m : Memory) : Bool := Sp.wf Memory.unlisted m
def Memory.read (m : Memory) (a : Nat) : Byte := Sp.get Memory.unlisted m a
def Memory.write (m : Memory) (a : Nat) (b : Byte) : Memory := Sp.put Memory.unlisted m a b
/-- n bytes from an address, lowest first. -/
def Memory.readN (m : Memory) (a : Nat) : Nat → List Byte
  | 0 => []
  | n + 1 => m.read a :: Memory.readN m (a + 1) n
/-- Write bytes from an address, lowest first. -/
def Memory.writeN (m : Memory) (a : Nat) : List Byte → Memory
  | [] => m
  | b :: r => Memory.writeN (m.write a b) (a + 1) r

end Sys2Proof.Machine
end

