-- ==== Sys2Proof/Machine/State.lean ====
section
/-! DEFINITION. The state of the device: cores and contexts, synchronisation, collective and posting-list engines, layout
units, partitions with their queues and gangs, host registers, boot record. Every field is plain data. -/
namespace Sys2Proof.Machine
open Sys2Proof

/-- A register or special location that a result lands in (R109, R114). Vector numbers are physical: v 0-511, o 512-607,
q 608-639 (R57, R142). -/
inductive Dest
  | s (n : Nat) | a (n : Nat) | p (n : Nat) | k (n : Nat) | v (n : Nat)
  | lc (n : Nat) | li (n : Nat) | stride (n : Nat) | iter (n : Nat)
  | mp (n : Nat) | ma (n : Nat) | nb (n : Nat) | fmtTab (n : Nat) | ringPair | ring (n : Nat)
  | vrb | lpc | fmt | td (n : Nat) | cursor (n : Nat)
  deriving DecidableEq, Repr

/-- A result in flight (R33, R114-R116): it is written at the context's tick `due`, only in the bits of `mask`, with its
flags; `slot` tells whether it holds a landing slot (R58); `arrived` whether its value is there; `id` names the
variable-latency operation it belongs to. -/
structure Result where
  due : Nat
  dest : Dest
  val : Row
  mask : Row
  flags : BitVec 6
  slot : Bool
  arrived : Bool
  id : Nat
  deriving DecidableEq, Repr

/-- The registers of a context (R26, R127, R128, R186, R92, R94, R55). -/
structure Regs where
  s : Sp Word64
  a : Sp Word32
  p : BitVec 16
  k : Sp (BitVec 128)
  lc : Sp Word32
  li : Sp Word32
  stride : Sp (BitVec 16)
  iter : Sp Word32
  v : Sp Row
  vrb : BitVec 7
  lpc : Word64
  fmt : Word64
  fmtTab : Sp Word32
  mp : Sp Word64
  ma : Sp Word32
  nb : Sp Word64
  ringA : BitVec 3
  ringB : BitVec 3
  ring : Sp Word64
  td : Sp (Option (BitVec 512))
  deriving DecidableEq, Repr

/-- The engine conditions of R29, numbered as its table. -/
inductive Cond
  | channel | ringShort | unlanded | guarded | seWait | knotWait | mwait
  deriving DecidableEq, Repr
/-- The row number of a condition in R29's table (R331). -/
def Cond.num : Cond → Nat
  | .channel => 1 | .ringShort => 2 | .unlanded => 3 | .guarded => 4 | .seWait => 5 | .knotWait => 6 | .mwait => 7

/-- Why a context is frozen: the event code and sub-code of its record (R331); `inGroup` when the group at pc has not
issued (retry), false when it has (continue) (R336). -/
structure Freeze where
  code : Nat
  sub : Nat
  inGroup : Bool
  since : Nat
  deriving DecidableEq, Repr

/-- What takes effect after a group's last bundle (R112, R231): the operation, its bundle in the group, the group's start and first
tick, the issued form of the bundle. -/
structure After where
  op : Instr
  bidx : Nat
  pc : Word64
  tick : Nat
  form : List Word64
  deriving DecidableEq, Repr

/-- Issue state of a context (R26, R29-R32, R39, R41, R317). `ready` is the first cycle in which it is ready; `grant` the SE
wait whose grant has not arrived (R240); `throttled` whether its duty keeps it from counting as ready now; `after` what takes effect after the group's last bundle (`yield`, `tsys`, `brk`);
`target` the target of a taken transfer (R136); `skip` the bundles of a skipped body that are still to be passed over (R139). -/
structure Issue where
  placed : Bool
  pc : Word64
  tick : Nat
  halted : Bool
  freeze : Option Freeze
  blocked : Option Cond
  ready : Nat
  grant : Option Nat
  after : List After
  target : Option Word64
  skip : Nat
  knot : Bool
  arrived : Bool
  routineEvent : Option (Nat × Nat × Nat)
  freezeAsked : Option Nat
  throttled : Bool
  deriving DecidableEq, Repr

/-- The place of a context's gang (R28, R38, R52). -/
structure Place where
  part : Nat
  queue : Nat
  tree : Nat
  group : Word32
  phase : Word32
  base : Nat
  limit : Nat
  deriving DecidableEq, Repr

/-- A group in progress (R110): its start and first tick, the index of the next bundle, its bundles with their addresses and
issued forms (R108), the address after the last, the held syllables that re-issue (bundle index, slot), as group entry decided
them (R106). -/
structure InGroup where
  start : Word64
  tick0 : Nat
  idx : Nat
  bundles : List (Word64 × Bundle × List Word64)
  next : Word64
  again : List (Nat × Lane)
  deriving DecidableEq, Repr

/-- A matrix-queue entry with its captured state (R187-R191). -/
structure MEntry where
  id : Nat
  op : Instr
  tick : Nat
  rep : Nat
  mp : Sp Word64
  ma : Sp Word32
  nb : Sp Word64
  ringA : Nat
  ringB : Nat
  fmt : Word32
  fmtTab : Sp Word32
  li : Sp Word32
  hi : Row
  lo : Row
  after : List Nat
  epoch : Nat
  deriving DecidableEq, Repr

/-- A bound row block (R196): ring, first counter value, rows, whether transposed, whether its scales came from an mp
register at the bind, and its rows as they were at the bind. -/
structure Block where
  ring : Nat
  first : Nat
  rows : Nat
  trans : Bool
  scaleMp : Bool
  data : List Row
  deriving DecidableEq, Repr

/-- A K-block between its feed and its retirement (R181): its blocks, part, format, scales named by `wgroup`, pops, whether
it contributes NaN (R185), and its rows as they were at the feed (R196). -/
structure Feed where
  id : Nat
  retire : Nat
  a : Block
  b : Block
  part : Nat
  fmt : Word32
  scaleA : Option Word32
  scaleB : Option Word32
  popA : Bool
  popB : Bool
  nan : Bool
  rowsA : List Row
  rowsB : List Row
  deriving DecidableEq, Repr

/-- The routine that an entry runs (R190, R197, R198). -/
structure MRun where
  start : Nat
  acc : Bool
  rep : Nat
  pc : Nat
  mlc : Sp Word32
  ma : Sp Word32
  fmt : Word32
  sa : Option (BitVec 3)
  sb : Option (BitVec 3)
  blocksA : List Block
  blocksB : List Block
  feeds : List Feed
  lastFeed : Option Nat
  sends : List Nat
  ended : Option Nat
  routine : Nat
  deriving DecidableEq, Repr

/-- Matrix state of a context beside its registers (R186): tiles by acc * 1024 + row * 32 + column (hi in bits 63:32, lo
in bits 31:0), queue, running routine. -/
structure Matrix where
  tile : Sp Word64
  queue : List MEntry
  run : Option MRun
  deriving DecidableEq, Repr

/-- A copy channel (R203, R214, R230): first cycle in which it is free, status counts, fence. -/
structure Chan where
  free : Nat
  skip : Nat
  fills : Nat
  fence : List Nat
  deriving DecidableEq, Repr

/-- A body under replay (R139, R140): start, length in bundles, bundles of the pass still to issue, whether a pass has just
ended, so that the update of R140 is due at the next bundle; the loop buffer, by byte address. -/
structure Body where
  start : Word64
  len : Nat
  left : Nat
  ended : Bool
  buf : Sp Word64
  deriving DecidableEq, Repr

/-- A ring row that an `st.ring` has reserved and written, and that has not landed (R170): the tick at which it lands, ring, counter value,
number of its guard, row, and the cycle from which it lands for a context that waits, whose ticks stand still (log 18). -/
structure RingDue where
  due : Nat
  ring : Nat
  n : Nat
  id : Nat
  row : Nat
  at_ : Nat
  deriving DecidableEq, Repr

/-- A context (R26): registers, issue state, place in its gang, group in progress, hold states, landing buffer, matrix
state, channels, engines busy for more than a tick (R119: engine as R333 numbers it, first free tick, tick of its use), fences (R230), ring rows reserved and not yet
landed (ring, counter value), those of `st.ring`, invalidation markers, body. -/
structure Ctx where
  regs : Regs
  iss : Issue
  place : Place
  grp : Option InGroup
  hold : List (Lane × Syl)
  landing : List Result
  matrix : Matrix
  chan : Sp Chan
  busy : List (Nat × Nat × Nat)
  fenceMx : List Nat
  fencePl : List Nat
  fenceCl : List Nat
  owed : List (Nat × Nat)
  ringDue : List RingDue
  markers : List Nat
  body : Option Body
  deriving DecidableEq, Repr

/-- A guard of a scratchpad row (R54): pending or held, set by a command, a fill or a ring row; `own` the context slot,
`fillTick` the tick at which an `st.fill` of that context fills the row (R169). -/
structure Guard where
  row : Nat
  pend : Bool
  cause : Nat
  own : Nat
  fillTick : Option Nat
  deriving DecidableEq, Repr

/-- Who writes a row: a store-slot operation, a fill, an input multiplexer, a command or the matrix unit. It decides from when the context's own
reads see the write (R118, R169, R175, R207). -/
inductive RowKind | store | fill | rope | engine
  deriving DecidableEq, Repr
/-- A row write not yet visible to the other contexts (R53, R118): the bits of `mask` of `row`; the `lfence` count of its context when it, or
the operation that makes it, was issued. -/
structure RowWrite where
  slot : Nat
  tick : Nat
  row : Nat
  val : Row
  mask : Row
  epoch : Nat
  kind : RowKind
  deriving DecidableEq, Repr

/-- What a row held before a write that the others may see while the context's own reads do not yet (R118, R169, R175). -/
structure Shadow where
  slot : Nat
  tick : Nat
  row : Nat
  old : Row
  kind : RowKind
  deriving DecidableEq, Repr

/-- A fill in progress (R169). -/
structure Fill where
  id : Nat
  slot : Nat
  tick : Nat
  base : Nat
  count : Nat
  done : Nat
  val : Row
  epoch : Nat
  deriving DecidableEq, Repr

/-- A capture of an input multiplexer (R175). -/
structure Mux where
  id : Nat
  slot : Nat
  mx : Bool
  dir : Bool
  hw : Bool
  row : Nat
  start : Nat
  lane : Option (Nat × Nat × Nat)
  parts : List (BitVec 128)
  bad : Bool
  epoch : Nat
  deriving DecidableEq, Repr

/-- A line of the instruction cache (R21; log 32): partition, partition byte address / 64, its eight words. -/
structure Line where
  part : Nat
  at_ : Nat
  words : List Word64
  deriving DecidableEq, Repr

/-- A transform routine that runs (R225, R226): program counter, integer, floating-point and vector registers, their control registers
(`vtype` with its vill bit), instructions performed; routine code, input rows, and the bytes written since the call. -/
structure Rv where
  pc : Nat
  x : List Word64
  f : List Word64
  v : List (BitVec 512)
  fflags : Nat
  frm : Nat
  vstart : Nat
  vxsat : Nat
  vxrm : Nat
  vl : Nat
  vtype : Nat
  steps : Nat
  code : List Byte
  input : List Row
  mem : Sp (Option Byte)
  deriving DecidableEq, Repr

/-- A core (R14, R21, R31, R51, R180, R201): scratchpad rows, guards, unseen row writes, selector (with the first cycle in which its choice issues), matrix microprogram store
and routine table, transform core queue and the routine that it runs, rope lanes, instruction cache. -/
structure Core where
  rows : Sp Row
  guards : List Guard
  log : List RowWrite
  shadow : List Shadow
  epoch : Sp Nat
  fills : List Fill
  last : Nat
  issuing : Option Nat
  gated : Bool
  choose : Option Nat
  exchanging : Option Nat
  reserved : Option (Nat × Nat)
  muxes : List Mux
  laneE : Nat
  laneW : Nat
  mux0 : Nat
  mux1 : Nat
  store : Sp Word64
  routines : Sp (Option Nat)
  loaded : List (Nat × Nat × Nat)
  lastFed : Nat
  arrayFree : Nat
  xforms : List Nat
  rv : Option Rv
  lost : List (Nat × Nat)
  retired : Option Nat
  icache : List Line
  deriving DecidableEq, Repr

/-- A translation cached at a layout unit (R66); no device frame when only accesses through the codec have used it, which its entry names none
for (R219). -/
structure Cached where
  lu : Nat
  part : Nat
  handle : Nat
  tile : Nat
  entry : Word64
  frame : Option Nat
  deriving DecidableEq, Repr

/-- A copy-engine command in flight (R207, R216): operation, issue tick, captured descriptor slots, box records, cursor, link
offsets, argument, index values and source rows; first source row, destination rows, ring and first counter value; beats and
requests sent; accesses outstanding, rows refused, row contents received, rows written; rows of index and record rows held;
whether it is complete; `stage` tells how far a recast has come; `old` the translations that an invalidation marker leaves to it
(R218). -/
structure Cmd where
  id : Nat
  core : Nat
  slot : Nat
  ch : Nat
  op : Instr
  tick : Nat
  td : Option (BitVec 512)
  td2 : Option (BitVec 512)
  td3 : Option (BitVec 512)
  box : BitVec 512
  box2 : BitVec 512
  cursor : Nat
  li : List Int
  arg : Word64
  idx : List Nat
  src : List Row
  base : Nat
  dest : List Nat
  ring : Option (Nat × Nat)
  beats : Nat
  sent : Nat
  open_ : List Nat
  bad : List Nat
  got : List (Nat × Row)
  written : List Nat
  done : Bool
  after : List Nat
  stage : Nat
  old : List Cached
  epoch : Nat
  deriving DecidableEq, Repr

/-- One element of an access: lane in its data row, offset in its tile in elements, position in the traversal, code. -/
structure Elem where
  lane : Nat
  inner : Nat
  idx : Nat
  val : Nat
  deriving DecidableEq, Repr

/-- What an access does: a read, a streamed read, a write, an add, a replication, the read and the write of `cp.sl`. -/
inductive AccKind | read | stream | write | add | rep | slRead | slWrite
  deriving DecidableEq, Repr

/-- Who makes an access (R341): unit 0-7, context, channel. -/
structure Who where
  unit : Nat
  core : Nat
  slot : Nat
  ch : Nat
  part : Nat
  queue : Nat
  tree : Nat
  tick : Nat
  chip : Nat
  deriving DecidableEq, Repr

/-- A tile piece on its way to a layout unit (R62, R346): command, data row, kind, descriptor, tile, elements; an out-of-range
coordinate; record under which it is parked (R340), whether its unit has accepted it (R75, R340), whether it has been parked and replayed (R359);
cycle in which it left for another chip, stub hops (R79-R82); the contents of blocks that a compressed write has read and not yet written back
(R222). -/
structure Access where
  id : Nat
  cmd : Nat
  row : Nat
  kind : AccKind
  who : Who
  td : BitVec 512
  tile : Nat
  lu : Nat
  elems : List Elem
  extent : Option (Nat × Nat)
  parked : Option Nat
  accepted : Bool
  replayed : Bool
  sentAt : Option Nat
  hops : Nat
  stale : List (Nat × List Byte)
  deriving DecidableEq, Repr

/-- A fault record of a control core (R341); `keep` the accesses of the layout units parked under it, `host` those of the host and of the
engines, each as the event that makes it, with what it acts on. -/
structure FaultRec where
  id : Nat
  part : Nat
  words : List Word64
  parked : Bool
  keep : List Nat
  host : List (Instr × List Nat)
  frame : Nat
  deriving DecidableEq, Repr

/-- A recast in progress: locked range, units that have not yet received the seal (R75, R353). -/
structure Recast where
  cmd : Nat
  part : Nat
  handle : Nat
  tiles : List Nat
  units : List Nat
  sealed : Bool
  deriving DecidableEq, Repr

/-- An operation on its way to a synchronisation engine, or performed and on its way back (R235-R237); `at_` the cycle in
which it reaches the engine; `place` the partition, queue and tree of the gang that issued it (R233). -/
structure SeReq where
  id : Nat
  at_ : Nat
  core : Nat
  slot : Nat
  place : Place
  op : Instr
  handle : Word64
  y : Word64
  z : Word64
  die : Nat
  performed : Bool
  reply : Word64
  refused : Option Nat
  deriving DecidableEq, Repr

/-- A waiter of a variable (R240, R241): `up` none for `se.await` with its tag, some units for `se.semdown`. -/
structure Waiter where
  id : Nat
  core : Nat
  slot : Nat
  key : Nat
  tag : Nat
  units : Option Nat
  deriving DecidableEq, Repr

/-- A synchronisation engine (R232-R242): SRAM variables, allocated ones, frees that wait, waiters, lost variables. -/
structure Se where
  vars : Sp (BitVec 128)
  used : List Nat
  freeing : List Nat
  waiters : List Waiter
  lost : List Nat
  deriving DecidableEq, Repr

/-- A communicator entry as one die's collective engine holds it (R244), and its time-outs (R372, R373). -/
structure Comm where
  entry : BitVec 128
  tj : Nat
  tc : Nat
  deriving DecidableEq, Repr

/-- A change of membership, or a deletion, that an engine has yet to apply (R263, R337). -/
structure Change where
  slot : Nat
  entry : Word32
  epoch : Nat
  delete : Bool
  deriving DecidableEq, Repr

/-- A transfer that the loop walker emits (R248). -/
structure Transfer where
  chunk : Nat
  peer : Nat
  deriving DecidableEq, Repr

/-- A submission to a collective engine (R246, R251-R255): its record, its descriptor slots, the routed rows it needs and has,
the operations it is fenced behind, whether the write of a routed row was refused. -/
structure Submission where
  cmd : Nat
  core : Nat
  slot : Nat
  kind : Instr
  record : List Word64
  tds : Option (BitVec 512)
  tdd : Option (BitVec 512)
  need : Nat
  count : Nat
  after : List Nat
  owner : Nat
  who : Who
  bad : Bool
  deriving DecidableEq, Repr

/-- The collective that a member performs (R246-R253, R372-R375, R385): the live members by rank (slot, chip, die), joins held, whether it
decides in the place of a silent rank 0, the cycle from which one that decides counts its queries,
presence queries (rank, times asked, answered), the decided X, transfers still to perform, pairs that have arrived (chunk, chain
positions passed, words), chunks that have arrived as copies or that the switch has written, chunks written (bytes), chunks joined at
the switch, the cycle since which it waits, its code. -/
structure Coll where
  sub : Submission
  epoch : Nat
  round : Nat
  p : Nat
  rank : Nat
  live : List (Nat × Nat × Nat)
  began : Nat
  joined : List Nat
  poison : List Nat
  sentJoin : Bool
  acting : Bool
  rooted : Nat
  queries : List (Nat × Nat × Bool)
  x : Option (List Nat)
  todo : List Transfer
  pairs : List (Nat × Nat × List Word64)
  arrived : List Nat
  expect : List Nat
  written : List (Nat × List Byte)
  switched : List Nat
  waitSince : Option Nat
  code : Nat
  fault : Nat
  deriving DecidableEq, Repr

/-- A collective engine's state for one communicator on one die (R246, R255, R263); `round` counts the collectives of the epoch that it
has joined, and tells packets of one collective from those of the next (log 3); `closed` the X of the rounds that have closed (R385). -/
structure Cle where
  subs : List Submission
  cur : Option Coll
  change : List Change
  round : Nat
  closed : List (Nat × List Nat)
  deriving DecidableEq, Repr

/-- A packet in flight to an engine of this chip (R249, R255, R372, R385, R386); `src` the sending die plus one, 0 for another
chip; `late` whether X goes to a member whose join came after the round had closed; `stage` of a routed row: 0 on its way to its sender's engine,
1 waiting there for a credit, 2 sent. -/
inductive Packet
  | join (comm die epoch round src rank : Nat) (ranks poison : List Nat)
  | decided (comm die epoch round : Nat) (x : List Nat) (late : Bool)
  | query (comm die epoch src rank : Nat)
  | pair (comm die epoch round src chunk j : Nat) (data : List Word64)
  | chunk (comm die epoch round src chunk : Nat) (data : List Nat)
  | routed (comm peer : Nat) (rel : Bool) (core slot : Nat) (entry : Nat) (first : Nat) (eoff : Nat) (data : Row) (nb : Word64)
      (stage die epoch src : Nat)
  deriving DecidableEq, Repr

/-- A packet on its way, with the number of its partition (R367); the other chip that sent it, while it has not yet arrived: those of one
communicator and chip arrive in send order (R262). -/
structure Msg where
  id : Nat
  part : Nat
  pkt : Packet
  from_ : Option Nat
  deriving DecidableEq, Repr

/-- A posting-list query (R272-R281): cycle in which it reaches its engine, record and candidate rows, td slots, operations it is
fenced behind, whether the engine has taken it up and with what code. -/
structure Query where
  cmd : Nat
  core : Nat
  slot : Nat
  who : Who
  at_ : Nat
  rows : List Row
  cands : List Row
  tdp : Option (BitVec 512)
  tdd : Option (BitVec 512)
  tdl : Option (BitVec 512)
  after : List Nat
  taken : Bool
  code : Nat
  deriving DecidableEq, Repr

/-- A completed or placed group of a queue's reorder window (R307); `refusal` the earliest record made for it and its status
(R347). -/
structure Grp where
  lseq : Nat
  group : Nat
  last : Bool
  irq : Nat
  vec : Nat
  done : Option Nat
  refusal : Option (Nat × Nat)
  tree : Nat
  unplaced : Bool
  deriving DecidableEq, Repr

/-- The head record of a queue as the scheduler has read it (R298-R300): words of the record, the image header and the
loop table, and its routine section; the cycle since which it is head, its next group, whether its groups from there on are refused. -/
structure Head where
  words : List Word64
  image : List Word64
  routines : List (Nat × List Word64)
  since : Nat
  next : Nat
  refused : Bool
  deriving DecidableEq, Repr

/-- A launch queue (R295, R296, R398); `became` the cycle in which record `qhead` became head (R302), `readAt` the first cycle in which the
scheduler reads it, `recordAt` the first in which the oldest completion record is written (R397; log 4); `asked` the bytes whose deferred frames
firmware makes valid before that read, `recordAsked` whether it makes the frame of that record valid first (R384). -/
structure Queue where
  qbase : Word64
  qcfg : Word64
  qtail : Word64
  qhead : Word64
  cbase : Word64
  ctail : Word64
  chead : Word64
  lcount : Word64
  head : Option Head
  grps : List Grp
  became : Nat
  readAt : Nat
  recordAt : Nat
  asked : Option (Nat × Nat)
  recordAsked : Bool
  deriving DecidableEq, Repr

/-- The state of a gang's knot (R41-R45, R48, R363). -/
structure Knot where
  arrived : List Nat
  first : Option Nat
  last : Option Nat
  announced : Bool
  request : Option Nat
  grant : Option Nat
  exchanging : Bool
  withheld : Bool
  timeouts : Nat
  xfab : Bool
  cycle0 : Nat
  deriving DecidableEq, Repr

/-- A gang (R38): members, slot, window, knot, what its launch asked for, the routines of its image (R301), how it ends; the cycle in which firmware
has saved it, once its save has begun (R48, R397; log 4). -/
structure Gang where
  queue : Nat
  lseq : Nat
  group : Nat
  slot : Nat
  cores : List Nat
  base : List (Nat × Nat)
  window : Nat
  shared : Bool
  xbit : Bool
  prio : Nat
  placed : Nat
  image : Nat
  routines : List (Nat × List Word64)
  knot : Knot
  victim : Bool
  ending : Option (Nat × Nat)
  duty : Nat
  saving : Option Nat
  deriving DecidableEq, Repr

/-- A pre-empted gang in its save area (R48, R49, R310, R311): contexts, window rows, what its own reads still see of rows it has
just written (R118), the pending guards of its own ring rows (R54), by core; the cycle in which firmware has restored it, once its restore has
begun (R397; log 4). -/
structure Saved where
  tree : Nat
  gang : Gang
  ctxs : List (Nat × Ctx)
  rows : List (Nat × Nat × Row)
  shadow : List (Nat × Shadow)
  guards : List (Nat × Guard)
  since : Nat
  back : Option Nat
  deriving DecidableEq, Repr

/-- The host event ring of a partition (R315); `waiting` the BRK records that firmware keeps, each with the context that is frozen on it,
`brkAt` the first cycle in which it writes the oldest of them, `copies` the records that it has still to copy (cycle, kind, record; R397; log 4). -/
structure EventRing where
  ebase : Word64
  ecfg : Word64
  etail : Word64
  ehead : Word64
  elost : Word64
  brks : List (Nat × Nat × Nat)
  waiting : List (List Word64 × Option (Nat × Nat))
  brkAt : Nat
  copies : List (Nat × Nat × List Word64)
  deriving DecidableEq, Repr

/-- A configured partition (R46, R312); `deciding` the cycle in which the placement decision under way is made (R304), `asked` the argument block
whose deferred frames firmware makes valid before it (R384). -/
structure Part where
  cfg : PartCfg
  queues : Sp Queue
  gangs : List (Nat × Gang)
  saved : List Saved
  ring : EventRing
  gen : BitVec 16
  deciding : Option Nat
  asked : Option (Nat × Nat)
  deriving DecidableEq, Repr

/-- A compute die (R18): its synchronisation engine, event records, fault buffer, refusal records that wait for room in it (R342), fabric
log, posting-list engines. -/
structure Die where
  se : Se
  events : List (List Word64)
  faults : List FaultRec
  backlog : List FaultRec
  fabric : List (List Word64)
  ple : Sp (List Query)
  deriving DecidableEq, Repr

/-- A rope beat (R171, R172): lane owner core, direction, strip it has reached, bytes, whether full width, valid parity,
footprint bounds, and the cycle in which it stands on that strip's latch. -/
structure Beat where
  core : Nat
  dir : Bool
  strip : Nat
  bytes : BitVec 128
  full : Bool
  parity : Bool
  lo : Nat
  hi : Nat
  at_ : Nat
  part : Nat
  tree : Nat
  l : Nat
  deriving DecidableEq, Repr

/-- A stub left at a tile's former owner, or a tile on the move (R80-R82): new owner, requests queued while it moves (chip, hops), requests
forwarded by requester, its first cycle, whether it has sent its reclaim request. -/
structure Stub where
  handle : Nat
  tile : Nat
  owner : Nat
  moving : Bool
  queue : List (Nat × Nat)
  told : List (Nat × Nat)
  born : Nat
  reclaim : Bool
  deriving DecidableEq, Repr

/-- A tile of another home chip that has migrated to this one (R80): where its entry lies, in a partition's memory. -/
structure Guest where
  handle : Nat
  tile : Nat
  part : Nat
  at_ : Nat
  deriving DecidableEq, Repr

/-- What this chip's directory knows of a tile homed here that has moved (R79, R357): its owner chip, none while a move is unconfirmed. -/
structure HomeTile where
  handle : Nat
  tile : Nat
  owner : Option Nat
  deriving DecidableEq, Repr

/-- A translation invalidation (R218): the translations that it ends, the markers not yet acknowledged, the contexts (core, slot) that its marker
has still to reach. -/
structure Unmap where
  handle : Nat
  tile : Nat
  old : List Cached
  waits : List Nat
  due : List (Nat × Nat)
  deriving DecidableEq, Repr

/-- A Umtuic port (R370): the cycles of codewords that it could not correct, those of failed retrainings, codewords corrected since its last
record. -/
structure Port where
  errors : List Nat
  failed : List Nat
  corrected : Nat
  deriving DecidableEq, Repr

/-- A switch address group (R259, R386): epoch, members, joins held. -/
structure SwitchGroup where
  epoch : Nat
  members : List Nat
  joins : List (Nat × Nat × Nat)
  deriving DecidableEq, Repr

/-- A hot spare that replays its neighbour's splice log (R265, R376): die, communicator and vacated slot; the slot below which its neighbour is the
next live one; whether it holds a state; sequence number of the snapshot and of the last entry replayed; readings of the entry after it whose digest
did not match. -/
structure Replay where
  die : Nat
  comm : Nat
  slot : Nat
  below : Nat
  held : Bool
  snapshot : Nat
  seq : Nat
  bad : Nat
  deriving DecidableEq, Repr

/-- A tile of another chip as this chip last saw or left it (R79, R217, R284, R293): the bytes of its frame that it knows (log 7). -/
structure FarTile where
  handle : Nat
  tile : Nat
  image : Sp (Option Byte)
  deriving DecidableEq, Repr

/-- The fabric that all partitions share: packets, beats, engines of collectives, switch groups, caches; replicas (handle, tile, place: a
die, or 4 plus a chip, R212); recasts; the owner cache, stubs and holds of remote tiles, tiles migrated here, the home directory (R79-R82,
R357), invalidations under way (R218), spares that replay a log (R265); routers that are off, the cycle in which each was last woken (R369), ports (R370). -/
structure Fabric where
  msgs : List Msg
  beats : List Beat
  cles : Sp Cle
  comms : Sp Comm
  switch : Sp SwitchGroup
  seq : Nat
  splice : List (List Word64)
  cache : List Cached
  replicas : List (Nat × Nat × Nat)
  recasts : List Recast
  owners : List (Nat × Nat × Nat)
  stubs : List Stub
  guests : List Guest
  homes : List HomeTile
  unmaps : List Unmap
  replays : List Replay
  routerOff : List Nat
  routerWoke : Sp Nat
  ports : Sp Port
  holds : List (Nat × Nat × List Nat)
  served : Sp Nat
  far : List FarTile
  deriving DecidableEq, Repr

/-- A CXL.mem access of the host that has completed (R314, R347): a read with its data, marked poisoned when it was refused. -/
structure HostDone where
  part : Nat
  addr : Nat
  write : Bool
  data : List Byte
  poisoned : Bool
  deriving DecidableEq, Repr

/-- The control side of the device (R314-R324): status, boot record, boot count, step under way, fences, arithmetic clock in eighths of
2.7 GHz, power limit in watts, message-signalled interrupts sent, DOE mailbox (responses, request in hand, transcript, what the last report's signature covers), next leaf of the
lower HSS tree and of the top tree, number of this chip, rollback value of the one-time-programmable store (R322), number of the boot's alias
key (R324), host accesses completed. -/
structure Control where
  svc : Nat
  boot : List Word64
  bootCount : Nat
  bootAt : Option (Nat × Nat)
  fencedDies : List Nat
  fencedStacks : List Nat
  fencedPorts : List Nat
  clock : Nat
  powerLimit : Nat
  msix : List Nat
  mailbox : List (List Byte)
  request : List Byte
  transcript : List Byte
  transcriptB : List Byte
  transcriptL : List Byte
  signedOver : List Byte
  hssLeaf : Nat
  hssTop : Nat
  chip : Nat
  rollback : Nat
  alias_ : Nat
  xcode : List Byte
  xtable : List Nat
  xreturn : Nat
  mroutines : List (Nat × List Word64)
  hostDone : List HostDone
  deriving DecidableEq, Repr

/-- Work that falls due at a cycle: an event of the table, or the next microword of a context's routine. -/
inductive Work
  | event (i : Instr)
  | micro (core slot : Nat)
  deriving DecidableEq, Repr
structure Due where
  at_ : Nat
  work : Work
  subject : List Nat
  deriving DecidableEq, Repr

/-- The syllable that is being performed: core, slot, lane, address of its bundle, address of the bundle after its second
delay bundle, whether it is a held re-issue. The model's own field (log 3). -/
structure Cur where
  core : Nat
  slot : Nat
  lane : Lane
  pc : Word64
  link : Word64
  held : Bool
  deriving DecidableEq, Repr

/-- An access of an engine that its layout unit has parked: the fields of its record (R340, R341). -/
structure ParkedAs where
  code : Nat
  sub : Nat
  who : Who
  handle : Nat
  lu : Nat
  tile : Nat
  info : Word64
  aux : Word64
  entry : Word64
  frame : Nat
  deriving DecidableEq, Repr
/-- What keeps an event of an engine from going on: a seal, a move or a full park; a request that no reply will come to; a unit that keeps an
access (unit, handle, tile) while its die's fault buffer is full; an access that parks (R75, R80, R340, R342, R358). -/
inductive Stall
  | held | lost (handle tile : Nat) | full (lu handle tile : Nat) | park (p : ParkedAs)
  deriving DecidableEq, Repr
/-- An event of an engine in hand, whose accesses are performed with it (log 12): the accesses that firmware has refused it (handle, tile,
code); those that units have accepted and keep for it (unit, handle, tile); what keeps it from going on. -/
structure Attempt where
  denied : List (Nat × Nat × Nat)
  taken : List (Nat × Nat × Nat)
  stall : Option Stall
  deriving DecidableEq, Repr
/-- An event of an engine that waits for one of its accesses (log 12): the cycle up to which it waits, none while the access is parked under
a record; what firmware has refused it; the parked access (unit, handle, tile); all accesses that units have accepted and keep for it (R340). -/
structure Waiting where
  event : Instr
  subject : List Nat
  till : Option Nat
  denied : List (Nat × Nat × Nat)
  parked : Option (Nat × Nat × Nat)
  taken : List (Nat × Nat × Nat)
  deriving DecidableEq, Repr

/-- The state of the device. `now`, `fresh`, `cur`, `subject`, `redo`, `pending` and `turn` are the model's own fields (log 3): the
wall-clock cycle, the counter of free values, the operation in hand, what an event without operands acts on, an operation to perform next, work that falls due,
the cores that have still to issue in this cycle. `attempt` and `delayed`, the model's own too, hold the accesses of the engines (log 12). -/
structure State where
  cores : Sp Core
  ctxs : Sp Ctx
  mem : Memory
  dies : Sp Die
  parts : Sp Part
  cmds : List Cmd
  accesses : List Access
  seReqs : List SeReq
  fabric : Fabric
  control : Control
  now : Nat
  fresh : Nat
  cur : Cur
  subject : List Nat
  redo : Option Instr
  pending : List Due
  turn : List Nat
  attempt : Option Attempt
  delayed : List Waiting
  deriving DecidableEq, Repr

/-- Why the machine stops. -/
inductive Fault
  /-- Raised by `step` when the boot has stopped (svc = 3, R380): the device does nothing more. Safe: the manual gives no
  step after it. -/
  | bootStopped
  deriving DecidableEq, Repr

/-- What the model does not perform. -/
inductive Refusal
  /-- Raised by the dispatcher for an instruction whose meaning is not written. Safe: no state follows. -/
  | notModelled (mnemonic : String)
  deriving DecidableEq, Repr

/-- Registers as placement leaves them (R26, R127, R128, R186): masks all ones, p0 one, ring pair (0, 1). -/
def Regs.reset : Regs :=
  { s := [], a := [], p := 1, k := [], lc := [], li := [], stride := [], iter := [], v := [], vrb := 0, lpc := 0, fmt := 0,
    fmtTab := [], mp := [], ma := [], nb := [], ringA := 0, ringB := 1, ring := [], td := [] }
def Issue.reset : Issue :=
  { placed := false, pc := 0, tick := 0, halted := false, freeze := none, blocked := none, ready := 0, grant := none, after := [], target := none, skip := 0,
    knot := false, arrived := false, routineEvent := none, freezeAsked := none, throttled := false }
def Place.reset : Place := { part := 0, queue := 0, tree := 0, group := 0, phase := 0, base := 0, limit := 0 }
def Matrix.reset : Matrix := { tile := [], queue := [], run := none }
def Chan.reset : Chan := { free := 0, skip := 0, fills := 0, fence := [] }
def Ctx.reset : Ctx :=
  { regs := Regs.reset, iss := Issue.reset, place := Place.reset, grp := none, hold := [], landing := [], matrix := Matrix.reset,
    chan := [], busy := [], fenceMx := [], fencePl := [], fenceCl := [], owed := [], ringDue := [], markers := [], body := none }
/-- The standard routines 0-7, stored one after another from microprogram address 0 (R201; log 20). -/
def standardStore : List Word64 :=
  let step (a b f : Instr) : List Instr := [.wloop 0 true 0 0, .wjump 0 1 7, a, b, f, .wretire true true, .wjump 0 2 2]
  let base : List Instr := step (.wpopa false) (.wpopb false) (.wfeed 0 false false) ++ [.wend]
  let four : List Instr := [.wloop 0 true 0 0, .wjump 0 1 24, .wpopb false,
    .wpopa false, .wfeed 0 false false, .wretire true false, .wpopa false, .wfeed 1 false false, .wretire true false,
    .wpopa false, .wfeed 2 false false, .wretire true false, .wpopa false, .wfeed 3 false false, .wretire true true,
    .wjump 0 2 10, .wend]
  let score : List Instr := [.wloop 0 true 0 0, .wjump 0 1 32, .wpopa false, .wpopb false, .wfeed 0 false false,
    .wretire true true, .wjump 0 2 27, .wsend false 0 true 1 0 31, .wend]
  let trans : List Instr := [.wloop 0 true 0 0, .wjump 0 1 41, .wpopa true, .wpopb false, .wfeed 0 true false,
    .wretire true true, .wjump 0 2 36, .wend]
  let out : List Instr := [.wsend true 0 false 0 0 31, .wend]
  (base ++ four ++ score ++ trans ++ out).map fun i => (encodeMicro i).getD 0
/-- Number a list as a table. -/
def indexed {α : Type} : Nat → List α → Sp α
  | _, [] => []
  | n, x :: r => (n, x) :: indexed (n + 1) r
/-- Start addresses of routines 0-7 (R201): 0, 1, 2 and 4 share one microcode. Those of firmware's own configuration come with a boot (log 66). -/
def standardRoutines : Sp (Option Nat) :=
  [(0, some 0), (1, some 0), (2, some 0), (3, some 8), (4, some 0), (5, some 25), (6, some 34), (7, some 42)]
def Core.reset : Core :=
  { rows := [], guards := [], log := [], shadow := [], epoch := [], fills := [], last := 3, issuing := none, gated := true, choose := none,
    exchanging := none, reserved := none, muxes := [], laneE := 0, laneW := 0, mux0 := 0, mux1 := 0,
    store := indexed 0 standardStore, routines := standardRoutines, loaded := [], lastFed := 3, arrayFree := 0, xforms := [], rv := none, lost := [], retired := none, icache := [] }
def Se.reset : Se := { vars := [], used := [], freeing := [], waiters := [], lost := [] }
def Die.reset : Die := { se := Se.reset, events := [], faults := [], backlog := [], fabric := [], ple := [] }
def Queue.reset : Queue :=
  { qbase := 0, qcfg := 0, qtail := 0, qhead := 0, cbase := 0, ctail := 0, chead := 0, lcount := 0, head := none, grps := [], became := 0, readAt := 0, recordAt := 0, asked := none, recordAsked := false }
def EventRing.reset : EventRing :=
  { ebase := 0, ecfg := 0, etail := 0, ehead := 0, elost := 0, brks := [], waiting := [], brkAt := 0, copies := [] }
def Knot.reset : Knot :=
  { arrived := [], first := none, last := none, announced := false, request := none, grant := none, exchanging := false,
    withheld := false, timeouts := 0, xfab := false, cycle0 := 0 }
def PartCfg.reset : PartCfg :=
  { first := 0, dies := [], s2base := 0, s2len := 0, age := 2 ^ 20, ktime := 2 ^ 30, saveArea := [], overflow := [] }
def Part.reset : Part :=
  { cfg := PartCfg.reset, queues := [], gangs := [], saved := [], ring := EventRing.reset, gen := 0, deciding := none, asked := none }
def Comm.reset : Comm := { entry := 0, tj := 2 ^ 22, tc := 2 ^ 24 }
def Cle.reset : Cle := { subs := [], cur := none, change := [], round := 0, closed := [] }
def Port.reset : Port := { errors := [], failed := [], corrected := 0 }
def SwitchGroup.reset : SwitchGroup := { epoch := 0, members := [], joins := [] }
def Fabric.reset : Fabric :=
  { msgs := [], beats := [], cles := [], comms := [], switch := [], seq := 1, splice := [], cache := [], replicas := [],
    recasts := [], owners := [], stubs := [], guests := [], homes := [], unmaps := [], replays := [], routerOff := [], routerWoke := [], ports := [], holds := [], served := [], far := [] }
def Control.reset : Control :=
  { svc := 0, boot := List.replicate 64 0, bootCount := 1, bootAt := some (0, 0), fencedDies := [], fencedStacks := [],
    fencedPorts := [], clock := 8, powerLimit := 3000, msix := [], mailbox := [], request := [], transcript := [], transcriptB := [], transcriptL := [], signedOver := [], hssLeaf := 32768, hssTop := 0, chip := 0,
    rollback := 0, alias_ := 0, xcode := [], xtable := [], xreturn := 0x8000, mroutines := [], hostDone := [] }
def Cur.reset : Cur := { core := 0, slot := 0, lane := .s, pc := 0, link := 0, held := false }

/-- The device right after device reset (R8, R31, R318, R321): no partition configured, nothing in flight, the boot about
to run step 0. -/
def State.reset : State :=
  { cores := [], ctxs := [], mem := [], dies := [], parts := [], cmds := [], accesses := [], seReqs := [],
    fabric := Fabric.reset, control := Control.reset, now := 0, fresh := 1, cur := Cur.reset, subject := [], redo := none,
    pending := [⟨0, .event .bootStep, [0, 0]⟩], turn := [], attempt := none, delayed := [] }

end Sys2Proof.Machine
end

