-- ==== Sys2Proof/Machine/Ops.lean ====
section
/-! DEFINITION. Named operations over the state: access by key, results in flight and their landing, scratchpad rows and
guards, stage two, event and fabric records, freezing and the three firmware actions (R114, R118, R53, R54, R65, R330,
R336, R361). -/
namespace Sys2Proof.Machine
open Sys2Proof

abbrev Res := Host.Outcome State Fault Refusal

/-- Key of a context: core x 4 + slot (R14, R26). -/
def ck (core slot : Nat) : Nat := core * 4 + slot
def State.ctx (s : State) (k : Nat) : Ctx := Sp.get Ctx.reset s.ctxs k
def State.setCtx (s : State) (k : Nat) (c : Ctx) : State := { s with ctxs := Sp.put Ctx.reset s.ctxs k c }
def State.core (s : State) (n : Nat) : Core := Sp.get Core.reset s.cores n
def State.setCore (s : State) (n : Nat) (c : Core) : State := { s with cores := Sp.put Core.reset s.cores n c }
def State.die (s : State) (n : Nat) : Die := Sp.get Die.reset s.dies n
def State.setDie (s : State) (n : Nat) (d : Die) : State := { s with dies := Sp.put Die.reset s.dies n d }
def State.part (s : State) (n : Nat) : Part := Sp.get Part.reset s.parts n
def State.setPart (s : State) (n : Nat) (p : Part) : State := { s with parts := Sp.put Part.reset s.parts n p }
/-- The key of the context in hand. -/
def State.ck (s : State) : Nat := Machine.ck s.cur.core s.cur.slot
/-- The context in hand. -/
def State.me (s : State) : Ctx := s.ctx s.ck
def State.setMe (s : State) (c : Ctx) : State := s.setCtx s.ck c
/-- The core in hand. -/
def State.here (s : State) : Core := s.core s.cur.core
def State.setHere (s : State) (c : Core) : State := s.setCore s.cur.core c
/-- The tick of the bundle in hand. -/
def State.tick (s : State) : Nat := s.me.iss.tick
/-- Operand n of an event that carries none in its name. -/
def State.subj (s : State) (n : Nat) : Nat := s.subject.getD n 0
/-- Work that falls due d cycles from now. -/
def State.later (s : State) (d : Nat) (i : Instr) (subject : List Nat) : State :=
  { s with pending := s.pending ++ [⟨s.now + d, .event i, subject⟩] }
/-- A fresh number for a free value (log 3). -/
def State.bump (s : State) : State := { s with fresh := s.fresh + 1 }
/-- Routers that a wake notice or a packet reaches: on, their idle count from 0 in the next cycle, and looked at once it may have come to 256
(R369). -/
def State.wakes (s : State) (l : List Nat) : State :=
  let s : State := { s with fabric := { s.fabric with routerOff := s.fabric.routerOff.filter fun r => !l.contains r
                                                      routerWoke := l.foldl (fun m r => Sp.put 0 m r (s.now + 1)) s.fabric.routerWoke } }
  { s with pending := s.pending ++ l.map fun r => ⟨s.now + 257, .event .routerIdleTimeout, [r]⟩ }
/-- A packet sets out, and wakes the routers on its way ahead of it (R369; log 76). -/
def State.travels (s : State) : State := s.wakes (Config.path s.fresh)
/-- Work that falls due after a duration no rule fixes (R397; log 4). -/
def State.sometime (s : State) (i : Instr) (subject : List Nat) : State :=
  (s.later (1 + Config.duration s.fresh) i subject).bump
/-- A choice the rules leave open (log 5). -/
def State.chooses (s : State) : Bool := Config.choice s.fresh

/-- Course, row, die and strip of a core (R14). -/
def coreDie (g : Nat) : Nat := g / 576
def coreCourse (g : Nat) : Nat := g % 576 / 24
def coreRow (g : Nat) : Nat := g % 24
def coreStrip (g : Nat) : Nat := 30 * coreDie g + coreCourse g + coreCourse g / 4
/-- The posting-list engine of a core's home slice strip (R16, R25). -/
def corePle (g : Nat) : Nat := coreDie g * 6 + coreCourse g / 4

/-! Registers (R109, R127, R142). -/

/-- s0 reads as 0 (R127). -/
def Regs.readS (r : Regs) (n : Nat) : Word64 := if n = 0 then 0 else Sp.get 0 r.s n
def Regs.readA (r : Regs) (n : Nat) : Word32 := Sp.get 0 r.a n
/-- p0 reads as 1 (R127). -/
def Regs.readP (r : Regs) (n : Nat) : Bool := n = 0 || r.p.getLsbD n
def Regs.readK (r : Regs) (n : Nat) : BitVec 128 := Sp.get (BitVec.allOnes 128) r.k n
/-- The physical register of an encoded vector name: v384-v511 rotate (R142). -/
def physical (vrb n : Nat) : Nat := if 384 ≤ n && n < 512 then 384 + (n - 384 + 128 - vrb % 128) % 128 else n
/-- A vector register by its encoded name (R57, R142). -/
def Regs.readV (r : Regs) (n : Nat) : Row := Sp.get 0 r.v (physical r.vrb.toNat n)

/-- Blend a landing value into the old contents of a register of w bits (R114, R148). -/
def merge {w : Nat} (old : BitVec w) (r : Result) : BitVec w :=
  blend old (r.val.setWidth w) (r.mask.setWidth w)
/-- Write one result to its destination and set its flags (R91, R114). s0 and p0 discard (R127). -/
def Regs.land (g : Regs) (r : Result) : Regs :=
  let g := { g with fmt := g.fmt ||| (BitVec.setWidth 64 r.flags <<< 40) }
  match r.dest with
  | .s n => if n = 0 then g else { g with s := Sp.put 0 g.s n (merge (Sp.get 0 g.s n) r) }
  | .a n => { g with a := Sp.put 0 g.a n (merge (Sp.get 0 g.a n) r) }
  | .p n => if n = 0 then g else { g with p := if r.mask.getLsbD 0 then setFld g.p n 1 (b2n (r.val.getLsbD 0)) else g.p }
  | .k n => { g with k := Sp.put (BitVec.allOnes 128) g.k n (merge (g.readK n) r) }
  | .v n => { g with v := Sp.put 0 g.v n (merge (Sp.get 0 g.v n) r) }
  | .lc n => { g with lc := Sp.put 0 g.lc n (merge (Sp.get 0 g.lc n) r) }
  | .li n => { g with li := Sp.put 0 g.li n (merge (Sp.get 0 g.li n) r) }
  | .stride n => { g with stride := Sp.put 0 g.stride n (merge (Sp.get 0 g.stride n) r) }
  | .iter n => { g with iter := Sp.put 0 g.iter n (merge (Sp.get 0 g.iter n) r) }
  | .mp n => { g with mp := Sp.put 0 g.mp n (merge (Sp.get 0 g.mp n) r) }
  | .ma n => { g with ma := Sp.put 0 g.ma n (merge (Sp.get 0 g.ma n) r) }
  | .nb n => { g with nb := Sp.put 0 g.nb n (merge (Sp.get 0 g.nb n) r) }
  | .fmtTab n => { g with fmtTab := Sp.put 0 g.fmtTab n (merge (Sp.get 0 g.fmtTab n) r) }
  | .ringPair => { g with ringA := r.val.extractLsb' 0 3, ringB := r.val.extractLsb' 3 3 }
  | .ring n => { g with ring := Sp.put 0 g.ring n (merge (Sp.get 0 g.ring n) r) }
  | .vrb => { g with vrb := merge g.vrb r }
  | .lpc => { g with lpc := merge g.lpc r }
  | .fmt => { g with fmt := merge g.fmt r }
  | .td n => { g with td := Sp.put none g.td n (some (r.val.setWidth 512)) }
  | .cursor n =>
    match Sp.get none g.td n with
    | some d => { g with td := Sp.put none g.td n (some (setFld d 384 48 (r.val.extractLsb' 0 48).toNat)) }
    | none => g
/-- The fmt writes of one tick come before the flags that land at it (R93). -/
def isFmt (r : Result) : Bool := r.dest == .fmt
/-- Results due at or before a tick and arrived, `mts fmt` before `fmtset` before all others, otherwise late ones first and those of one
tick in issue order (R93, R114, R116, R165). -/
def dueAt (l : List Result) (t : Nat) : List Result :=
  let d := (l.filter fun r => r.due < t && r.arrived) ++ l.filter fun r => r.due = t && r.arrived
  d.filter (fun r => isFmt r && r.mask == allOnes) ++ d.filter (fun r => isFmt r && r.mask != allOnes)
    ++ d.filter (fun r => !isFmt r)
/-- A result that is still under way gives up the bits that a result with a later landing tick, or of the same tick and issued later, has written
(R114, R116; log 57): `l` the results in issue order, `r` number n among them. -/
def shaded (l : List Result) (t n : Nat) (r : Result) : Result :=
  let beats (e : Result × Nat) : Bool :=
    e.1.arrived && e.1.due ≤ t && e.1.dest == r.dest && (r.due < e.1.due || (r.due = e.1.due && n < e.2))
  { r with mask := l.zipIdx.foldl (fun m e => if beats e then m &&& ~~~e.1.mask else m) r.mask }
/-- Landing at a tick (R114). -/
def Ctx.landAt (c : Ctx) (t : Nat) : Ctx :=
  { c with regs := (dueAt c.landing t).foldl Regs.land c.regs,
           landing := (c.landing.zipIdx.filter fun e => !(e.1.due ≤ t && e.1.arrived)).map fun e => shaded c.landing t e.2 e.1 }

/-- Add a result of the bundle in hand with latency lat (R114). -/
def State.result (s : State) (lat : Nat) (d : Dest) (val mask : Row) (flags : BitVec 6) : State :=
  let c := s.me
  s.setMe { c with landing := c.landing ++ [⟨c.iss.tick + lat, d, val, mask, flags, 2 ≤ lat, true, 0⟩] }
/-- A one-tick or longer write that holds no landing slot (R58, R93). -/
def State.writes (s : State) (lat : Nat) (d : Dest) (val mask : Row) : State :=
  let c := s.me
  s.setMe { c with landing := c.landing ++ [⟨c.iss.tick + lat, d, val, mask, 0, false, true, 0⟩] }
/-- A whole-register result from a 64-bit value. -/
def State.resultW (s : State) (lat : Nat) (d : Dest) (v : Word64) : State := s.result lat d (v.setWidth 1024) allOnes 0
/-- Latency of a vector destination: one tick less for a q name (R115). -/
def vLat (name lat : Nat) : Nat := if 608 ≤ name then max 1 (lat - 1) else lat
/-- The physical destination of an encoded vector name, fixed at issue (R142). -/
def State.vDest (s : State) (name : Nat) : Dest := .v (physical s.me.regs.vrb.toNat name)
/-- An engine, numbered as in R333, is busy for b ticks from the bundle in hand (R119). -/
def State.useEngine (s : State) (engine b : Nat) : State :=
  let c := s.me
  if b ≤ 1 then s else s.setMe { c with busy := (engine, c.iss.tick + b, c.iss.tick) :: c.busy.filter fun e => e.1 ≠ engine }
/-- A vector result (R114, R115, R148). It holds a landing slot unless it lands after one tick (R58). -/
def State.resultV (s : State) (name lat : Nat) (val mask : Row) (flags : BitVec 6) : State :=
  s.result (vLat name lat) (s.vDest name) val mask flags

/-! Scratchpad rows (R51-R54, R118). -/

/-- The committed contents of a row. -/
def Core.row (c : Core) (a : Nat) : Row := Sp.get 0 c.rows a
/-- Apply the logged writes of a list to a row value. -/
def applyLog (l : List RowWrite) (a : Nat) (x : Row) : Row :=
  l.foldl (fun x w => if w.row = a then blend x w.val w.mask else x) x
/-- Whether a context's own read at tick u, through stores issued before tick lim, sees a write of that kind made at a tick: a load has lim =
u - 1, a command's capture lim = u. Fills are seen two ticks later by both, a row of the ropes by captures at once (R118, R169, R175, R207). For a
store in the bundle of a `knot`, R290 says that the knot completes it for its own context, while R118 and R283 ask for two ticks: the model
follows R118 (DESIGN CHOICE, log 78). -/
def RowKind.sees (k : RowKind) (tick u lim : Nat) : Bool :=
  match k with
  | .store => tick < lim
  | .fill => tick + 1 < u
  | .rope => u ≤ lim || tick < lim
  | .engine => true
/-- A row as a context sees it at tick u, through stores of its own issued before tick lim: the oldest shadow that still stands for it, or the
shared contents; then its own logged writes that it sees. -/
def Core.seen (c : Core) (slot u lim a : Nat) : Row :=
  let base := match c.shadow.find? fun w => w.slot = slot && w.row = a && !w.kind.sees w.tick u lim with
    | some w => w.old
    | none => c.row a
  applyLog (c.log.filter fun w => w.slot = slot && w.kind.sees w.tick u lim) a base
/-- A load-slot read at tick u sees writes issued at tick u - 2 or earlier (R118, R168). -/
def State.loadRow (s : State) (a : Nat) : Row := s.here.seen s.cur.slot s.tick (s.tick - 1) a
/-- A row as a command issued in this bundle captures it: every write issued before its tick (R207). -/
def State.snapRow (s : State) (a : Nat) : Row := s.here.seen s.cur.slot s.tick s.tick a
/-- A store-slot write of the bundle in hand: it is logged, and seen by the others when it is committed (R53). -/
def State.storeRow (s : State) (a : Nat) (val mask : Row) : State :=
  let c := s.here
  s.setHere { c with log := c.log ++ [⟨s.cur.slot, s.tick, a, val, mask, Sp.get 0 c.epoch s.cur.slot, .store⟩] }
/-- Commit the logged writes of one row, in order: an engine writes the row after them. -/
def Core.flushRow (c : Core) (a : Nat) : Core :=
  { c with rows := Sp.put 0 c.rows a (applyLog c.log a (c.row a)), log := c.log.filter fun w => w.row ≠ a }
/-- A whole-row write that no context's operation makes (R27, R49, R379). -/
def Core.writeRow (c : Core) (a : Nat) (v : Row) : Core := { c with rows := Sp.put 0 (c.flushRow a).rows a v, log := (c.flushRow a).log }
/-- Whether write e becomes visible before write w: of the same context, to the same row or with an `lfence` between them. Writes of different
contexts become visible in any order (R53). -/
def RowWrite.precedes (e w : RowWrite) : Bool := e.slot = w.slot && (e.row = w.row || e.epoch < w.epoch)
/-- Whether rows of a fill from before the `lfence` that a write follows are still to be filled (R53, R169). -/
def Core.fillFirst (c : Core) (w : RowWrite) : Bool := c.fills.any fun f => f.slot = w.slot && f.epoch < w.epoch
/-- Whether the n-th logged write may become visible now (R53). -/
def Core.mayCommit (c : Core) (n : Nat) : Bool :=
  match c.log[n]? with
  | some w => !c.fillFirst w && (c.log.take n).all fun e => !e.precedes w
  | none => false
/-- A write becomes visible. What the context's own reads saw of the row before stays for them, until they see the write. -/
def Core.show (c : Core) (w : RowWrite) : Core :=
  { c with rows := Sp.put 0 c.rows w.row (blend (c.row w.row) w.val w.mask),
           shadow := match w.kind with
             | .engine => c.shadow.filter fun e => e.row ≠ w.row
             | _ => c.shadow ++ [⟨w.slot, w.tick, w.row, c.row w.row, w.kind⟩] }
/-- Make the n-th logged write visible. -/
def Core.commitAt (c : Core) (n : Nat) : Core :=
  match c.log[n]? with
  | some w => { c with log := c.log.eraseIdx n }.show w
  | none => c
/-- The writes of a list that must become visible before w, with w last, and the others. -/
def precursors (l : List RowWrite) (w : RowWrite) : List RowWrite × List RowWrite :=
  l.foldr (fun e p => if p.1.any e.precedes then (e :: p.1, p.2) else (p.1, e :: p.2)) ([w], [])
/-- A row is written by a fill, a multiplexer, a command or the matrix unit (R53, R54): it becomes visible at once, after every write that must
come before it; while one of those waits for a fill, it stays in the log. -/
def Core.landRow (c : Core) (w : RowWrite) : Core :=
  let (need, rest) := precursors c.log w
  if need.any c.fillFirst then { c with log := c.log ++ [w] } else need.foldl Core.show { c with log := rest }
/-- What the multiplexers of a context have written, its own reads see from its next superstep on (R177). -/
def Core.ropesSeen (c : Core) (slot : Nat) : Core :=
  { c with log := c.log.map fun w => if w.slot = slot && w.kind == .rope then { w with kind := .engine } else w,
           shadow := c.shadow.filter fun w => !(w.slot = slot && w.kind == .rope) }

def Core.addGuard (c : Core) (row : Nat) (pend : Bool) (cause own : Nat) : Core :=
  { c with guards := c.guards ++ [⟨row, pend, cause, own, none⟩] }
/-- Remove the guards that a cause holds on a row. -/
def Core.clearGuard (c : Core) (row cause : Nat) (pend : Bool) : Core :=
  { c with guards := c.guards.filter fun g => !(g.row = row && g.cause = cause && g.pend == pend) }
/-- Whether a row is pending for a context: the guards of its own fills do not bind it (R54, R169). -/
def Core.pending (c : Core) (slot row : Nat) : Bool :=
  c.guards.any fun g => g.row = row && g.pend && !(g.fillTick.isSome && g.own = slot)
/-- Whether a row is held (R54). -/
def Core.held (c : Core) (row : Nat) : Bool := c.guards.any fun g => g.row = row && !g.pend

/-! Rings (R55, R56). -/

def ringBase (r : Word64) : Nat := fldN r 52 12
def ringLsize (r : Word64) : Nat := fldN r 48 4
def ringResv (r : Word64) : Nat := fldN r 36 12
def ringTail (r : Word64) : Nat := fldN r 24 12
def ringHead (r : Word64) : Nat := fldN r 12 12
def ringValid (r : Word64) : Bool := bit r 0
/-- The row of a counter value (R55). -/
def ringRow (r : Word64) (n : Nat) : Nat := ringBase r + n % 2 ^ ringLsize r
def Regs.ringOf (g : Regs) (n : Nat) : Word64 := Sp.get 0 g.ring n
def Regs.setRing (g : Regs) (n : Nat) (r : Word64) : Regs := { g with ring := Sp.put 0 g.ring n r }
/-- Rows free for reservation (R56). -/
def ringRoom (r : Word64) : Nat := 2 ^ ringLsize r - (ringResv r + 4096 - ringHead r) % 4096
/-- Landed rows not yet popped (R56). -/
def ringCount (r : Word64) : Nat := (ringTail r + 4096 - ringHead r) % 4096
/-- Counter values n, n+1, ... modulo 4,096. -/
def counters (n : Nat) : Nat → List Nat
  | 0 => []
  | m + 1 => n % 4096 :: counters (n + 1) m
/-- Reserve rows at resv: the counter values, and the context with them owed (R56). -/
def Ctx.reserve (c : Ctx) (ring n : Nat) : List Nat × Ctx :=
  let r := c.regs.ringOf ring
  let ns := counters (ringResv r) n
  (ns, { c with regs := c.regs.setRing ring (setFld r 36 12 ((ringResv r + n) % 4096)), owed := c.owed ++ ns.map fun m => (ring, m) })
/-- Advance the tail over landed rows in reservation order (R56), at most n times. -/
def Ctx.advanceTail (c : Ctx) (ring : Nat) : Nat → Ctx
  | 0 => c
  | n + 1 =>
    let r := c.regs.ringOf ring
    if ringTail r = ringResv r || c.owed.contains (ring, ringTail r) then c
    else Ctx.advanceTail { c with regs := c.regs.setRing ring (setFld r 24 12 ((ringTail r + 1) % 4096)) } ring n
/-- A reserved row has landed (R56). -/
def Ctx.ringLanded (c : Ctx) (ring n : Nat) : Ctx :=
  Ctx.advanceTail { c with owed := c.owed.filter fun o => o ≠ (ring, n) } ring 4096

/-! Stage two and partition memory (R65). -/

/-- Device frames that exist and are not fenced (R65, R320); DRAM frames are admitted at full service (R319). -/
def State.frameOk (s : State) (f : Nat) : Bool :=
  let sp := f / 2 ^ 28
  let n := f % 2 ^ 28
  if sp < 8 then n < 1572864 && !s.control.fencedStacks.contains sp && !s.control.fencedDies.contains (sp / 2) && s.control.svc = 2
  else if sp < 12 then n < 864 && !s.control.fencedDies.contains (sp - 8)
  else sp = 12
/-- Whether the stage-two table holds an entry for a partition frame. -/
def State.s2inside (s : State) (part frame : Nat) : Bool := frame < 2 ^ 28 && 8 * frame + 8 ≤ (s.part part).cfg.s2len
/-- Whether the place of that entry can be read (R65, R331). -/
def State.s2reads (s : State) (part frame : Nat) : Bool := s.frameOk (((s.part part).cfg.s2base + 8 * frame) / 65536)
/-- The stage-two entry of a partition frame; 0, which is invalid, where the table has none that can be read. -/
def State.s2entry (s : State) (part frame : Nat) : Word64 :=
  let c := (s.part part).cfg
  if s.s2inside part frame && s.s2reads part frame then BitVec.ofNat 64 (ofBytesLE (s.mem.readN (c.s2base + 8 * frame) 8)) else 0
/-- The device frame of a partition frame, when its entry is a valid translation (R65). -/
def State.s2 (s : State) (part frame : Nat) : Option Nat :=
  let e := s.s2entry part frame
  if bit e 63 && fldN e 32 31 = 0 && s.frameOk (fldN e 0 32) then some (fldN e 0 32) else none
/-- A deferred entry (R384). -/
def State.s2deferred (s : State) (part frame : Nat) : Bool :=
  let e := s.s2entry part frame
  s.s2inside part frame && s.s2reads part frame && !bit e 63 && fldN e 32 31 = 0 && s.frameOk (fldN e 0 32)
/-- Firmware makes a deferred entry valid (R384). -/
def State.validate (s : State) (part frame : Nat) : State :=
  if s.s2deferred part frame then
    { s with mem := s.mem.write ((s.part part).cfg.s2base + 8 * frame + 7) 0x80#8 }
  else s
/-- Firmware makes the deferred frames of a range valid (R300, R384). -/
def State.validateRange (s : State) (part addr bytes : Nat) : State :=
  let lo := addr / 65536
  (List.range ((addr + bytes - 1) / 65536 + 1 - lo)).foldl (fun t i => t.validate part (lo + i)) s
/-- The first deferred frame of a range of partition bytes (R384). -/
def State.firstDeferred (s : State) (part addr bytes : Nat) : Option Nat :=
  let lo := addr / 65536
  ((List.range ((addr + bytes - 1) / 65536 + 1 - lo)).map (lo + ·)).find? (s.s2deferred part)
/-- The device address of a partition byte address (R65). -/
def State.phys (s : State) (part addr : Nat) : Option Nat :=
  match s.s2 part (addr / 65536) with
  | some f => some (f * 65536 + addr % 65536)
  | none => none
/-- The aligned 64-bit word at a partition byte address, when its frame is mapped. -/
def State.readPart (s : State) (part addr : Nat) : Option Word64 :=
  match s.phys part addr with
  | some a => some (BitVec.ofNat 64 (ofBytesLE (s.mem.readN a 8)))
  | none => none
/-- Write a 64-bit word at a partition byte address. -/
def State.writePart (s : State) (part addr : Nat) (w : Word64) : State :=
  match s.phys part addr with
  | some a => { s with mem := s.mem.writeN a (bytesLE 8 w.toNat) }
  | none => s
/-- Bytes at consecutive partition addresses, each through its own frame; none when one of them is not mapped (R65). -/
def State.readBytes (s : State) (part addr : Nat) : Nat → Option (List Byte)
  | 0 => some []
  | n + 1 =>
    match s.phys part addr, s.readBytes part (addr + 1) n with
    | some a, some l => some (s.mem.readN a 1 ++ l)
    | _, _ => none
/-- Write bytes at consecutive partition addresses, each through its own frame. -/
def State.writeBytes (s : State) (part addr : Nat) : List Byte → State
  | [] => s
  | b :: l =>
    let s : State := match s.phys part addr with
      | some a => { s with mem := s.mem.writeN a [b] }
      | none => s
    State.writeBytes s part (addr + 1) l
/-- Words at consecutive addresses; none when one of them is not mapped. -/
def State.readParts (s : State) (part addr : Nat) : Nat → Option (List Word64)
  | 0 => some []
  | n + 1 =>
    match s.readPart part addr, s.readParts part (addr + 8) n with
    | some w, some r => some (w :: r)
    | _, _ => none
def State.writeParts (s : State) (part addr : Nat) : List Word64 → State
  | [] => s
  | w :: r => State.writeParts (s.writePart part addr w) part (addr + 8) r

/-! Issue, freezing, records (R30, R31, R330, R336, R361). -/

/-- The gang of a context. -/
def State.gang (s : State) (c : Ctx) : Option Gang := ((s.part c.place.part).gangs.find? fun g => g.1 = c.place.tree).map Prod.snd
def State.setGang (s : State) (part tree : Nat) (g : Gang) : State :=
  let p := s.part part
  s.setPart part { p with gangs := p.gangs.map fun e => if e.1 = tree then (tree, g) else e }
def State.gangAt (s : State) (part tree : Nat) : Option Gang := ((s.part part).gangs.find? fun e => e.1 = tree).map Prod.snd
/-- The context keys of a gang's members (R38). -/
def Gang.keys (g : Gang) : List Nat := g.cores.map fun c => Machine.ck c g.slot
/-- Change every member of a gang. -/
def State.mapKeys (s : State) (f : Ctx → Ctx) : List Nat → State
  | [] => s
  | k :: r => State.mapKeys (s.setCtx k (f (s.ctx k))) f r
/-- Change every core of a list. -/
def State.mapCores (s : State) (f : Nat → Core → Core) : List Nat → State
  | [] => s
  | c :: r => State.mapCores (s.setCore c (f c (s.core c))) f r
/-- A throttled context does not count as ready, in compute supersteps (R317). -/
def Ctx.dutyOk (c : Ctx) : Bool := c.place.phase.getLsbD 0 || !c.iss.throttled
def State.isReady (s : State) (c : Ctx) : Bool :=
  c.iss.placed && !c.iss.halted && c.iss.freeze.isNone && c.iss.blocked.isNone && c.iss.ready ≤ s.now && c.dutyOk
/-- The slots after a slot in rotation, that slot last (R31). -/
def rotation (last : Nat) : List Nat := [(last + 1) % 4, (last + 2) % 4, (last + 3) % 4, last % 4]
/-- Whether a knot release that concerns a core falls due within two cycles: it is announced, and the core is not gated (R32, R43). -/
def State.releaseSoon (s : State) (core : Nat) : Bool :=
  s.pending.any fun d => d.at_ ≤ s.now + 2 && match d.work with
    | .event (.knotRelease p t) => (s.gangAt p t).any fun g => g.knot.announced && g.cores.contains core
    | _ => false
/-- The selector's choice, when no context of the core issues: for the next cycle, or for this one in the cycle of a closing release (R31, R32, R44,
R45). A core with no ready context is gated, except between the announcement of a release and the release (R32, R43). -/
def State.select (s : State) (core : Nat) : State :=
  let c := s.core core
  if c.issuing.isSome || c.exchanging.isSome then s
  else
    match (rotation c.last).find? fun k => s.isReady (s.ctx (Machine.ck core k)) with
    | some k => s.setCore core { c with issuing := some k, gated := false, choose := some (if c.choose = some s.now then s.now else s.now + 1) }
    | none => s.setCore core { c with gated := !s.releaseSoon core, choose := none }
/-- The issuing context of a core stops; the selector chooses for the next cycle (R31). -/
def State.stops (s : State) (core slot : Nat) : State :=
  let c := s.core core
  if c.issuing = some slot then (s.setCore core { c with issuing := none, last := slot, choose := none }).select core else s

/-- Words 0-3 of an event record (R330). -/
def eventHead (c : Ctx) (core slot code sub bidx lane : Nat) (held def_ : Bool) (pc : Word64) (tick : Nat) : List Word64 :=
  [pack [(56, code), (48, sub), (45, bidx), (42, lane), (41, b2n held), (40, b2n def_), (28, slot), (16, core),
     (4, c.place.queue), (0, c.place.tree)],
   BitVec.ofNat 64 tick, pc, pack [(32, c.place.group.toNat), (0, c.place.phase.toNat)]]
/-- An event record: 16 words (R330). -/
def eventRecord (head : List Word64) (info aux : Word64) (bundle : List Word64) : List Word64 :=
  head ++ [info, aux, 0, 0] ++ (bundle ++ List.replicate 8 0).take 8
/-- Firmware's answer to an event, by its code and sub-code (R331, R337, R338, R384); in an exchange superstep it ends the group (R336, R365). A
deferred frame on which a fetch stopped is made valid with the retry (R397; log 4), whose third operand is the frame plus one. -/
def State.answer (s : State) (core slot code sub info : Nat) : State :=
  let place := (s.ctx (Machine.ck core slot)).place
  let part := place.part
  if place.phase.getLsbD 0 then s.sometime .terminate [core, slot]
  else if code = 1 && sub = 0 && s.s2deferred part (info / 65536) then s.sometime .retry [core, slot, info / 65536 + 1]
  else if code = 7 then
    match info with
    | 0x0000 => s.sometime .tsysNull [core, slot]
    | 0x0001 => s.sometime .communicatorCreate [core, slot]
    | 0x0002 => s.sometime .membershipChange [core, slot]
    | 0x0003 => s.sometime .communicatorDelete [core, slot]
    | 0x0010 => s.sometime .cycleCount [core, slot]
    | 0x0011 => s.sometime .overflowAreaQuery [core, slot]
    | _ => s.sometime .tsysNull [core, slot, info]
  else if code = 8 then s
  else if code = 10 then s
  else s.sometime .terminate [core, slot]
/-- A frozen member holds its gang's knot, and pre-emption with it (R336): it no longer counts as arrived, an announcement or a request
that has gone out lapses, and after an action the member arrives anew. -/
def State.unArrive (s : State) (core slot : Nat) : State :=
  let k := Machine.ck core slot
  let c := s.ctx k
  match if c.iss.arrived then s.gang c else none with
  | some g =>
    if g.ending.isSome then s
    else
      let own := (c.place.part, c.place.tree)
      let s := s.setCtx k { c with iss := { c.iss with arrived := false } }
      let knot : Knot :=
        { g.knot with arrived := g.knot.arrived.filter (· ≠ core), last := none, announced := false, request := none, grant := none, withheld := false }
      let s := s.setGang c.place.part c.place.tree { g with knot, saving := none }
      s.mapCores (fun _ h => { h with reserved := if h.reserved = some own then none else h.reserved }) g.cores
  | none => s
/-- Slots of a core above a slot whose contexts have frozen in this cycle: their records come after this one (R336). -/
def State.frozenAbove (s : State) (core slot : Nat) : List Nat :=
  [1, 2, 3].filter fun k => slot < k && (s.ctx (Machine.ck core k)).iss.freeze.any fun f => f.since = s.now
/-- Put a record into a list, newest first, behind n records that satisfy `hit`. -/
def putBehind (r : List Word64) (hit : List Word64 → Bool) : Nat → List (List Word64) → List (List Word64)
  | 0, l => r :: l
  | _, [] => [r]
  | n + 1, x :: l => x :: putBehind r hit (if hit x then n else n + 1) l
/-- The control core's queue of event records with one more: in order of arrival, those of one core and cycle in ascending slot order (R336). -/
def State.queueRecord (s : State) (core slot : Nat) (r : List Word64) : List (List Word64) :=
  let l := (s.die (coreDie core)).events
  match s.frozenAbove core slot with
  | [] => l ++ [r]
  | ks => (putBehind r (fun x => fldN (x.getD 0 0) 16 12 = core && ks.contains (fldN (x.getD 0 0) 28 2)) ks.length l.reverse).reverse
/-- TAKING AN EVENT (R30, R330, R336): the context freezes before it issues anything more, its record goes to the control
core of its die, issue passes on, and firmware's answer is under way. -/
def State.takeEvent (s : State) (core slot code sub bidx lane : Nat) (held def_ : Bool) (pc : Word64) (tick : Nat)
    (info aux : Word64) (bundle : List Word64) (inGroup : Bool) : State :=
  let k := Machine.ck core slot
  let s := s.unArrive core slot
  let c := s.ctx k
  let r := eventRecord (eventHead c core slot code sub bidx lane held def_ pc tick) info aux bundle
  let l := s.queueRecord core slot r
  let s := s.setCtx k { c with iss := { c.iss with freeze := some ⟨code, sub, inGroup, s.now⟩ }, grp := none }
  let d := s.die (coreDie core)
  let s := s.setDie (coreDie core) { d with events := l }
  let s := if code = 8 && !c.place.phase.getLsbD 0 then
      let p := s.part c.place.part
      s.setPart c.place.part { p with ring := { p.ring with waiting := p.ring.waiting ++ [(r, some (core, slot))],
                                                             brkAt := max p.ring.brkAt (s.now + 1 + Config.duration s.fresh) } }
    else s
  (s.stops core slot).answer core slot code sub info.toNat

/-- Copy-channel beats stand still while a context is frozen (R203): move the free cycles by the time frozen. -/
def Ctx.resumeChans (c : Ctx) (now : Nat) : Ctx :=
  match c.iss.freeze with
  | some f => { c with chan := c.chan.map fun e => (e.1, if f.since < e.2.free then { e.2 with free := e.2.free + (now - f.since) } else e.2) }
  | none => c
/-- A context is no longer frozen on the BRK event whose record the host has, or is still to have: `ebrk` cannot name it any more (R315). -/
def EventRing.forget (e : EventRing) (core slot : Nat) : EventRing :=
  { e with brks := e.brks.filter fun b => b.2 ≠ (core, slot)
           waiting := e.waiting.map fun w => if w.2 = some (core, slot) then (w.1, none) else w }
/-- RETURN FROM AN EVENT (R336): the context is no longer frozen and is ready; retry enters the group at pc again,
continue goes on where pc already stands after the group. -/
def State.resume (s : State) (core slot : Nat) : State :=
  let k := Machine.ck core slot
  let c := (s.ctx k).resumeChans s.now
  let p := s.part c.place.part
  let s := s.setPart c.place.part { p with ring := p.ring.forget core slot }
  s.setCtx k { c with iss := { c.iss with freeze := none, ready := s.now + 1, blocked := if c.iss.knot then some .knotWait else none } }

/-- A fabric record (R361), kept in the reporting die's log of 256 and copied to the host event ring. -/
def State.fabricRecord (s : State) (die part code sub core comm queue tree chip : Nat) (info aux : Word64) : State :=
  let d := s.die die
  let w := [pack [(56, code), (48, sub), (46, part), (44, die), (32, core), (26, comm), (22, queue), (18, tree), (0, chip)],
    info, aux, BitVec.ofNat 64 s.now, 0, 0, 0, 0]
  let log := if d.fabric.length < 256 then d.fabric ++ [w] else d.fabric.drop 1 ++ [w]
  s.setDie die { d with fabric := log }

/-- Bits 47:0 counters (R295, R315). -/
def inc48 (w : Word64) : Word64 := BitVec.ofNat 64 ((w.toNat + 1) % 2 ^ 48)
def sub48 (a b : Word64) : Nat := (a.toNat % 2 ^ 48 + 2 ^ 48 - b.toNat % 2 ^ 48) % 2 ^ 48
/-- The partition byte address of the next entry of a host event ring (R315). -/
def EventRing.entryAddr (e : EventRing) : Nat := e.ebase.toNat + 256 * (e.etail.toNat % 2 ^ fldN e.ecfg 0 5)
/-- Whether firmware can write an entry to a partition's host event ring now: it is enabled, has room, and its frame is valid, or deferred, which
firmware then makes valid (R315, R384; log 68). -/
def State.ringTakes (s : State) (part : Nat) : Bool :=
  let e := (s.part part).ring
  let f := e.entryAddr / 65536
  bit e.ecfg 63 && sub48 e.etail e.ehead < 2 ^ fldN e.ecfg 0 5 && ((s.s2 part f).isSome || s.s2deferred part f)
/-- Firmware writes an entry to the host event ring, or drops and counts it (R315). The entry holds no other record any more. -/
def State.putEvent (s : State) (part kind : Nat) (r : List Word64) : State :=
  let p := s.part part
  let e := p.ring
  if s.ringTakes part then
    let s := (s.validate part (e.entryAddr / 65536)).writeParts part e.entryAddr ((pack [(0, kind), (2, p.cfg.first)] :: 0 :: r ++ List.replicate 30 0).take 32)
    let p := s.part part
    let kept := p.ring.brks.filter fun b => b.1 % 2 ^ fldN e.ecfg 0 5 ≠ e.etail.toNat % 2 ^ fldN e.ecfg 0 5
    s.setPart part { p with ring := { p.ring with etail := inc48 p.ring.etail, brks := kept } }
  else s.setPart part { p with ring := { e with elost := inc48 e.elost } }
/-- A record is to be copied to the host event ring: firmware does so after a free duration, in the order of the records (R347, R361, R397; log 4). -/
def State.hostEvent (s : State) (part kind : Nat) (r : List Word64) : State :=
  let p := s.part part
  let at_ := max ((p.ring.copies.getLast?.map Prod.fst).getD 0) (s.now + 1 + Config.duration s.fresh)
  (s.setPart part { p with ring := { p.ring with copies := p.ring.copies ++ [(at_, kind, r)] } }).bump
/-- Firmware makes the first n of the copies whose cycle has come. -/
def State.copyEvents (s : State) (part : Nat) : Nat → State
  | 0 => s
  | n + 1 =>
    let p := s.part part
    match p.ring.copies with
    | [] => s
    | (at_, kind, r) :: rest =>
      if at_ ≤ s.now then State.copyEvents ((s.setPart part { p with ring := { p.ring with copies := rest } }).putEvent part kind r) part n else s
/-- The partition that holds a die. -/
def State.partOf (s : State) (die : Nat) : Option Nat := [0, 1, 2, 3].find? fun (p : Nat) => (s.part p).cfg.dies.contains die
/-- A fabric record that concerns no partition reaches the host event ring of the one that holds the reporting die, if any (R361; log 70). -/
def State.dieEvent (s : State) (die code sub core chip : Nat) (info aux : Word64) : State :=
  let s := s.fabricRecord die 0 code sub core 0 0 0 chip info aux
  match s.partOf die with
  | some p => s.hostEvent p 2 ((s.die die).fabric.getLastD [])
  | none => s
/-- A fabric record that concerns a partition reaches its host event ring (R361). -/
def State.fabricEvent (s : State) (die part code sub core comm queue tree chip : Nat) (info aux : Word64) : State :=
  let s := s.fabricRecord die part code sub core comm queue tree chip info aux
  s.hostEvent part 2 ((s.die die).fabric.getLastD [])

/-- A message-signalled interrupt (R309, R338). -/
def State.msix (s : State) (v : Nat) : State := { s with control := { s.control with msix := s.control.msix ++ [v] } }

/-- A group's refusal status, kept from the earliest record, by its number (R347). -/
def State.refusalStatus (s : State) (part queue tree : Nat) (rec st : Nat) : State :=
  let p := s.part part
  let q := Sp.get Queue.reset p.queues queue
  let earlier (r : Option (Nat × Nat)) : Bool := match r with
    | some x => rec < x.1
    | none => true
  let mark (g : Grp) : Grp := if g.tree = tree && g.done.isNone && earlier g.refusal then { g with refusal := some (rec, st) } else g
  s.setPart part { p with queues := Sp.put Queue.reset p.queues queue { q with grps := q.grps.map mark } }

end Sys2Proof.Machine
end

