-- ==== Sys2Proof/Machine/Operands.lean ====
section
/-! DEFINITION. Operand forms: second sources, address operands, lane masks and vector sources (R129, R146-R149, R153,
R167, R204). -/
namespace Sys2Proof

/-- The element type of a common-layout instruction, its lane width and lane count (R146). -/
def VecOp.fmt (o : VecOp) : Fmt := Fmt.get o.ty.toNat
def VecOp.w (o : VecOp) : Nat := o.fmt.width
def VecOp.n (o : VecOp) : Nat := 1024 / o.w
/-- Latency by class: F or I (R149). -/
def VecOp.latFI (o : VecOp) : Nat := if o.fmt.isFloat then 4 else 2

namespace Machine

def State.s (s : State) (n : BitVec 6) : Word64 := s.me.regs.readS n.toNat
def State.p (s : State) (n : BitVec 4) : Bool := s.me.regs.readP n.toNat
def State.k (s : State) (n : BitVec 3) : BitVec 128 := s.me.regs.readK n.toNat
def State.v (s : State) (n : BitVec 10) : Row := s.me.regs.readV n.toNat
def State.a (s : State) (n : BitVec 4) : Word32 := s.me.regs.readA n.toNat

/-- Second source of the alu layout: register b or the sign-extended immediate (R129). -/
def State.aluY (s : State) (o : AluOp) : Word64 := if o.i then o.imm.signExtend 64 else s.s o.b
/-- Second source of the sel layout. -/
def State.selY (s : State) (o : SelOp) : Word64 := if o.i then o.imm.signExtend 64 else s.s o.b

/-- Condition codes of `scmp.cc` (R134). -/
def condS (code : Nat) (x y : Word64) : Bool :=
  match code with
  | 0 => x == y
  | 1 => x != y
  | 2 => x.slt y
  | 3 => x.sle y
  | 4 => y.slt x
  | 5 => y.sle x
  | 6 => x.ult y
  | 7 => x.ule y
  | 8 => y.ult x
  | _ => y.ule x

/-- Row of a row operand (R167): a[an] + off, or a[an] when post-modified. -/
def rowAddr (an : Word32) (pm : Bool) (off : Int) : Nat := if pm then an.toNat else (an + BitVec.ofInt 32 off).toNat
def State.rowOf (s : State) (r : RowRef) : Nat := rowAddr (s.a r.an) r.pm r.off.toInt
/-- The post-modification of an address register lands after one tick (R117, R167). -/
def State.postMod (s : State) (an : BitVec 4) (pm : Bool) (off : Int) : State :=
  if pm then s.resultW 1 (.a an.toNat) (BitVec.setWidth 64 (s.a an + BitVec.ofInt 32 off)) else s
def State.postRow (s : State) (r : RowRef) : State := s.postMod r.an r.pm r.off.toInt

/-- The mask bit that governs lane i of n lanes (R146). -/
def mbit (n i : Nat) : Nat := if n ≤ 128 then i else i / 2
/-- Whether lane i of n is active (R148). -/
def active (ke : Bool) (k : BitVec 128) (n i : Nat) : Bool := !ke || k.getLsbD (mbit n i)

/-- Lanes computed one by one: value, bits written, flags. -/
structure Lanes where
  val : Nat
  mask : Nat
  flags : BitVec 6
  deriving DecidableEq, Repr

/-- n lanes of w bits from lane i upward; lane i is written when f answers a value (R148). -/
def mapLanes (w : Nat) (f : Nat → Option (Nat × FFlags)) : Nat → Nat → Lanes
  | 0, _ => ⟨0, 0, 0⟩
  | n + 1, i =>
    let r := mapLanes w f n (i + 1)
    match f i with
    | some (x, fl) => ⟨x % 2 ^ w + r.val * 2 ^ w, (2 ^ w - 1) + r.mask * 2 ^ w, fl ||| r.flags⟩
    | none => ⟨r.val * 2 ^ w, r.mask * 2 ^ w, r.flags⟩

/-- A per-lane operation over all lanes of a type under the mask (R148): value, mask of written bits, flags. -/
def laneOp (f : Fmt) (ke : Bool) (k : BitVec 128) (g : Nat → Nat × FFlags) : Lanes :=
  let n := 1024 / f.width
  mapLanes f.width (fun i => if active ke k n i then some (g i) else none) n 0

/-- Land lanes in a vector destination (R114, R148). -/
def State.resultL (s : State) (name : BitVec 10) (lat : Nat) (r : Lanes) : State :=
  s.resultV name.toNat lat (BitVec.ofNat 1024 r.val) (BitVec.ofNat 1024 r.mask) r.flags

/-- A shift amount of a vector lane (R153): lane i of b, or the immediate. -/
def shiftAmount (s : State) (o : VecOp) (w i : Nat) : Nat :=
  if o.x.getLsbD 0 then o.c.toNat else laneN (s.v o.b) w i

/-- Scale word of element i of n (R156): 32-bit lane j of b. -/
def scaleWord (b : Row) (bw : Bool) (n i : Nat) : Nat := laneN b 32 (if bw then 0 else i * 32 / n)
/-- FP16 scale and zero point of a scale word (R156, R183). -/
def scaleOf (w : Nat) : Num := decodeNum .f16 (w % 2 ^ 16)
def zeroOf (w : Nat) : Int := signed 8 (w >>> 16)

end Machine
end Sys2Proof
end

