-- ==== Sys2Proof/Machine/Faults.lean ====
section
/-! DEFINITION. Fault records of engines and layout units (R340-R342, R345-R347). -/
namespace Sys2Proof.Machine
open Sys2Proof

/-- The eight words of a fault record (R341). -/
def faultWords (gen code sub count : Nat) (w : Who) (handle lu tile : Nat) (info aux entry : Word64) : List Word64 :=
  let own (n : Nat) : Nat := if w.unit < 3 then n else 0
  [pack [(56, code), (48, sub), (32, gen), (24, count), (22, own w.slot), (10, own w.core), (8, if w.unit = 0 then w.ch else 0), (4, w.unit)],
   pack [(24, handle), (18, lu), (4, w.queue), (0, w.tree)], BitVec.ofNat 64 tile, info, aux, BitVec.ofNat 64 (own w.tick), entry,
   BitVec.ofNat 64 (if w.unit = 6 then w.chip else 0)]
/-- One more access joins a record (R342). -/
def joinWords : List Word64 → List Word64
  | w :: r => BitVec.ofNat 64 (w.toNat + (if fldN w 24 8 < 255 then 2 ^ 24 else 0)) :: r
  | [] => []
/-- The records that a new parked fault may join: same code, sub, handle and tile, still unresolved (R342). -/
def joins (code sub handle tile : Nat) (f : FaultRec) : Bool :=
  f.parked && fldN (f.words.getD 0 0) 48 16 = code * 256 + sub && fldN (f.words.getD 1 0) 24 40 = handle &&
    f.words.getD 2 0 == BitVec.ofNat 64 tile
/-- Make a fault record at a die (R340-R342, R347). A parked access joins or makes a record, or stays without one when the
buffer is full; a refusal makes its own, which waits for room while the buffer is full, and which firmware copies to the host event ring and,
for units 0 to 2, to the group's completion status. Answers the number of the record that holds a parked access, 0 for none. -/
def State.recordFault (s : State) (die code sub : Nat) (w : Who) (handle lu tile : Nat) (info aux entry : Word64)
    (parked : Bool) (keep : List Nat) (host : List (Instr × List Nat)) (frame : Nat) : State × Nat :=
  let d := s.die die
  let r := faultWords (s.part w.part).gen.toNat code sub 1 w handle lu tile info aux entry
  if parked then
    match d.faults.find? (joins code sub handle tile) with
    | some f =>
      let put (g : FaultRec) : FaultRec := if g.id = f.id then { g with words := joinWords g.words, keep := g.keep ++ keep, host := g.host ++ host } else g
      (s.setDie die { d with faults := d.faults.map put }, f.id)
    | none =>
      if d.faults.length < 1024 then
        let id := s.fresh
        let s := s.setDie die { d with faults := d.faults ++ [⟨id, w.part, r, true, keep, host, frame⟩] }
        (s.bump.sometime .faultResolve [die, id], id)
      else (s, 0)
  else
    let s := s.hostEvent w.part 1 r
    let s := if w.unit < 3 then s.refusalStatus w.part w.queue w.tree s.fresh (0x80 + code) else s
    let d := s.die die
    let f : FaultRec := ⟨s.fresh, w.part, r, false, [], [], 0⟩
    if d.faults.length < 1024 then
      ((s.setDie die { d with faults := d.faults ++ [f] }).bump.sometime .faultResolve [die, f.id], 0)
    else ((s.setDie die { d with backlog := d.backlog ++ [f] }).bump, 0)
/-- A record is freed; the oldest refusal record that waits for room takes its place (R342). -/
def State.freeFault (s : State) (die id : Nat) : State :=
  let d := s.die die
  let l := d.faults.filter fun g => g.id ≠ id
  match d.backlog with
  | f :: r => if l.length < 1024 then (s.setDie die { d with faults := l ++ [f], backlog := r }).sometime .faultResolve [die, f.id]
      else s.setDie die { d with faults := l }
  | [] => s.setDie die { d with faults := l }
/-- An access of the host completes: a read with its bytes (R314). -/
def State.hostCompletes (s : State) (part addr : Nat) (write : Bool) (data : List Byte) (poisoned : Bool) : State :=
  { s with control := { s.control with hostDone := s.control.hostDone ++ [⟨part, addr, write, data, poisoned⟩] } }
/-- The issuer of an engine access of a context. -/
def Ctx.who (c : Ctx) (unit core slot ch tick : Nat) : Who :=
  { unit, core, slot, ch, part := c.place.part, queue := c.place.queue, tree := c.place.tree, tick, chip := 0 }
/-- The `win` value of a context (R52). -/
def Ctx.win (c : Ctx) : Word64 := pack [(32, c.place.limit), (0, c.place.base)]
/-- Whether a row lies in the window (R52). -/
def Ctx.inWindow (c : Ctx) (row : Nat) : Bool := c.place.base ≤ row && row ≤ c.place.limit

end Sys2Proof.Machine
end

