-- ==== Sys2Proof/Machine/Tensor.lean ====
section
/-! DEFINITION. Tensor descriptors, box records, element lists (R60-R63, R205, R206, R209, R211, R349). -/
namespace Sys2Proof.Machine
open Sys2Proof

abbrev Desc := BitVec 512
abbrev Box := BitVec 512

/-! Descriptor fields (R61); bit 64 w + b is bit b of word w. -/

def dHandle (d : Desc) : Nat := fldN d 24 40
def dHome (d : Desc) : Nat := fldN d 46 18
def dLocal (d : Desc) : Nat := fldN d 24 22
def dRank (d : Desc) : Nat := fldN d 21 3
def dEfmt (d : Desc) : Nat := fldN d 17 4
def dFmt (d : Desc) : Fmt := Fmt.get (dEfmt d)
def dRole (d : Desc) : Nat := fldN d 15 2
def dCmp (d : Desc) : Bool := bit d 14
def dRepl (d : Desc) : Bool := bit d 13
def dSv (d : Desc) : Bool := bit d 12
def dSpace (d : Desc) : Nat := fldN d 10 2
def dDim (d : Desc) (k : Nat) : Nat := fldN d (64 + 32 * k) 32
def dOwner (d : Desc) : Nat := fldN d 304 6
def dOrder (d : Desc) (j : Nat) : Nat := fldN d (286 + 3 * j) 3
def dTile (d : Desc) (k : Nat) : Nat := fldN d (256 + 5 * k) 5
/-- Byte address of the tile table (R61). -/
def dTtab (d : Desc) : Nat := fldN d 323 41 * 8
def dCursor (d : Desc) : Nat := fldN d 384 48
def dW (d : Desc) : Int := signed 8 (fldN d 384 8)
/-- Role codes. -/
def roleI : Nat := 0
def roleS : Nat := 1
def roleA : Nat := 2
def roleO : Nat := 3
/-- Elements of a tile, and tiles along a dimension (R60, R62). -/
def dElems (d : Desc) : Nat := 2 ^ sumN ((List.range 6).map (dTile d))
def dTilesAlong (d : Desc) (k : Nat) : Nat := (dDim d k + 2 ^ dTile d k - 1) / 2 ^ dTile d k
def dTiles (d : Desc) : Nat := (List.range 6).foldl (fun n k => n * dTilesAlong d k) 1

/-- Tile number and offset in the tile of coordinates, over order[j] for the j given (R62). -/
def locateFrom (d : Desc) (c : List Nat) : List Nat → Nat → Nat → Nat × Nat
  | [], _, _ => (0, 0)
  | j :: r, st, se =>
    let k := dOrder d j
    let e := 2 ^ dTile d k
    let x := c.getD k 0
    let (t, i) := locateFrom d c r (st * dTilesAlong d k) (se * e)
    (x / e * st + t, x % e * se + i)
def locate (d : Desc) (c : List Nat) : Nat × Nat := locateFrom d c [0, 1, 2, 3, 4, 5] 1 1
/-- The layout unit of a tile (R63). -/
def luOf (chip : Nat) (d : Desc) (tile : Nat) : Nat :=
  if dHome d ≠ chip then 41
  else match dSpace d with
    | 0 => (dLocal d + tile) % 16
    | 1 => 16 + (dLocal d + tile) % 24
    | _ => 40
/-- The die whose control core keeps a layout unit's fault records (R16, R340). -/
def luDie (lu : Nat) : Nat := if lu < 16 then lu / 4 else if lu < 40 then (lu - 16) / 6 else if lu = 40 then 0 else 3
/-- Entry address of a tile (R62). -/
def entryAddr (d : Desc) (tile : Nat) : Nat := dTtab d + 8 * tile

/-! Checks of a descriptor (R349 subs 1 to 3). -/

/-- Each rule with the offset of its field, and whether it is broken. -/
def descRules (d : Desc) : List (Nat × Bool) :=
  let r := dRank d
  let order := (List.range 6).map (dOrder d)
  let fits := sumN ((List.range 6).map (dTile d)) + bitLen (dFmt d).width = 20
  let head : List (Nat × Bool) := [(0, fldN d 0 10 ≠ 0), (10, dSpace d = 3), (17, dEfmt d = 15), (21, r = 0 || r = 7)]
  let dims : List (Nat × Bool) := (List.range 6).map fun k => (64 + 32 * k, dDim d k = 0 || (r ≤ k && dDim d k ≠ 1))
  head ++ dims ++ [(256, (List.range 6).any (fun k => r ≤ k && dTile d k ≠ 0) || (!dSv d && dEfmt d ≠ 15 && !fits)),
      (286, !((List.range 6).all fun j => if j < r then order.getD j 7 < r && (order.take j).all (· ≠ order.getD j 7)
        else order.getD j 7 = j)),
      (310, fldN d 310 10 ≠ 0), (320, fldN d 320 3 ≠ 0), (364, fldN d 364 20 ≠ 0),
      (384, (dRole d = roleI || dRole d = roleO) && fldN d 384 48 ≠ 0), (392, dRole d = roleA && fldN d 392 40 ≠ 0),
      (432, fldN d 432 16 ≠ 0), (448, fldN d 448 64 ≠ 0)]
/-- The lowest offset whose rule is broken. -/
def firstBroken : List (Nat × Bool) → Option Nat
  | [] => none
  | (o, b) :: r => if b then some o else firstBroken r
/-- Sub 2: format and role disagree: the offset named. -/
def descRole (d : Desc) : Option Nat :=
  if (dEfmt d = 14) != (dRole d = roleA) || (dRole d = roleA && dCmp d) then some 15
  else if dSv d && dEfmt d ≠ 0 && dEfmt d ≠ 2 then some 17 else none
/-- Whether a slot holds a descriptor under which a command has no data rows (R207: DESC sub 0 or 1). -/
def noRows (d : Option Desc) : Bool :=
  match d with
  | none => true
  | some d => (firstBroken (descRules d)).isSome

/-! Box records (R205). -/

def bOrigin (b : Box) (k : Nat) : Nat := fldN b (32 * k) 32
def bExtent (b : Box) (k : Nat) : Nat := if k < 4 then fldN b (192 + 16 * k) 16 else fldN b (256 + 16 * (k - 4)) 16
def bFill (b : Box) : Nat := fldN b 288 32
def bStep (b : Box) (k : Nat) : Nat := fldN b (320 + 8 * k) 8
def bIbase (b : Box) : Nat := fldN b 412 12
def bGdim (b : Box) : Nat := fldN b 408 3
def bLink (b : Box) (k : Nat) : Option Nat := if bit b (387 + 4 * k) then some (fldN b (384 + 4 * k) 3) else none
def bLinks (b : Box) : List Nat := (List.range 6).filterMap (bLink b)
/-- Sub 4: the lowest field of a box record that breaks R205. -/
def boxRules (b : Box) (d : Desc) (indexed : Bool) : List (Nat × Bool) :=
  [(368, fldN b 368 16 ≠ 0), (384, (bLinks b).any (5 < ·)), (408, dRank d ≤ bGdim b || (indexed && bGdim b = dOrder d 0)),
   (411, bit b 411), (424, fldN b 424 24 ≠ 0), (448, fldN b 448 64 ≠ 0)]
/-- The half of a row that holds a box record or descriptor. -/
def halfOf (r : Row) (h : Bool) : BitVec 512 := if h then r.extractLsb' 512 512 else r.extractLsb' 0 512

/-! Element lists (R206). -/

/-- Fastest dimension, rows per box row, box rows, data rows at width w. -/
def fastest (d : Desc) : Nat := dOrder d 0
def rowsPerBox (d : Desc) (b : Box) (w : Nat) : Nat := (bExtent b (fastest d) * w + 1023) / 1024
def boxRows (d : Desc) (b : Box) : Nat :=
  (List.range 6).foldl (fun n k => if k = fastest d then n else n * bExtent b k) 1
def boxElems (b : Box) : Nat := (List.range 6).foldl (fun n k => n * bExtent b k) 1
def dataRows (d : Desc) (b : Box) (w : Nat) : Nat := if boxElems b = 0 then 0 else boxRows d b * rowsPerBox d b w
/-- Data rows of a streamed read (R209). -/
def streamRows (b : Box) (w : Nat) : Nat := (boxElems b * w + 1023) / 1024
/-- Index vector of box row n over the dimensions order[1], order[2], ..., the first innermost. -/
def indexAt (d : Desc) (b : Box) : List Nat → Nat → Nat → Nat
  | [], _, _ => 0
  | j :: r, n, k =>
    let dim := dOrder d j
    let e := max 1 (bExtent b dim)
    if dim = k then n % e else indexAt d b r (n / e) k
def boxIndex (d : Desc) (b : Box) (n k : Nat) : Nat := indexAt d b [1, 2, 3, 4, 5] n k
/-- Base coordinate of dimension k in box row n; `li` the captured link offsets (R206). -/
def baseCoord (d : Desc) (b : Box) (li : List Int) (n k : Nat) : Nat :=
  wrap 32 (bOrigin b k + li.getD k 0 + (boxIndex d b n k * bStep b k : Nat))
/-- Coordinates of element j of box row n, with the gathered dimension's coordinate given. -/
def coordsAt (d : Desc) (b : Box) (li : List Int) (g : Option (Nat × Nat)) (n j : Nat) : List Nat :=
  (List.range 6).map fun k =>
    let x := match g with
      | some (gd, c) => if gd = k then c else baseCoord d b li n k
      | none => baseCoord d b li n k
    if k = fastest d then x + j * bStep b k else x
/-- The first dimension whose coordinate lies at or beyond it, with the coordinate (R345 EXTENT). -/
def outside (d : Desc) (c : List Nat) : Option (Nat × Nat) :=
  ((List.range 6).find? fun k => dDim d k ≤ c.getD k 0).map fun k => (k, c.getD k 0)
/-- Lanes of data row part r of a box row: from the first element, how many. -/
def rowSpan (d : Desc) (b : Box) (w r : Nat) : Nat × Nat :=
  let per := 1024 / w
  (r * per, min per (bExtent b (fastest d) - r * per))
/-- The tile that holds coordinate list c, as its tile coordinates: two tiles beyond the tensor may have one number (R62, R346). -/
def tileCoords (d : Desc) (c : List Nat) : List Nat := (List.range 6).map fun k => c.getD k 0 / 2 ^ dTile d k
/-- An element as an access carries it, where it lies: number and coordinates of its tile, an out-of-range coordinate. -/
structure Spot where
  tile : Nat
  coords : List Nat
  extent : Option (Nat × Nat)
  elem : Elem
  deriving DecidableEq, Repr
/-- Element j of part of a box row. -/
def elemAt (d : Desc) (b : Box) (li : List Int) (g : Option (Nat × Nat)) (n first j : Nat) : Spot :=
  let c := coordsAt d b li g n (first + j)
  let (t, i) := locate d c
  ⟨t, tileCoords d c, outside d c, ⟨j, i, n * bExtent b (fastest d) + first + j, 0⟩⟩
/-- Elements of a data row, in lane order. -/
def rowElems (d : Desc) (b : Box) (li : List Int) (g : Option (Nat × Nat)) (w n r : Nat) : List Spot :=
  let (first, cnt) := rowSpan d b w r
  (List.range cnt).map (elemAt d b li g n first)
/-- The coordinate along the slowest dimension of an element, from its tile number and its offset in the tile (R62): dimension, coordinate. -/
def slowest (d : Desc) (tile inner : Nat) : Nat × Nat :=
  let lower := (List.range (dRank d - 1)).map (dOrder d)
  let k := dOrder d (dRank d - 1)
  (k, tile / (lower.map (dTilesAlong d)).foldl (· * ·) 1 * 2 ^ dTile d k + inner / 2 ^ sumN (lower.map (dTile d)))
/-- The out-of-range coordinate of a stream index's element: one beyond the last tile lies beyond the slowest dimension (R345). -/
def beyond (d : Desc) (tile inner : Nat) : Option (Nat × Nat) := if dTiles d ≤ tile then some (slowest d tile inner) else none
/-- Elements of a data row of a streamed read: stream index cursor + position (R71, R209). -/
def streamElems (d : Desc) (b : Box) (w cursor row : Nat) : List Spot :=
  let per := 1024 / w
  let total := boxElems b
  (List.range (min per (total - row * per))).map fun j =>
    let m := row * per + j
    let t := (cursor + m) / dElems d
    let i := (cursor + m) % dElems d
    ⟨t, [t], beyond d t i, ⟨j, i, m, 0⟩⟩
/-- One tile piece. -/
structure Piece where
  tile : Nat
  coords : List Nat
  extent : Option (Nat × Nat)
  elems : List Elem
  deriving DecidableEq, Repr
/-- Add an element to the pieces of its row (R346). -/
def addElem : List Piece → Spot → List Piece
  | [], x => [⟨x.tile, x.coords, x.extent, [x.elem]⟩]
  | p :: r, x =>
    if p.coords = x.coords then { p with extent := p.extent <|> x.extent, elems := p.elems ++ [x.elem] } :: r else p :: addElem r x
def piecesOf (l : List Spot) : List Piece := l.foldl addElem []
/-- Width of the scratchpad elements of a command (R206, R210). -/
def cmdWidth (op : Instr) (d : Desc) : Nat :=
  match op with
  | .cpAcc o => if bit o.x 12 then 16 else 32
  | _ => (dFmt d).width
/-- Tiles that a box covers, each once, with an out-of-range coordinate (R212). -/
def boxTiles (d : Desc) (b : Box) (li : List Int) : List Piece :=
  if boxElems b = 0 then []
  else
    let at_ (k i : Nat) : Nat :=
      if k = fastest d then wrap 32 (bOrigin b k + li.getD k 0) + i * bStep b k else wrap 32 (bOrigin b k + li.getD k 0 + (i * bStep b k : Nat))
    let axis (k : Nat) : List Nat := ((List.range (bExtent b k)).map fun i => at_ k i / 2 ^ dTile d k).eraseDups
    let out (k t : Nat) : Option (Nat × Nat) :=
      (((List.range (bExtent b k)).map (at_ k)).find? fun x => x / 2 ^ dTile d k = t && dDim d k ≤ x).map fun x => (k, x)
    let vecs := (List.range 6).foldr (fun k acc => (axis k).flatMap fun t => acc.map fun v => t :: v) [[]]
    vecs.map fun v =>
      ⟨(locate d ((List.range 6).map fun k => v.getD k 0 * 2 ^ dTile d k)).1, v, (List.range 6).findSome? fun k => out k (v.getD k 0), [⟨0, 0, 0, 0⟩]⟩

/-! The range of a recast (R74, R215). -/

/-- Tile numbers over intervals of tile coordinates, ascending: the dimension stored fastest innermost (R62). -/
def tilesIn (d : Desc) (lo hi : Nat → Nat) : List Nat :=
  ([0, 1, 2, 3, 4, 5].foldl (fun (p : List Nat × Nat) j =>
    let k := dOrder d j
    (((List.range (hi k + 1 - lo k)).map (· + lo k)).flatMap fun t => p.1.map (· + t * p.2), p.2 * dTilesAlong d k)) ([0], 1)).1
/-- The tiles of a range (R74, R215): those that the box reaches, or all; from the cursor's tile on with `cur`. -/
def recastTiles (d : Desc) (b : Box) (o : RcastOp) (cursor : Nat) : List Nat :=
  let l := if o.all then tilesIn d (fun _ => 0) (fun k => dTilesAlong d k - 1)
    else if boxElems b = 0 then []
    else tilesIn d (fun k => bOrigin b k / 2 ^ dTile d k)
      (fun k => min (dTilesAlong d k - 1) ((bOrigin b k + bExtent b k - 1) / 2 ^ dTile d k))
  if o.cur then l.filter (cursor / dElems d ≤ ·) else l

end Sys2Proof.Machine
end

