-- ==== Sys2Proof/Machine/Codec.lean ====
section
/-! DEFINITION. The codec: stored blocks, region records, map entries, log writes (R78, R219-R223, R354). -/
namespace Sys2Proof.Machine
open Sys2Proof

def byteAt (l : List Byte) (i : Nat) : Nat := (l.getD i 0).toNat
/-- k bits at bit offset k i of a list of bytes. -/
def deltaAt (l : List Byte) (k i : Nat) : Nat := (ofBytesLE l >>> (k * i)) % 2 ^ k
/-- A byte-plane payload: the row and what follows it, or none when it breaks R221. -/
def planeRow (p : List Byte) : Option (List Byte × List Byte) :=
  let k := byteAt p 0 % 16
  if 8 < k || byteAt p 0 / 16 ≠ 0 || p.length < 66 + 8 * k then none
  else
    let base := byteAt p 1
    let deltas := (p.drop 2).take (8 * k)
    let lows := (p.drop (2 + 8 * k)).take 64
    let word (i : Nat) : List Byte := [lows.getD i 0, BitVec.ofNat 8 (base + deltaAt deltas k i)]
    some ((List.range 64).flatMap word, p.drop (66 + 8 * k))
/-- Rows from row i on, given the previous row and the payload left (R220, R221). -/
def decodeRows (header : Nat) : Nat → Nat → List Byte → List Byte → Option (List Byte)
  | 0, _, _, _ => some []
  | n + 1, i, prev, p =>
    let next : Option (List Byte × List Byte) := match (header >>> (2 * i)) % 4 with
      | 0 => some (List.replicate 128 0, p)
      | 1 => some (prev, p)
      | 2 => planeRow p
      | _ => if p.length < 128 then none else some (p.take 128, p.drop 128)
    match next with
    | none => none
    | some (row, q) =>
      match decodeRows header n (i + 1) row q with
      | some r => some (row ++ r)
      | none => none
/-- The 4,096 bytes of a stored block, or none when it breaks R220 or R221. -/
def decodeBlock (b : List Byte) : Option (List Byte) :=
  decodeRows (ofBytesLE (b.take 8)) 32 0 (List.replicate 128 0) (b.drop 8)
/-- The mode and payload of one row, canonically (R222). -/
def encodeRow (prev row : List Byte) : Nat × List Byte :=
  if row.all (· = 0) then (0, [])
  else if row = prev then (1, [])
  else
    let highs := (List.range 64).map fun i => byteAt row (2 * i + 1)
    let lows := (List.range 64).map fun i => row.getD (2 * i) 0
    let base := highs.foldl min 255
    let k := bitLen (highs.foldl (fun m h => max m (h - base)) 0)
    if k ≤ 7 then
      let field := (List.range 64).foldl (fun n i => n + (highs.getD i 0 - base) * 2 ^ (k * i)) 0
      (2, BitVec.ofNat 8 k :: BitVec.ofNat 8 base :: bytesLE (8 * k) field ++ lows)
    else (3, row)
/-- Header and payload of the rows from row i on. -/
def encodeRows : Nat → Nat → List Byte → List Byte → Nat × List Byte
  | 0, _, _, _ => (0, [])
  | n + 1, i, prev, l =>
    let row := l.take 128
    let (m, p) := encodeRow prev row
    let (h, q) := encodeRows n (i + 1) row (l.drop 128)
    (m * 2 ^ (2 * i) + h, p ++ q)
/-- The stored form of 4,096 bytes, padded to whole granules of 32 bytes (R220, R222). -/
def encodeBlock (l : List Byte) : List Byte :=
  let (h, p) := encodeRows 32 0 (List.replicate 128 0) l
  let b := bytesLE 8 h ++ p
  b ++ List.replicate ((32 - b.length % 32) % 32) 0

/-- What a codec operation meets: a result, a CODEC fault with its logical block 16 n + m and the map entry (R345, R354), or a partition frame that is not mapped
(a table page or a data frame). -/
inductive CodecRes (α : Type)
  | ok (a : α)
  | bad (sub block : Nat) (entry : Word64)
  | miss (table : Bool) (frame : Nat)
  deriving Repr

/-- A region record (R219): map address, first log frame, log frames, head, dead. -/
structure Region where
  at_ : Nat
  map : Nat
  lbase : Nat
  lframes : Nat
  head : Nat
  dead : Nat
  deriving DecidableEq, Repr
/-- Granules of the log. -/
def Region.size (r : Region) : Nat := r.lframes * 2048
/-- Read a region record, which lies 64 bytes before the tile table (R219, R354). -/
def State.region (s : State) (part : Nat) (d : Desc) : CodecRes Region :=
  let a := dTtab d - 64
  match s.readParts part a 8 with
  | none => .miss true (a / 65536)
  | some ws =>
    let w (i : Nat) : Word64 := ws.getD i 0
    let r : Region := { at_ := a, map := fldN (w 0) 0 44, lbase := fldN (w 1) 32 28, lframes := fldN (w 1) 0 32,
                        head := (w 2).toNat, dead := (w 3).toNat }
    if fldN (w 0) 44 20 ≠ 0 || fldN (w 1) 60 4 ≠ 0 || r.lframes = 0 || (ws.drop 4).any (· ≠ 0) ||
        2 ^ 44 < r.map + 128 * dTiles d then .bad 0 0 0
    else .ok r
/-- Partition address of a granule of the log, modulo its size. -/
def Region.granule (r : Region) (g : Nat) : Nat := r.lbase * 65536 + 32 * (g % r.size)
/-- Bytes of n granules from g; none with the frame that is not mapped. -/
def State.granules (s : State) (part : Nat) (r : Region) (g : Nat) : Nat → CodecRes (List Byte)
  | 0 => .ok []
  | n + 1 =>
    match s.phys part (r.granule g) with
    | none => .miss false (r.granule g / 65536)
    | some a =>
      match State.granules s part r (g + 1) n with
      | .ok l => .ok (s.mem.readN a 32 ++ l)
      | .bad b k e => .bad b k e
      | .miss t f => .miss t f
/-- Map entry of block m of tile n. -/
def State.mapEntry (s : State) (part : Nat) (r : Region) (tile m : Nat) : CodecRes Word64 :=
  match s.readPart part (r.map + 8 * (16 * tile + m)) with
  | some w => .ok w
  | none => .miss true ((r.map + 8 * (16 * tile + m)) / 65536)
/-- The logical contents of a block (R78, R219, R220, R354). -/
def State.blockOf (s : State) (part : Nat) (r : Region) (tile m : Nat) : CodecRes (List Byte) :=
  match s.mapEntry part r tile m with
  | .bad b k e => .bad b k e
  | .miss t f => .miss t f
  | .ok e =>
    let n := fldN e 48 8
    let g := fldN e 0 48
    if !bit e 63 then .ok (List.replicate 4096 0)
    else if n = 0 || 129 < n || r.size ≤ g then .bad 1 (16 * tile + m) e
    else match s.granules part r g n with
      | .bad b k x => .bad b k x
      | .miss t f => .miss t f
      | .ok l =>
        match decodeBlock l with
        | some b => .ok b
        | none => .bad 2 (16 * tile + m) e
/-- Whether a valid map entry of the region names one of n granules from g, over count entries from i (R354); a page of the map that is not mapped
is met first (R345, R384). -/
def State.named (s : State) (part : Nat) (r : Region) (g n : Nat) : Nat → Nat → CodecRes Bool
  | 0, _ => .ok false
  | c + 1, i =>
    match s.readPart part (r.map + 8 * i) with
    | some e =>
      if bit e 63 && (List.range n).any fun j => ((g + j) % r.size + r.size - fldN e 0 48 % r.size) % r.size < fldN e 48 8 then .ok true
      else State.named s part r g n c (i + 1)
    | none => .miss true ((r.map + 8 * i) / 65536)
/-- Write n granules' bytes from g. -/
def State.putGranules (s : State) (part : Nat) (r : Region) (g : Nat) : Nat → List Byte → State
  | 0, _ => s
  | n + 1, l =>
    match s.phys part (r.granule g) with
    | some a => State.putGranules { s with mem := s.mem.writeN a (l.take 32) } part r (g + 1) n (l.drop 32)
    | none => State.putGranules s part r (g + 1) n (l.drop 32)
/-- Append a block at head, advance head, count the old one dead, rewrite the map entry (R222, R354). -/
def State.writeBlock (s : State) (part : Nat) (d : Desc) (r : Region) (tile m : Nat) (b : List Byte) : CodecRes State :=
  match s.mapEntry part r tile m with
  | .bad x k e => .bad x k e
  | .miss t f => .miss t f
  | .ok e =>
    let l := encodeBlock b
    let n := l.length / 32
    let g := r.head % r.size
    match s.named part r g n (16 * dTiles d) 0 with
    | .bad x k y => .bad x k y
    | .miss t f => .miss t f
    | .ok true => .bad 3 (16 * tile + m) e
    | .ok false => match s.granules part r g n with
      | .miss t f => .miss t f
      | .bad x k y => .bad x k y
      | .ok _ =>
        let s := s.putGranules part r g n l
        let dead := if bit e 63 then r.dead + fldN e 48 8 else r.dead
        let s := s.writeParts part (r.at_ + 16) [BitVec.ofNat 64 ((g + n) % r.size), BitVec.ofNat 64 dead]
        .ok (s.writePart part (r.map + 8 * (16 * tile + m)) (pack [(63, 1), (48, n), (0, g)]))
/-- Replace the bits of an element in a block: bit offset within the block. -/
def setBits (b : List Byte) (off w v : Nat) : List Byte :=
  let i := off / 8
  let n := (w + 7) / 8
  let old := ofBytesLE ((b.drop i).take n)
  let m := (2 ^ w - 1) * 2 ^ (off % 8)
  let new := old - (old &&& m) + (v % 2 ^ w) * 2 ^ (off % 8)
  b.take i ++ bytesLE n new ++ b.drop (i + n)
def getBits (b : List Byte) (off w : Nat) : Nat := (ofBytesLE ((b.drop (off / 8)).take ((w + 7) / 8)) >>> (off % 8)) % 2 ^ w
/-- Read elements through the codec, each from its block. -/
def State.codecRead (s : State) (part : Nat) (r : Region) (tile w : Nat) : List Elem → CodecRes (List Elem)
  | [] => .ok []
  | e :: es =>
    match s.blockOf part r tile (e.inner * w / 32768) with
    | .bad b k x => .bad b k x
    | .miss t f => .miss t f
    | .ok b =>
      match State.codecRead s part r tile w es with
      | .ok l => .ok ({ e with val := getBits b (e.inner * w % 32768) w } :: l)
      | .bad b k x => .bad b k x
      | .miss t f => .miss t f
/-- The contents of a block into which a write merges its bytes: as it was when the codec read it for this write, or as it is (R222). -/
def State.blockFor (s : State) (part : Nat) (r : Region) (tile m : Nat) (stale : List (Nat × List Byte)) : CodecRes (List Byte) :=
  match stale.find? fun p => p.1 = m with
  | some p => .ok p.2
  | none => s.blockOf part r tile m
/-- Write the elements of each block in turn, blocks m from the list given (R222). -/
def State.codecWrite (s : State) (part : Nat) (d : Desc) (tile w : Nat) (es : List Elem) (stale : List (Nat × List Byte)) : List Nat → CodecRes State
  | [] => .ok s
  | m :: ms =>
    match s.region part d with
    | .bad b _ x => .bad b (16 * tile + m) x
    | .miss t f => .miss t f
    | .ok r =>
      match s.blockFor part r tile m stale with
      | .bad b k x => .bad b k x
      | .miss t f => .miss t f
      | .ok b =>
        let mine := es.filter fun e => e.inner * w / 32768 = m
        let b := mine.foldl (fun b e => setBits b (e.inner * w % 32768) w e.val) b
        match s.writeBlock part d r tile m b with
        | .ok s => State.codecWrite s part d tile w es stale ms
        | .bad x k y => .bad x k y
        | .miss t f => .miss t f
/-- The blocks of a tile that a write changes. -/
def blocksOf (w : Nat) (es : List Elem) : List Nat := (es.map fun e => e.inner * w / 32768).eraseDups
/-- The contents of blocks as the codec reads them for a write; those that it cannot read it reads again when it writes (R222). -/
def State.blocksNow (s : State) (part : Nat) (d : Desc) (tile : Nat) (ms : List Nat) : List (Nat × List Byte) :=
  match s.region part d with
  | .ok r => ms.filterMap fun m => match s.blockOf part r tile m with
    | .ok b => some (m, b)
    | _ => none
  | _ => []
/-- COLLECTOR: one live block of the region is copied to head, its map entry rewritten, and reclaimed granules, any number of
the dead ones, are subtracted from dead (R223; log 5). -/
def execCollector (part : Nat) (td : BitVec 512) (s : State) : Res :=
  let i := Config.index s.fresh % (16 * max 1 (dTiles td))
  let s' := { s with fresh := s.fresh + 2 }
  match s.region part td with
  | .ok r =>
    match s.mapEntry part r (i / 16) (i % 16), s.blockOf part r (i / 16) (i % 16) with
    | .ok e, .ok b =>
      if bit e 63 then
        match s'.writeBlock part td r (i / 16) (i % 16) b with
        | .ok t =>
          let dead := r.dead + fldN e 48 8
          .next (t.writePart part (r.at_ + 24) (BitVec.ofNat 64 (dead - Config.index (s.fresh + 1) % (dead + 1))))
        | _ => .next s'
      else .next s'
    | _, _ => .next s'
  | _ => .next s'

end Sys2Proof.Machine
end

