-- ==== Sys2Proof/Machine/Layout.lean ====
section
/-! DEFINITION. Layout units: translation, role rules, performing accesses, parking, completion of commands (R62-R72, R79,
R207, R217, R340-R350). -/
namespace Sys2Proof.Machine
open Sys2Proof

/-! Tile-table entries (R64). -/

def eV (e : Word64) : Bool := bit e 63
def eRole (e : Word64) : Nat := fldN e 61 2
def eRem (e : Word64) : Bool := bit e 60
def ePoison (e : Word64) : Bool := bit e 59
def eOwner (e : Word64) : Nat := fldN e 46 6
def eFrame (e : Word64) : Nat := fldN e 18 28
def eFloor (e : Word64) : Nat := fldN e 0 18
/-- A gang's identity as an owner field holds it (R61, R70). -/
def Who.gang (w : Who) : Nat := w.part * 16 + w.tree

/-- What a layout unit finds for an access: a frame, a fault to park or to refuse, or another chip. -/
inductive Verdict
  | ok (entry : Word64) (frame : Nat)
  | park (code sub : Nat) (info aux entry : Word64) (frame : Nat)
  | refuse (code sub : Nat) (info aux entry : Word64)
  | remote (entry : Word64)
  deriving DecidableEq, Repr

/-- Where the entry of a tile lies, by partition and address: in the tensor's table, or, of a tile of another home chip that has migrated to
this one, where firmware put it (R64, R80); none when this chip holds no entry of it. -/
def State.entryPlace (s : State) (part : Nat) (d : Desc) (tile : Nat) : Option (Nat × Nat) :=
  if dHome d = s.control.chip then some (part, entryAddr d tile)
  else (s.fabric.guests.find? fun g => g.handle = dHandle d && g.tile = tile).map fun g => (g.part, g.at_)
/-- Where an entry of this chip leads (R65, R219, R345): to its device frame, or to S2FAULT; a compressed tensor's entry names no frame. -/
def State.frameFor (s : State) (part : Nat) (d : Desc) (e : Word64) : Verdict :=
  if dCmp d then .ok e 0
  else match s.s2 part (eFrame e) with
    | some f => .ok e f
    | none => .park 0x12 0 (BitVec.ofNat 64 (eFrame e)) (BitVec.ofNat 64 (fldN (s.s2entry part (eFrame e)) 0 32)) e (eFrame e)
/-- Reading the entry of a tile that this chip holds (R64, R345, R352): the word, or what the read meets: S2FAULT for the table page, S1MISS. -/
def State.readEntry (s : State) (place : Nat × Nat) : Verdict :=
  match s.readPart place.1 place.2 with
  | none => .park 0x12 1 (BitVec.ofNat 64 (place.2 / 65536)) (BitVec.ofNat 64 (fldN (s.s2entry place.1 (place.2 / 65536)) 0 32)) 0 (place.2 / 65536)
  | some e => if eV e then .ok e 0 else .park 0x11 0 (BitVec.ofNat 64 place.2) 0 e 0
/-- Translation by the tables (R62-R65, R79, R345): S2FAULT for the table page, S1MISS, S2FAULT for the data frame. -/
def State.walk (s : State) (part : Nat) (d : Desc) (tile : Nat) : Verdict :=
  match s.entryPlace part d tile with
  | none => .remote 0
  | some place =>
    match s.readEntry place with
    | .ok e _ => if eRem e then .remote e else s.frameFor place.1 d e
    | v => v
/-- What a translation that a unit has kept gives: its device frame, unless that is fenced by now, or the frame that stage two names for its entry
when no access has needed one before (R66, R320). -/
def State.keptFrame (s : State) (c : Cached) (d : Desc) : Verdict :=
  match c.frame with
  | some f => if dCmp d then .ok c.entry 0 else if s.frameOk f then .ok c.entry f
      else .park 0x12 0 (BitVec.ofNat 64 (eFrame c.entry)) (BitVec.ofNat 64 f) c.entry (eFrame c.entry)
  | none => s.frameFor c.part d c.entry
/-- The cached translation of a tile at a unit, keyed by handle and tile number (R66). -/
def State.cached (s : State) (lu handle tile : Nat) : Option Cached :=
  s.fabric.cache.find? fun c => c.lu = lu && c.handle = handle && c.tile = tile
/-- The old translation of a command ahead of an invalidation's marker: one that the marker has left to it, or that of the oldest invalidation
whose marker has still to reach its context (R218). -/
def State.leftTo (s : State) (cmd handle tile : Nat) : Option Cached :=
  let mine (o : Cached) : Bool := o.handle = handle && o.tile = tile
  match s.cmds.find? fun c => c.id = cmd with
  | some c => (c.old.find? mine).or (s.fabric.unmaps.reverse.findSome? fun u => if u.due.contains (c.core, c.slot) then u.old.find? mine else none)
  | none => none
/-- Translation at a unit: the one that a marker left to the command (R218), or else the cached entry or the tables, whichever
the unit still holds (R66; log 5). -/
def State.translate (s : State) (cmd lu part : Nat) (d : Desc) (tile : Nat) : Verdict :=
  match s.leftTo cmd (dHandle d) tile, s.cached lu (dHandle d) tile with
  | some o, _ => s.keptFrame o d
  | none, some c => if s.chooses then s.keptFrame c d else s.walk part d tile
  | none, none => s.walk part d tile
def State.setCache (s : State) (l : List Cached) : State := { s with fabric := { s.fabric with cache := l } }
/-- Cache a translation; a full cache of 4,096 replaces one that the unit chooses (R66; log 5). -/
def State.cachePut (s : State) (lu part handle tile : Nat) (entry : Word64) (frame : Option Nat) : State :=
  let l := s.fabric.cache.filter fun c => !(c.lu = lu && c.handle = handle && c.tile = tile)
  let mine := l.filter fun c => c.lu = lu
  let l := if mine.length < 4096 then l
    else match mine[Config.index s.fresh % 4096]? with
      | some v => l.filter fun c => c ≠ v
      | none => l
  s.setCache (⟨lu, part, handle, tile, entry, frame⟩ :: l)
/-- A unit changes a stage-one entry: in the table, in every cached copy, and in every copy that a marker leaves to a command (R71, R218,
R350). -/
def State.editEntry (s : State) (part : Nat) (d : Desc) (tile : Nat) (f : Word64 → Word64) : State :=
  let upd (c : Cached) : Cached := if c.handle = dHandle d && c.tile = tile then { c with entry := f c.entry } else c
  let t : State := { s with cmds := s.cmds.map fun c => { c with old := c.old.map upd }, fabric := { s.fabric with
    cache := s.fabric.cache.map upd, unmaps := s.fabric.unmaps.map fun u => { u with old := u.old.map upd } } }
  match s.entryPlace part d tile with
  | some (p, a) => match s.readPart p a with
    | some e => t.writePart p a (f e)
    | none => t
  | none => t
/-- Advance a tile's floor: in the entry by which the access was judged, and in its copies (R71). -/
def State.advanceFloor (s : State) (part : Nat) (d : Desc) (tile : Nat) (e : Word64) (n : Nat) : State :=
  s.editEntry part d tile fun x => if x = e then setFld x 0 18 (eFloor x + n) else x
/-- Set the poison bit of a tile in role A, also where its entry is not valid (R346, R350, R351). -/
def State.poison (s : State) (part : Nat) (d : Desc) (tile : Nat) : State :=
  s.editEntry part d tile fun e => if eRole e = roleA then setFld e 59 1 1 else e

/-- POISON and ROLE (R348, R383): the first that applies to an access of a kind. A write to an A tile, which R69 does not permit, counts under
sub 2 (log 74). A read of an S tile names the run at its floor, that of
`cp.sl` too (R69; log 39). -/
def judge (d : Desc) (tile : Nat) (kind : AccKind) (gang : Nat) (elems : List Elem) (e : Word64) : Option (Nat × Nat × Word64 × Word64) :=
  let n (x : Nat) : Word64 := BitVec.ofNat 64 x
  let reads := kind == .read || kind == .stream || kind == .slRead
  let writes := kind == .write || kind == .add || kind == .slWrite
  let r := eRole e
  let low := (elems.filter fun x => x.inner < eFloor e).map Elem.inner
  let first := (elems.map Elem.inner).headD 0
  let run := elems.map Elem.inner == (List.range elems.length).map (eFloor e + ·)
  if ePoison e then some (0x1a, 0, 0, 0)
  else if dRole d ≠ r then some (0x13, 0, n r, n (dRole d))
  else if reads && r = roleA then some (0x13, 1, 0, 0)
  else if writes && (r = roleI || r = roleS || ((kind == .add) != (r = roleA))) then some (0x13, 2, n r, 0)
  else if r = roleO && eOwner e ≠ gang then some (0x13, 3, n (eOwner e), n gang)
  else if kind == .stream && first ≠ eFloor e || kind == .slRead && r = roleS && !run then some (0x13, 4, n (eFloor e), n (tile * dElems d + first))
  else if reads && r = roleI && !low.isEmpty then some (0x13, 4, n (eFloor e), n (low.foldl min (low.headD 0)))
  else if kind == .rep && (r ≠ roleI || !dRepl d) then some (0x13, 5, n r, n (b2n (dRepl d)))
  else none

/-- The invalidations that are not over: a marker has still to arrive or to be acknowledged (R218). -/
def State.setUnmaps (s : State) (l : List Unmap) : State :=
  { s with fabric := { s.fabric with unmaps := l.filter fun u => !(u.waits.isEmpty && u.due.isEmpty) } }
/-- Markers are acknowledged (R218). -/
def State.ackMarkers (s : State) (ids : List Nat) : State :=
  s.setUnmaps (s.fabric.unmaps.map fun u => { u with waits := u.waits.filter fun i => !ids.contains i })
/-- No marker reaches some contexts any more, which have no command left. -/
def State.dropDue (s : State) (gone : Nat × Nat → Bool) : State :=
  s.setUnmaps (s.fabric.unmaps.map fun u => { u with due := u.due.filter fun c => !gone c })

/-! Elements in a frame (R4, R62, R67, R68). -/

/-- Device address of the byte that holds a bit offset of a frame, and the shift in it. -/
def State.readElem (s : State) (frame off w : Nat) : Nat :=
  (ofBytesLE (s.mem.readN (frame * 65536 + off / 8) ((w + 7) / 8)) >>> (off % 8)) % 2 ^ w
/-- Write an element; a nibble write keeps the other nibble of its byte (R68). -/
def State.writeElem (s : State) (frame off w v : Nat) : State :=
  let a := frame * 65536 + off / 8
  let n := (w + 7) / 8
  let old := ofBytesLE (s.mem.readN a n)
  let m := (2 ^ w - 1) * 2 ^ (off % 8)
  { s with mem := s.mem.writeN a (bytesLE n (old - (old &&& m) + (v % 2 ^ w) * 2 ^ (off % 8))) }
def State.readElems (s : State) (frame w : Nat) (es : List Elem) : List Elem :=
  es.map fun e => { e with val := s.readElem frame (e.inner * w) w }
def State.writeElems (s : State) (frame w : Nat) (es : List Elem) : State :=
  es.foldl (fun s e => s.writeElem frame (e.inner * w) w e.val) s

/-- One contribution of `cp.acc` (R72, R350): the state, or the K128 sub-code. -/
def State.addElem (s : State) (frame : Nat) (W : Int) (f : Fmt) (e : Elem) : State ⊕ Nat :=
  match k128Units W (decodeNum f e.val) with
  | none => .inr 1
  | some u =>
    let n := signed 128 (s.readElem frame (e.inner * 128) 128) + u
    if n ≤ -(2 ^ 127 : Int) || (2 ^ 127 - 1 : Int) < n then .inr 0
    else .inl (s.writeElem frame (e.inner * 128) 128 (wrap 128 n))
/-- The adds of a piece in turn; refused elements with their sub-code. -/
def State.addElems (s : State) (frame : Nat) (W : Int) (f : Fmt) : List Elem → State × List (Nat × Elem)
  | [] => (s, [])
  | e :: r =>
    match s.addElem frame W f e with
    | .inl s => State.addElems s frame W f r
    | .inr sub => let (s, l) := State.addElems s frame W f r; (s, (sub, e) :: l)

/-! Completion of accesses, rows and commands (R207, R217, R346). -/

def State.cmd (s : State) (id : Nat) : Option Cmd := s.cmds.find? fun c => c.id = id
def State.setCmd (s : State) (c : Cmd) : State := { s with cmds := s.cmds.map fun d => if d.id = c.id then c else d }
/-- Target role, whether the target owner counts, of a recast command. -/
def Cmd.recast (c : Cmd) : Option RcastOp :=
  match c.op with
  | .rcast o => some o
  | _ => none
/-- Commands whose completion their own engine reports. -/
def engineCmd : Instr → Bool
  | .rcast _ => true
  | .plQ _ => true
  | .clRun _ => true
  | .clArm _ => true
  | .mlr _ => true
  | .cpXf _ => true
  | _ => false
/-- A command is complete (R217): it leaves the list, and no guard of it stays. -/
def State.cmdDone (s : State) (c : Cmd) : State :=
  let h := s.core c.core
  let s := s.setCore c.core { h with guards := h.guards.filter fun g => g.cause ≠ c.id }
  { s with cmds := s.cmds.filter fun d => d.id ≠ c.id }
/-- Complete a command once all of it is performed. -/
def State.cmdCheck (s : State) (id : Nat) : State :=
  match s.cmd id with
  | some c =>
    if !engineCmd c.op && c.beats ≤ c.sent && c.open_.isEmpty && c.written.length = c.dest.length then s.cmdDone c else s
  | none => s
/-- The write of destination row j is under way once no piece of it is outstanding. -/
def State.rowCheck (s : State) (id j : Nat) : State :=
  match s.cmd id with
  | some c =>
    if s.accesses.any (fun a => a.cmd = id && a.row = j && a.kind != .slWrite) || c.dest.length ≤ j then s
    else s.sometime (.copyRowWrite id j) []
  | none => s
/-- Put values in lanes of width w of a row. -/
def putLanes (w : Nat) (es : List Elem) (r : Row) : Row :=
  es.foldl (fun r e => blend r (BitVec.ofNat 1024 ((e.val % 2 ^ w) * 2 ^ (w * e.lane))) (maskAt (w * e.lane) w)) r
def Cmd.row (c : Cmd) (j : Nat) : Row := ((c.got.find? fun p => p.1 = j).map Prod.snd).getD 0
def Cmd.setRow (c : Cmd) (j : Nat) (r : Row) : Cmd := { c with got := (j, r) :: c.got.filter fun p => p.1 ≠ j }
/-- Elements of `cp.sl`'s destination for source elements, by traversal index (R212). -/
def slTargets (c : Cmd) (es : List Elem) : List Spot :=
  match c.td2 with
  | none => []
  | some d =>
    let e := max 1 (bExtent c.box2 (fastest d))
    es.map fun x =>
      let y := elemAt d c.box2 (c.li.drop 6) none (x.idx / e) 0 (x.idx % e)
      { y with elem := { y.elem with idx := x.idx, val := x.val } }
/-- Send tile pieces of a command as accesses (R62, R63, R346). -/
def State.sendPieces (s : State) (c : Cmd) (d : Desc) (row : Nat) (kind : AccKind) (who : Who) : List Piece → State
  | [] => s
  | p :: r =>
    let a : Access := { id := s.fresh, cmd := c.id, row, kind, who, td := d, tile := p.tile, lu := luOf s.control.chip d p.tile,
                        elems := p.elems, extent := p.extent, parked := none, accepted := false, replayed := false, sentAt := none, hops := 0, stale := [] }
    let put (e : Cmd) : Cmd := if e.id = c.id then { e with open_ := a.id :: e.open_ } else e
    let s : State := ({ s with accesses := s.accesses ++ [a], cmds := s.cmds.map put } : State).travels
    State.sendPieces (s.bump.sometime (.luAccess a.id) []) c d row kind who r
/-- An access is performed, with the elements it read, or refused, and the reply sets out (R207, R346, R369). -/
def State.accDone (s : State) (a : Access) (ok : Bool) (es : List Elem) : State :=
  let s : State := ({ s with accesses := s.accesses.filter fun b => b.id ≠ a.id } : State).travels
  match s.cmd a.cmd with
  | none => s
  | some c =>
    let c := { c with open_ := c.open_.filter fun i => i ≠ a.id }
    let w := (dFmt a.td).width
    match a.kind with
    | .read | .stream =>
      let c := if ok then c.setRow a.row (putLanes w es (c.row a.row)) else { c with bad := a.row :: c.bad }
      (s.setCmd c).rowCheck c.id a.row
    | .slRead =>
      let s := s.setCmd c
      let s := if ok then
          match c.td2 with
          | some d => s.sendPieces c d a.row .slWrite a.who (piecesOf (slTargets c es))
          | none => s
        else s
      s.cmdCheck c.id
    | _ => (s.setCmd c).cmdCheck c.id
/-- Replace an access in the list. -/
def State.setAccess (s : State) (a : Access) : State := { s with accesses := s.accesses.map fun b => if b.id = a.id then a else b }
/-- Room for records in a die's fault buffer (R342). -/
def State.faultRoom (s : State) (die : Nat) : Nat := 1024 - (s.die die).faults.length
/-- An access that faults while the buffer is full stays parked without a record, and is offered again (R342). -/
def State.accOffer (s : State) (a : Access) : State := (s.setAccess { a with parked := some 0 }).later 1 (.luAccess a.id) []
/-- Refuse an access with its record (R340, R346, R347), once the buffer has room for it (R342); an add in role A poisons its tile. -/
def State.accRefuse (s : State) (a : Access) (code sub : Nat) (info aux entry : Word64) : State :=
  if s.faultRoom (luDie a.lu) = 0 then s.accOffer a
  else
  let s := (s.recordFault (luDie a.lu) code sub a.who (dHandle a.td) a.lu a.tile info aux entry false [] [] 0).1
  let s := if a.kind == .add && code ≠ 0x14 then s.poison a.who.part a.td a.tile else s
  s.accDone a false []
/-- Park an access (R340, R342): under a record, or without one while the buffer is full. -/
def State.accPark (s : State) (a : Access) (code sub : Nat) (info aux entry : Word64) (frame : Nat) : State :=
  let (s, id) := s.recordFault (luDie a.lu) code sub a.who (dHandle a.td) a.lu a.tile info aux entry true [a.id] [] frame
  let s := s.setAccess { a with parked := some id }
  if id = 0 then s.later 1 (.luAccess a.id) [] else s
/-- K128 refusals of a piece, each with its record, and the tile poisoned (R350). -/
def State.k128Refuse (s : State) (a : Access) (entry : Word64) : List (Nat × Elem) → State
  | [] => s
  | (sub, e) :: r =>
    let s := (s.recordFault (luDie a.lu) 0x17 sub a.who (dHandle a.td) a.lu a.tile (BitVec.ofNat 64 e.inner)
      (BitVec.ofNat 64 (fldN a.td 384 8)) entry false [] [] 0).1
    State.k128Refuse s a entry r
/-- The places where `cp.rep` makes copies of a tile (R212): dies, or 4 plus a chip. -/
def State.repPlaces (s : State) (a : Access) : List Nat :=
  match s.cmd a.cmd with
  | none => []
  | some c => match c.op with
    | .cpRep o => match fldN o.x 11 2 with
      | 0 => [coreDie a.who.core]
      | 1 => (s.part a.who.part).cfg.dies
      | _ => [4 + fldN c.arg 0 18]
    | _ => []
/-- Add replicas of a tile; a place that has one keeps it (R212, R227). -/
def State.addReplicas (s : State) (handle tile : Nat) (places : List Nat) : State :=
  let new := (places.map fun p => (handle, tile, p)).filter fun r => !s.fabric.replicas.contains r
  { s with fabric := { s.fabric with replicas := new ++ s.fabric.replicas } }
/-- The format of the elements that a command adds (R210). -/
def State.addFmt (s : State) (a : Access) : Fmt :=
  match s.cmd a.cmd with
  | some c => if cmdWidth c.op a.td = 16 then .bf16 else .f32
  | none => .f32
/-- Perform an access whose translation and roles are good (R68, R71, R72, R78, R222). -/
def State.accPerform (s : State) (a : Access) (entry : Word64) (frame : Nat) : State :=
  let w := (dFmt a.td).width
  let part := a.who.part
  let fail (r : CodecRes State) : State := match r with
    | .ok t => t.accDone a true []
    | .bad sub m e => s.accRefuse a 0x16 sub (BitVec.ofNat 64 m) e entry
    | .miss t f => s.accPark a 0x12 (if t then 1 else 0) (BitVec.ofNat 64 f) (BitVec.ofNat 64 (fldN (s.s2entry part f) 0 32)) entry f
  match a.kind with
  | .read | .stream | .slRead =>
    let advance (t : State) : State :=
      if a.kind == .stream || a.kind == .slRead && eRole entry = roleS then t.advanceFloor part a.td a.tile entry a.elems.length else t
    if dCmp a.td then
      match s.region part a.td with
      | .ok r => match s.codecRead part r a.tile w a.elems with
        | .ok es => (advance s).accDone a true es
        | .bad sub m e => fail (.bad sub m e)
        | .miss t f => fail (.miss t f)
      | .bad sub _ e => fail (.bad sub (16 * a.tile + (blocksOf w a.elems).headD 0) e)
      | .miss t f => fail (.miss t f)
    else (advance s).accDone a true (s.readElems frame w a.elems)
  | .write | .slWrite =>
    if dCmp a.td then fail (s.codecWrite part a.td a.tile w a.elems a.stale (blocksOf w a.elems))
    else (s.writeElems frame w a.elems).accDone a true []
  | .add =>
    let (t, bad) := s.addElems frame (dW a.td) (s.addFmt a) a.elems
    if s.faultRoom (luDie a.lu) < bad.length then s.accOffer a
    else
    let t := t.k128Refuse a entry bad
    let t := if bad.isEmpty then t else t.poison part a.td a.tile
    t.accDone a true []
  | .rep =>
    (if s.chooses then s.addReplicas (dHandle a.td) a.tile (s.repPlaces a) else s).bump.accDone a true []

/-! Order at a unit (R79, R217, R340) and the path of an access. -/

/-- Same channel of the same context, or of the same other chip (R340). -/
def sameChannel (a b : Access) : Bool :=
  a.who.unit = b.who.unit && a.who.core = b.who.core && a.who.slot = b.who.slot && a.who.ch = b.who.ch && a.who.chip = b.who.chip
/-- Bytes of the frame image that an access touches overlap. -/
def bytesMeet (a b : Access) : Bool :=
  let wa := (dFmt a.td).width
  let wb := (dFmt b.td).width
  a.elems.any fun x => b.elems.any fun y =>
    x.inner * wa / 8 < (y.inner * wb + wb + 7) / 8 && y.inner * wb / 8 < (x.inner * wa + wa + 7) / 8
/-- The data frame that the tables name for an access now. -/
def State.frameOf (s : State) (a : Access) : Option Nat :=
  match s.walk a.who.part a.td a.tile with
  | .ok _ f => if dCmp a.td then none else some f
  | _ => none
/-- Whether two accesses name one tile, or the same bytes under two names. R217 leaves accesses of one channel to different bytes of one tile
unordered; DESIGN CHOICE: those performed here keep the order of their commands, as R79 has it for remote tiles (log 79). -/
def State.meet (s : State) (a b : Access) : Bool :=
  a.extent.isNone && b.extent.isNone &&
    ((dHandle a.td = dHandle b.td && a.tile = b.tile) || ((s.frameOf a).isSome && s.frameOf a == s.frameOf b && bytesMeet a b))
/-- The writes that a read of `cp.sl` will send (R212). -/
def State.slWrites (s : State) (b : Access) : List Access :=
  match if b.kind == .slRead then s.cmd b.cmd else none with
  | some c => match c.td2 with
    | some d => (piecesOf (slTargets c b.elems)).map fun p => { b with td := d, tile := p.tile, elems := p.elems, extent := p.extent }
    | none => []
  | none => []
/-- Whether an earlier access of the channel comes before this one, in the order of the commands, or a write that it will send (R217). -/
def State.behind (s : State) (a b : Access) : Bool :=
  sameChannel a b &&
    (((b.cmd < a.cmd || (b.cmd = a.cmd && b.id < a.id)) && s.meet a b) || (b.cmd < a.cmd && (s.slWrites b).any (s.meet a)))
/-- Whether an earlier recast of the channel that has not been rewritten covers an access's tile or its bytes: the access waits for it
(R217). -/
def State.awaitsRecast (s : State) (a : Access) : Bool :=
  a.who.unit = 0 && s.cmds.any fun c => c.id < a.cmd && c.core = a.who.core && c.slot = a.who.slot && c.ch = a.who.ch &&
    match c.recast, c.td with
    | some o, some d =>
      let tiles := recastTiles d c.box o c.cursor
      let same (t f : Nat) : Bool := match s.walk a.who.part d t with
        | .ok _ g => f = g
        | _ => false
      (dHandle d = dHandle a.td && tiles.contains a.tile) || (s.frameOf a).any fun f => tiles.any (same · f)
    | _, _ => false
/-- A recast that has sealed a tile at a unit and not yet rewritten it holds an access to it (R75). -/
def State.sealedAt (s : State) (lu handle tile : Nat) : Bool :=
  s.fabric.recasts.any fun r => r.sealed && !r.units.contains lu && r.handle = handle && r.tiles.contains tile
/-- Whether a tile is on the move: this chip queues every request for it (R80). -/
def State.movingAt (s : State) (handle tile : Nat) : Bool :=
  s.fabric.stubs.any fun b => b.handle = handle && b.tile = tile && b.moving
/-- Whether a unit's park of 256 accesses is full (R342). -/
def State.parkFull (s : State) (lu : Nat) : Bool :=
  256 ≤ (s.accesses.filter fun b => b.lu = lu && b.parked.isSome).length +
    ((s.delayed.flatMap Waiting.taken).filter fun p => p.1 = lu).length
/-- Whether a redirect holds a request until those sent before it have completed (R81). -/
def State.heldBack (s : State) (handle tile : Nat) : Bool :=
  s.fabric.holds.any fun h => h.1 = handle && h.2.1 = tile && s.accesses.any fun b => h.2.2.contains b.id
/-- A unit accepts an access: the accesses that units have accepted stand in the list in their order of arrival (R75, R340, R343). -/
def State.accept (s : State) (a : Access) : State :=
  if a.accepted then s.setAccess a
  else { s with accesses := (s.accesses.filter fun b => b.id ≠ a.id) ++ [{ a with accepted := true }] }

/-! Requests to other chips (R79, R217, R284, R346, R358, R370). -/

/-- Whether no port reaches a chip (R370, R385; log 62). -/
def State.noPath (s : State) (chip : Nat) : Bool := (List.range 18).all fun n => s.control.fencedPorts.contains n || !Config.reaches n chip
/-- The owner chip of a tile as the owner cache has it (R79). -/
def State.ownerOf (s : State) (handle tile : Nat) : Option Nat := (s.fabric.owners.find? fun o => o.1 = handle && o.2.1 = tile).map fun o => o.2.2
def State.farTile (s : State) (handle tile : Nat) : FarTile :=
  (s.fabric.far.find? fun f => f.handle = handle && f.tile = tile).getD ⟨handle, tile, []⟩
/-- Keep what this chip knows of a tile of another chip; a tile of which it knows nothing is not kept. -/
def State.setFar (s : State) (handle tile : Nat) (image : Sp (Option Byte)) : State :=
  let l := s.fabric.far.filter fun f => !(f.handle = handle && f.tile = tile)
  { s with fabric := { s.fabric with far := if image.isEmpty then l else ⟨handle, tile, image⟩ :: l } }
/-- A request reaches the tile's owner: another chip may have written the tile since this chip last did (log 7). -/
def State.farReached (s : State) (handle tile : Nat) : State := (if s.chooses then s.setFar handle tile [] else s).bump
/-- n bytes of a tile of another chip, from an offset: what it was last given, or a free byte, which it then holds (R284; log 7). -/
def State.farBytes (s : State) (handle tile off : Nat) : Nat → State × List Byte
  | 0 => (s, [])
  | n + 1 =>
    let m := (s.farTile handle tile).image
    match Sp.get none m off with
    | some b => let (t, l) := State.farBytes s handle tile (off + 1) n; (t, b :: l)
    | none =>
      let b := Config.remoteByte s.fresh
      let (t, l) := State.farBytes (s.setFar handle tile (Sp.put none m off (some b))).bump handle tile (off + 1) n
      (t, b :: l)
/-- Bytes written to a tile of another chip. -/
def State.farPut (s : State) (handle tile off : Nat) (l : List Byte) : State :=
  s.setFar handle tile (l.zipIdx.foldl (fun m e => Sp.put none m (off + e.2) (some e.1)) (s.farTile handle tile).image)
/-- Read elements of width w from a tile of another chip. -/
def State.farRead (s : State) (handle tile w : Nat) : List Elem → State × List Elem
  | [] => (s, [])
  | e :: r =>
    let (s, bs) := s.farBytes handle tile (e.inner * w / 8) ((w + 7) / 8)
    let (s, l) := State.farRead s handle tile w r
    (s, { e with val := (ofBytesLE bs >>> (e.inner * w % 8)) % 2 ^ w } :: l)
/-- Write elements to a tile of another chip; a nibble write keeps the other nibble of its byte (R68). -/
def State.farWrite (s : State) (handle tile w : Nat) (es : List Elem) : State :=
  es.foldl (fun s e =>
    let n := (w + 7) / 8
    let (s, bs) := s.farBytes handle tile (e.inner * w / 8) n
    let old := ofBytesLE bs
    let m := (2 ^ w - 1) * 2 ^ (e.inner * w % 8)
    s.farPut handle tile (e.inner * w / 8) (bytesLE n (old - (old &&& m) + (e.val % 2 ^ w) * 2 ^ (e.inner * w % 8)))) s
/-- The adds of a piece to a tile of another chip; refused elements with their sub-code (R72, R350). -/
def State.farAdd (s : State) (d : Desc) (tile : Nat) (f : Fmt) : List Elem → State × List (Nat × Elem)
  | [] => (s, [])
  | e :: r =>
    let (s, bs) := s.farBytes (dHandle d) tile (e.inner * 16) 16
    let (s, bad) := match k128Units (dW d) (decodeNum f e.val) with
      | none => (s, [(1, e)])
      | some u =>
        let n := signed 128 (ofBytesLE bs) + u
        if n ≤ -(2 ^ 127 : Int) || (2 ^ 127 - 1 : Int) < n then (s, [(0, e)])
        else (s.farPut (dHandle d) tile (e.inner * 16) (bytesLE 16 (wrap 128 n)), [])
    let (s, l) := State.farAdd s d tile f r
    (s, bad ++ l)
/-- A remote request leaves for the owner that the owner cache names, or for the home directory (R79); with no path to that chip no reply comes
(R370). -/
def State.sendRemote (s : State) (a : Access) : State :=
  let s := (s.setAccess { a with sentAt := some s.now, parked := none }).later (2 ^ 24) .remoteTimeout [a.id, s.now]
  match s.ownerOf (dHandle a.td) a.tile with
  | some chip =>
    if s.noPath chip then s
    else if s.chooses then s.bump.sometime .remoteNack [a.id] else s.bump.sometime (.luAccess a.id) []
  | none => s.sometime .directoryRequest [a.id]
/-- The status of a request that its owner refuses (R346, R347). -/
def State.farRefused (s : State) (a : Access) (code : Nat) : State := s.refusalStatus a.who.part a.who.queue a.who.tree s.fresh (0x80 + code)
/-- The reply of another chip: the request performed there, or a refusal at its owner (R79, R346, R358; log 7). Without a path it does not
come. -/
def State.remoteReply (s : State) (a : Access) : State :=
  let h := dHandle a.td
  let w := (dFmt a.td).width
  if s.noPath ((s.ownerOf h a.tile).getD (dHome a.td)) then s
  else if s.chooses then
    let s := s.bump.farReached h a.tile
    match a.kind with
    | .read | .stream | .slRead => let (s, es) := s.farRead h a.tile w a.elems; s.accDone a true es
    | .write | .slWrite => (s.farWrite h a.tile w a.elems).accDone a true []
    | .add =>
      let (s, bad) := s.farAdd a.td a.tile (s.addFmt a) a.elems
      (if bad.isEmpty then s else s.farRefused a 0x17).accDone a true []
    | .rep => s.accDone a true []
  else
    let codes := [0x11, 0x12, 0x13, if dCmp a.td then 0x16 else 0x1a, 0x1a]
    let s := s.bump
    (s.farRefused a (codes.getD (Config.index s.fresh % 5) 0x11)).accDone a false []

/-! The path of an access. -/

/-- An access whose translation and roles are good is performed; the codec may first read the blocks that a compressed write changes, and write
them back later (R222; log 5). -/
def State.accStart (s : State) (a : Access) (entry : Word64) (frame : Nat) : State :=
  let old := s.blocksNow a.who.part a.td a.tile (blocksOf (dFmt a.td).width a.elems)
  if dCmp a.td && (a.kind == .write || a.kind == .slWrite) && a.stale.isEmpty && !old.isEmpty && s.chooses then
    (s.bump.setAccess { a with stale := old }).sometime (.luAccess a.id) []
  else s.bump.accPerform a entry frame
/-- Whether an access waits before its unit looks at it: behind a recast of its channel; and, until the unit has accepted it, for a seal, a full park
or a move; once replayed, for the move (R75, R80, R217, R342, R359). -/
def State.accHeld (s : State) (a : Access) : Bool :=
  let h := dHandle a.td
  s.awaitsRecast a || (!a.accepted && (s.sealedAt a.lu h a.tile || s.parkFull a.lu)) || ((!a.accepted || a.replayed) && s.movingAt h a.tile)
/-- LU ACCESS (R62-R72, R75, R217, R340-R350): an access waits behind a recast of its channel, a seal, a move or a full park; its unit then
accepts it, and it waits behind earlier ones of its channel; then it is translated, judged and performed, parked or refused; a remote one
leaves, or its reply has come. -/
def execLuAccess (acc : Nat) (s : State) : Res :=
  match s.accesses.find? fun a => a.id = acc with
  | none => .next s
  | some a =>
    if a.parked.isSome && a.parked ≠ some 0 then .next s
    else if a.sentAt.isSome then .next (s.remoteReply a)
    else match a.extent with
    | some (k, x) => .next (s.accRefuse a 0x14 0 (BitVec.ofNat 64 k) (BitVec.ofNat 64 x) 0)
    | none =>
      if s.accHeld a then .next (s.later 1 (.luAccess acc) [])
      else
        let h := dHandle a.td
        let before := s.accesses.filter (s.behind a)
        let s := s.accept a
        let a := { a with accepted := true }
        let v := s.translate a.cmd a.lu a.who.part a.td a.tile
        let s := s.bump
        if !before.isEmpty then
          match v with
          | .park code sub info aux entry frame =>
            if before.any fun b => b.parked.isSome then .next (s.accPark a code sub info aux entry frame) else .next (s.later 1 (.luAccess acc) [])
          | _ => .next (s.later 1 (.luAccess acc) [])
        else
          match v with
          | .park code sub info aux entry frame => .next (s.accPark a code sub info aux entry frame)
          | .refuse code sub info aux entry => .next (s.accRefuse a code sub info aux entry)
          | .remote _ => .next (if s.heldBack h a.tile then s.later 1 (.luAccess acc) [] else s.sendRemote a)
          | .ok entry frame =>
            match judge a.td a.tile a.kind a.who.gang a.elems entry with
            | some (code, sub, info, aux) => .next (s.accRefuse a code sub info aux entry)
            | none =>
              let kept := (s.leftTo a.cmd h a.tile).isSome
              .next ((if kept then s else s.cachePut a.lu a.who.part h a.tile entry (if dCmp a.td then none else some frame)).accStart a entry frame)

/-! Firmware's resolution of fault records (R342-R346, R384). -/

/-- Replay parked accesses (R343): a parked read of a recast's check is made again (R352). -/
def State.replay (s : State) : List Nat → State
  | [] => s
  | i :: r =>
    match s.accesses.find? fun a => a.id = i with
    | some a => State.replay ((s.setAccess { a with parked := none, replayed := true }).later 0 (.luAccess i) []) r
    | none => match s.cmd i with
      | some c => State.replay ((s.setCmd { c with stage := 1 }).later 0 (.recastSeal c.id) []) r
      | none => State.replay s r
/-- Refuse them, each by R346, with the status of their record for accesses of units 0 to 2 (R347); a recast's check goes on to its sub-code 6 (R352). -/
def State.refuseAll (s : State) (rec code : Nat) : List Nat → State
  | [] => s
  | i :: r =>
    match s.accesses.find? fun a => a.id = i with
    | some a =>
      let s := if a.who.unit < 3 then s.refusalStatus a.who.part a.who.queue a.who.tree rec (0x80 + code) else s
      let s := if a.kind == .add then s.poison a.who.part a.td a.tile else s
      State.refuseAll (s.accDone a false []) rec code r
    | none => match s.cmd i with
      | some c =>
        let p := (s.ctx (Machine.ck c.core c.slot)).place
        let s := s.refusalStatus p.part p.queue p.tree rec (0x80 + code)
        State.refuseAll ((s.setCmd { c with stage := 6 }).later 0 (.recastSeal c.id) []) rec code r
      | none => State.refuseAll s rec code r
/-- Whether a parked record's cause is gone, or goes by what firmware writes; the state after firmware's writes. -/
def State.settles (s : State) (f : FaultRec) : Option State :=
  let code := fldN (f.words.getD 0 0) 56 8
  let handle := fldN (f.words.getD 1 0) 24 40
  let tile := (f.words.getD 2 0).toNat
  let at_ := (f.words.getD 3 0).toNat
  if code = 0x11 then
    match s.readPart f.part at_ with
    | some e =>
      if eV e then some s
      else match Config.missEntry handle tile s.fresh with
        | some w => some (s.bump.writePart f.part at_ w)
        | none => none
    | none => some s
  else if (s.s2 f.part f.frame).isSome then some s
  else if s.s2deferred f.part f.frame then some (s.validate f.part f.frame)
  else none
/-- Whether a host access waits on another frame than its record's: host accesses have no handle and no tile (R342). -/
def FaultRec.elsewhere (f : FaultRec) (e : Instr × List Nat) : Bool :=
  match e.1 with
  | .hostCxlMemAccess p a _ _ => !(p = f.part && a / 65536 = f.frame)
  | _ => false
/-- An access of the host is no longer kept at its port. -/
def State.hostLeaves (s : State) (i : Instr) : State :=
  match s.delayed.find? fun w => w.event = i && w.subject = [] with
  | some w => { s with delayed := s.delayed.erase w }
  | none => s
/-- An access of the host that firmware refuses is over: a write is dropped, a read completes with ones, marked poisoned (R314, R347). -/
def State.hostRefused (s : State) (l : List (Instr × List Nat)) : State :=
  l.foldl (fun s e => match e.1 with
    | .hostCxlMemAccess p a w d =>
      (s.hostLeaves e.1).hostCompletes p a w (if w then [] else List.replicate (min d.length (65536 - a % 65536)) 0xff) (!w)
    | _ => s) s
/-- Replay accesses of the host and of the engines, in their order (R314, R343). -/
def State.replayHost (s : State) (l : List (Instr × List Nat)) : State := l.foldl (fun s e =>
  let put (w : Waiting) : Waiting := if w.event = e.1 && w.subject = e.2 && w.till.isNone then { w with till := some s.now } else w
  ({ s with delayed := s.delayed.map put } : State).later 0 e.1 e.2) s
/-- Firmware refuses the engines' accesses of a record: each event goes on without the one that it waits for (R346; log 12). -/
def State.denyAll (s : State) (code : Nat) (l : List (Instr × List Nat)) : State :=
  let put (w : Waiting) : Waiting :=
    if w.till.isNone && l.any fun e => w.event = e.1 && w.subject = e.2 then
      { w with denied := match w.parked with
          | some (_, h, t) => (h, t, code) :: w.denied
          | none => w.denied }
    else w
  { s with delayed := s.delayed.map put }
def FaultRec.code (f : FaultRec) : Nat := fldN (f.words.getD 0 0) 56 8
/-- Whether a record is of a fault in a table walk, which a partition frame keys (R343). -/
def FaultRec.ofWalk (f : FaultRec) : Bool := fldN (f.words.getD 0 0) 48 16 = 0x1201
/-- Whether a record is of an access of the host, which names no tile: its frame is its key (log 51). -/
def FaultRec.ofHost (f : FaultRec) : Bool := f.host.any fun e => match e.1 with
  | .hostCxlMemAccess _ _ _ _ => true
  | _ => false
/-- Whether a resolve for the key of record f settles record g: the same key, and g's generation is f's or earlier, modulo 2^16 within a half
range (R343). -/
def FaultRec.settledBy (g f : FaultRec) : Bool :=
  let gen (x : FaultRec) : Nat := fldN (x.words.getD 0 0) 32 16
  g.parked && g.part = f.part && (gen f + 2 ^ 16 - gen g) % 2 ^ 16 < 2 ^ 15 &&
    if f.ofWalk then g.ofWalk && g.frame = f.frame
    else !g.ofWalk && fldN (g.words.getD 1 0) 24 40 = fldN (f.words.getD 1 0) 24 40 && g.words.getD 2 0 == f.words.getD 2 0 &&
      (!(f.ofHost && g.ofHost) || g.frame = f.frame)
/-- The records of all dies that a resolve settles. -/
def State.settledBy (s : State) (f : FaultRec) : List (Nat × FaultRec) :=
  [0, 1, 2, 3].flatMap fun (n : Nat) => ((s.die n).faults.filter fun g => g.settledBy f).map fun g => (n, g)
/-- Parked accesses in arrival order, which is the order of the accepted ones in the access list (R343); checks of recasts after them. -/
def State.inOrder (s : State) (l : List Nat) : List Nat :=
  let acc := (s.accesses.filter fun a => l.contains a.id).map Access.id
  acc ++ l.filter fun i => !acc.contains i
/-- A parked record that firmware refuses is copied to the host event ring, and each of its accesses is refused (R346, R347). -/
def State.refuseRecord (s : State) (f : FaultRec) : State :=
  let s := (s.hostEvent f.part 1 f.words).refuseAll f.id f.code (s.inOrder f.keep)
  ((s.hostRefused (f.host.filter fun e => !f.elsewhere e)).denyAll f.code f.host).replayHost
    (f.host.filter fun e => f.elsewhere e || match e.1 with
      | .hostCxlMemAccess _ _ _ _ => false
      | _ => true)
/-- A batch of firmware's answers advances the partition's translation generation (R343). -/
def State.batch (s : State) (part : Nat) : State := let p := s.part part; s.setPart part { p with gen := p.gen + 1 }
/-- FAULT RESOLVE (R342-R346, R384), on the die and record that the state names: a batch advances the generation, then every
access parked under the record's key is replayed, or refused. A refusal record is freed. -/
def execFaultResolve (s : State) : Res :=
  let die := s.subj 0
  let d := s.die die
  match d.faults.find? fun f => f.id = s.subj 1 with
  | none => .next s
  | some f =>
    if !f.parked then .next (s.freeFault die f.id)
    else
      let l := s.settledBy f
      let free (t : State) : State := (l.foldl (fun t e => t.freeFault e.1 e.2.id) t).batch f.part
      match s.settles f with
      | some t => .next (((free t).replay (t.inOrder (l.flatMap fun e => e.2.keep))).replayHost (l.flatMap fun e => e.2.host))
      | none => .next (l.foldl (fun t e => t.refuseRecord e.2) (free s))

end Sys2Proof.Machine
end

