-- ==== Sys2Proof/Machine/RvFloat.lean ====
section
/-! DEFINITION. The floating point of the transform core (R226): IEEE 754 binary32 and binary64 with the rounding modes, flags and NaN rules
of the F and D extensions (log 8). Flags: 1 inexact, 2 underflow, 4 overflow, 8 division by zero, 16 invalid. -/
namespace Sys2Proof.Machine
open Sys2Proof

/-- A format: exponent and fraction bits. -/
structure RvFmt where
  e : Nat
  m : Nat
  deriving DecidableEq, Repr
def rvF32 : RvFmt := ⟨8, 23⟩
def rvF64 : RvFmt := ⟨11, 52⟩
def RvFmt.width (f : RvFmt) : Nat := f.e + f.m + 1
def RvFmt.inf (f : RvFmt) : Nat := (2 ^ f.e - 1) * 2 ^ f.m
/-- The canonical NaN. -/
def RvFmt.nan (f : RvFmt) : Nat := f.inf + 2 ^ (f.m - 1)
def RvFmt.bias (f : RvFmt) : Nat := 2 ^ (f.e - 1) - 1
/-- Exponent of the least normal number, and of the least subnormal one. -/
def RvFmt.emin (f : RvFmt) : Int := 1 - (f.bias : Int)
def RvFmt.elow (f : RvFmt) : Int := f.emin - f.m
def RvFmt.sign (f : RvFmt) (s : Bool) (c : Nat) : Nat := if s then 2 ^ (f.e + f.m) + c else c
def RvFmt.neg (f : RvFmt) (c : Nat) : Nat := c ^^^ 2 ^ (f.e + f.m)
def RvFmt.isNeg (f : RvFmt) (c : Nat) : Bool := c.testBit (f.e + f.m)

/-- What a code stands for: NaN (signalling or not), an infinity, or ± m x 2^e. -/
inductive RvNum
  | nan (sig : Bool)
  | inf (s : Bool)
  | fin (s : Bool) (m : Nat) (e : Int)
  deriving DecidableEq, Repr
def RvFmt.unpack (f : RvFmt) (c : Nat) : RvNum :=
  let s := f.isNeg c
  let x := c / 2 ^ f.m % 2 ^ f.e
  let m := c % 2 ^ f.m
  if x = 2 ^ f.e - 1 then (if m = 0 then .inf s else .nan (!m.testBit (f.m - 1)))
  else if x = 0 then .fin s m f.elow else .fin s (2 ^ f.m + m) (f.elow + (x - 1 : Nat))
def RvNum.isNan : RvNum → Bool
  | .nan _ => true
  | _ => false
def RvNum.isSig : RvNum → Bool
  | .nan g => g
  | _ => false
/-- m / 2^k rounded to an integer by a mode (0 nearest even, 1 toward zero, 2 down, 3 up, 4 nearest away, 5 to odd), and whether inexact. -/
def rvShift (rm : Nat) (s : Bool) (m k : Nat) : Nat × Bool :=
  let q := m / 2 ^ k
  let r := m % 2 ^ k
  let up := match rm with
    | 0 => decide (2 ^ k < 2 * r) || (decide (2 * r = 2 ^ k) && q % 2 == 1)
    | 1 => false
    | 2 => s && r != 0
    | 3 => !s && r != 0
    | 4 => decide (2 ^ k ≤ 2 * r)
    | _ => r != 0 && q % 2 == 0
  (if up then q + 1 else q, r != 0)
/-- Round ± m x 2^e with unbounded exponents to p bits from exponent q on. -/
def rvAt (rm : Nat) (s : Bool) (m : Nat) (e q : Int) : Nat × Bool :=
  if q ≤ e then (m * 2 ^ (e - q).toNat, false) else rvShift rm s m (q - e).toNat
/-- Round ± m x 2^e to a format: code and flags; tininess is judged after rounding. -/
def RvFmt.round (f : RvFmt) (rm : Nat) (s : Bool) (m : Nat) (e : Int) : Nat × Nat :=
  if m = 0 then (f.sign s 0, 0)
  else
    let top := (Nat.log2 m : Int) + e
    let q := max (top - f.m) f.elow
    let (n, ix) := rvAt rm s m e q
    let c := (q - f.elow).toNat * 2 ^ f.m + n
    if f.inf ≤ c then
      let big := rm = 1 || rm = 5 || (rm = 2 && !s) || (rm = 3 && s)
      (f.sign s (if big then f.inf - 1 else f.inf), 5)
    else
      let tiny := top < f.emin && !(top = f.emin - 1 && (rvAt rm s m e (top - f.m)).1 = 2 ^ (f.m + 1))
      (f.sign s c, if ix then (if tiny then 3 else 1) else 0)
/-- Round an exact sum v x 2^e; `z` the sign of a zero. -/
def RvFmt.exact (f : RvFmt) (rm : Nat) (v e : Int) (z : Bool) : Nat × Nat :=
  if v = 0 then (f.sign z 0, 0) else f.round rm (decide (v < 0)) v.natAbs e
def rvInt (s : Bool) (m : Nat) : Int := if s then -(m : Int) else m
/-- Exact sum of two finite numbers: value at the lower exponent. -/
def rvSum (s : Bool) (m : Nat) (e : Int) (t : Bool) (n : Nat) (d : Int) : Int × Int :=
  let l := min e d
  (rvInt s m * (2 ^ (e - l).toNat : Nat) + rvInt t n * (2 ^ (d - l).toNat : Nat), l)
/-- The result of an operation on a NaN. -/
def RvFmt.ofNan (f : RvFmt) (l : List RvNum) : Nat × Nat := (f.nan, if l.any RvNum.isSig then 16 else 0)
def RvFmt.invalid (f : RvFmt) : Nat × Nat := (f.nan, 16)
def RvFmt.add (f : RvFmt) (rm a b : Nat) : Nat × Nat :=
  match f.unpack a, f.unpack b with
  | .fin s m e, .fin t n d => let (v, l) := rvSum s m e t n d; f.exact rm v l (if s = t then s else rm = 2)
  | .inf s, .inf t => if s = t then (a, 0) else f.invalid
  | .inf _, .fin _ _ _ => (a, 0)
  | .fin _ _ _, .inf _ => (b, 0)
  | x, y => f.ofNan [x, y]
def RvFmt.sub (f : RvFmt) (rm a b : Nat) : Nat × Nat := f.add rm a (f.neg b)
def RvFmt.mul (f : RvFmt) (rm a b : Nat) : Nat × Nat :=
  match f.unpack a, f.unpack b with
  | .fin s m e, .fin t n d => f.round rm (s != t) (m * n) (e + d)
  | .inf s, .inf t => (f.sign (s != t) f.inf, 0)
  | .inf s, .fin t n _ => if n = 0 then f.invalid else (f.sign (s != t) f.inf, 0)
  | .fin s m _, .inf t => if m = 0 then f.invalid else (f.sign (s != t) f.inf, 0)
  | x, y => f.ofNan [x, y]
/-- a x b + c, rounded once. -/
def RvFmt.fma (f : RvFmt) (rm a b c : Nat) : Nat × Nat :=
  let x := f.unpack a
  let y := f.unpack b
  let z := f.unpack c
  let p (s : Bool) : Nat × Nat := match z with
    | .inf t => if s = t then (f.sign s f.inf, 0) else f.invalid
    | .fin _ _ _ => (f.sign s f.inf, 0)
    | .nan _ => f.ofNan [x, y, z]
  match x, y with
  | .fin s m e, .fin t n d =>
    match z with
    | .fin u k g =>
      let ps := s != t
      let (v, l) := rvSum ps (m * n) (e + d) u k g
      f.exact rm v l (if ps = u then u else rm = 2)
    | .inf _ => (c, 0)
    | .nan _ => f.ofNan [z]
  | .inf s, .inf t => p (s != t)
  | .inf s, .fin t n _ => if n = 0 then f.invalid else p (s != t)
  | .fin s m _, .inf t => if m = 0 then f.invalid else p (s != t)
  | x, y => f.ofNan [x, y, z]
/-- Quotient bits enough for the format, the last of them telling of a remainder. -/
def RvFmt.div (f : RvFmt) (rm a b : Nat) : Nat × Nat :=
  match f.unpack a, f.unpack b with
  | .fin s m e, .fin t n d =>
    if n = 0 then (if m = 0 then f.invalid else (f.sign (s != t) f.inf, 8))
    else
      let k := f.m + 3 + Nat.log2 n - Nat.log2 m
      let x := m * 2 ^ k
      f.round rm (s != t) (2 * (x / n) + (if x % n = 0 then 0 else 1)) (e - d - k - 1)
  | .inf _, .inf _ => f.invalid
  | .inf s, .fin t _ _ => (f.sign (s != t) f.inf, 0)
  | .fin s _ _, .inf t => (f.sign (s != t) 0, 0)
  | x, y => f.ofNan [x, y]
/-- The integer square root of n, bit by bit from bit k - 1 of the root. -/
def rvIsqrt (n : Nat) : Nat → Nat → Nat
  | 0, r => r
  | k + 1, r => rvIsqrt n k (let t := r + 2 ^ k; if t * t ≤ n then t else r)
def RvFmt.sqrt (f : RvFmt) (rm a : Nat) : Nat × Nat :=
  match f.unpack a with
  | .nan g => f.ofNan [.nan g]
  | .inf s => if s then f.invalid else (a, 0)
  | .fin s m e =>
    if m = 0 then (a, 0)
    else if s then f.invalid
    else
      let k := 2 * f.m + 6 - Nat.log2 m
      let k := if (e - k) % 2 = 0 then k else k + 1
      let x := m * 2 ^ k
      let r := rvIsqrt x (f.m + 5) 0
      f.round rm false (2 * r + (if r * r = x then 0 else 1)) ((e - k) / 2 - 1)
/-- Whether code a is below code b, both numbers; -0 and +0 are equal unless `strict` orders them. -/
def RvFmt.less (f : RvFmt) (strict : Bool) (a b : Nat) : Bool :=
  let key (c : Nat) : Int := if f.isNeg c then -(c % 2 ^ (f.e + f.m) : Nat) else c
  if key a = key b then strict && f.isNeg a && !f.isNeg b else key a < key b
/-- The lesser or the greater number; a NaN gives way to a number. -/
def RvFmt.minMax (f : RvFmt) (greater : Bool) (a b : Nat) : Nat × Nat :=
  let x := f.unpack a
  let y := f.unpack b
  let fl := if x.isSig || y.isSig then 16 else 0
  (if x.isNan then (if y.isNan then f.nan else b) else if y.isNan then a else if f.less true a b != greater then a else b, fl)
/-- A comparison: 0 less or equal, 1 less, 2 equal; an equality is invalid for a signalling NaN only. -/
def RvFmt.compare (f : RvFmt) (op a b : Nat) : Bool × Nat :=
  let x := f.unpack a
  let y := f.unpack b
  if x.isNan || y.isNan then (false, if op ≠ 2 || x.isSig || y.isSig then 16 else 0)
  else (match op with
    | 0 => !f.less false b a
    | 1 => f.less false a b
    | _ => !f.less false a b && !f.less false b a, 0)
/-- The class of a code: the number of its bit in the result of `fclass`. -/
def RvFmt.classOf (f : RvFmt) (c : Nat) : Nat :=
  match f.unpack c with
  | .inf s => if s then 0 else 7
  | .nan g => if g then 8 else 9
  | .fin s m _ =>
    if m = 0 then (if s then 3 else 4) else if m < 2 ^ f.m then (if s then 2 else 5) else if s then 1 else 6
/-- A code as an integer of w bits, signed or not: saturated and invalid outside the range. -/
def RvFmt.toInt (f : RvFmt) (rm : Nat) (sgn : Bool) (w c : Nat) : Nat × Nat :=
  let lo : Int := if sgn then -(2 ^ (w - 1) : Nat) else 0
  let hi : Int := if sgn then (2 ^ (w - 1) : Nat) - 1 else (2 ^ w : Nat) - 1
  let code (v : Int) : Nat := (v % (2 ^ w : Nat)).toNat
  match f.unpack c with
  | .nan _ => (code hi, 16)
  | .inf s => (code (if s then lo else hi), 16)
  | .fin s m e =>
    let (n, ix) := rvAt rm s m e 0
    let v := rvInt s n
    if v < lo then (code lo, 16) else if hi < v then (code hi, 16) else (code v, if ix then 1 else 0)
def RvFmt.ofInt (f : RvFmt) (rm : Nat) (v : Int) : Nat × Nat := f.exact rm v 0 false
/-- A code of one format in another. -/
def rvConvert (src dst : RvFmt) (rm c : Nat) : Nat × Nat :=
  match src.unpack c with
  | .nan g => dst.ofNan [.nan g]
  | .inf s => (dst.sign s dst.inf, 0)
  | .fin s m e => dst.round rm s m e
/-- Sign injection: 0 copies b's sign, 1 its opposite, 2 the two signs' difference. -/
def RvFmt.inject (f : RvFmt) (op a b : Nat) : Nat :=
  let s := match op with
    | 0 => f.isNeg b
    | 1 => !f.isNeg b
    | _ => f.isNeg a != f.isNeg b
  f.sign s (a % 2 ^ (f.e + f.m))

/-! The seven-bit estimates of `vfrec7` and `vfrsqrt7`. -/

def rvRec7 : List Nat :=
  [127, 125, 123, 121, 119, 117, 116, 114, 112, 110, 109, 107, 105, 104, 102, 100, 99, 97, 96, 94, 93, 91, 90, 88, 87, 85, 84, 83, 81, 80, 79, 77] ++
  [76, 75, 74, 72, 71, 70, 69, 68, 66, 65, 64, 63, 62, 61, 60, 59, 58, 57, 56, 55, 54, 53, 52, 51, 50, 49, 48, 47, 46, 45, 44, 43] ++
  [42, 41, 40, 40, 39, 38, 37, 36, 35, 35, 34, 33, 32, 31, 31, 30, 29, 28, 28, 27, 26, 25, 25, 24, 23, 23, 22, 21, 21, 20, 19, 19] ++
  [18, 17, 17, 16, 15, 15, 14, 14, 13, 12, 12, 11, 11, 10, 9, 9, 8, 8, 7, 7, 6, 5, 5, 4, 4, 3, 3, 2, 2, 1, 1, 0]
def rvRsqrt7 : List Nat :=
  [52, 51, 50, 48, 47, 46, 44, 43, 42, 41, 40, 39, 38, 36, 35, 34, 33, 32, 31, 30, 30, 29, 28, 27, 26, 25, 24, 23, 23, 22, 21, 20] ++
  [19, 19, 18, 17, 16, 16, 15, 14, 14, 13, 12, 12, 11, 10, 10, 9, 9, 8, 7, 7, 6, 6, 5, 4, 4, 3, 3, 2, 2, 1, 1, 0] ++
  [127, 125, 123, 121, 119, 118, 116, 114, 113, 111, 109, 108, 106, 105, 103, 102, 100, 99, 97, 96, 95, 93, 92, 91, 90, 88, 87, 86, 85, 84, 83, 82] ++
  [80, 79, 78, 77, 76, 75, 74, 73, 72, 71, 70, 70, 69, 68, 67, 66, 65, 64, 63, 63, 62, 61, 60, 59, 59, 58, 57, 56, 56, 55, 54, 53]
/-- Exponent and fraction of a number that is not zero: a subnormal one is shifted until its leading 1 has left the fraction. -/
def RvFmt.normal (f : RvFmt) (c : Nat) : Int × Nat :=
  let x := c / 2 ^ f.m % 2 ^ f.e
  let m := c % 2 ^ f.m
  if x = 0 then
    let k := f.m - Nat.log2 m
    (1 - (k : Int), m * 2 ^ k % 2 ^ f.m)
  else (x, m)
def RvFmt.rec7 (f : RvFmt) (rm c : Nat) : Nat × Nat :=
  let s := f.isNeg c
  match f.unpack c with
  | .nan g => f.ofNan [.nan g]
  | .inf _ => (f.sign s 0, 0)
  | .fin _ m _ =>
    if m = 0 then (f.sign s f.inf, 8)
    else
      let (x, n) := f.normal c
      if x < -1 then
        let big := rm = 1 || (rm = 2 && !s) || (rm = 3 && s)
        (f.sign s (if big then f.inf - 1 else f.inf), 5)
      else
        let sig := rvRec7.getD (n / 2 ^ (f.m - 7)) 0 * 2 ^ (f.m - 7)
        let y := 2 * (f.bias : Int) - 1 - x
        if y = 0 then (f.sign s (sig / 2 + 2 ^ (f.m - 1)), 0)
        else if y < 0 then (f.sign s ((sig / 2 + 2 ^ (f.m - 1)) / 2), 0)
        else (f.sign s (y.toNat * 2 ^ f.m + sig), 0)
def RvFmt.rsqrt7 (f : RvFmt) (c : Nat) : Nat × Nat :=
  let s := f.isNeg c
  match f.unpack c with
  | .nan g => f.ofNan [.nan g]
  | .inf _ => if s then f.invalid else (0, 0)
  | .fin _ m _ =>
    if m = 0 then (f.sign s f.inf, 8)
    else if s then f.invalid
    else
      let (x, n) := f.normal c
      let sig := rvRsqrt7.getD ((x % 2).toNat * 64 + n / 2 ^ (f.m - 6)) 0 * 2 ^ (f.m - 7)
      (((3 * (f.bias : Int) - 1 - x) / 2).toNat * 2 ^ f.m + sig, 0)

end Sys2Proof.Machine
end

