-- ==== Sys2Proof/Machine/RvCore.lean ====
section
/-! DEFINITION. The transform core (R225, R226): its memory, RV64IMC, the F and D extensions and the control registers they bring. The manual
names the architecture; encodings and meanings are those of the RISC-V manuals (log 8). A routine's registers are words; values in between are
numbers. -/
namespace Sys2Proof.Machine
open Sys2Proof

/-- What an instruction gives: the state after it, or the `mcause` of its trap. -/
abbrev RvRes := Rv ⊕ Nat
/-- The causes of traps (R226). -/
def rvIllegal : RvRes := .inr 2
def RvRes.andThen (r : RvRes) (f : Rv → RvRes) : RvRes :=
  match r with
  | .inl t => f t
  | .inr c => .inr c

/-! Registers. -/

def sx64 (w v : Nat) : Nat := (signed w (v % 2 ^ w) % (2 ^ 64 : Nat)).toNat
def Rv.xr (r : Rv) (n : Nat) : Nat := if n = 0 then 0 else (r.x.getD n 0).toNat
def Rv.setX (r : Rv) (n v : Nat) : Rv := if n = 0 then r else { r with x := r.x.set n (BitVec.ofNat 64 v) }
def Rv.fr (r : Rv) (n : Nat) : Nat := (r.f.getD n 0).toNat
def Rv.setF (r : Rv) (n v : Nat) : Rv := { r with f := r.f.set n (BitVec.ofNat 64 v) }
/-- An f register read in a format: a binary32 that is not NaN-boxed reads as the canonical NaN. -/
def Rv.fRead (r : Rv) (f : RvFmt) (n : Nat) : Nat :=
  if f.width = 64 then r.fr n else if r.fr n / 2 ^ 32 = 2 ^ 32 - 1 then r.fr n % 2 ^ 32 else f.nan
/-- A value written to an f register, NaN-boxed. -/
def Rv.fWrite (r : Rv) (f : RvFmt) (n v : Nat) : Rv := r.setF n (if f.width = 64 then v else v + (2 ^ 32 - 1) * 2 ^ 32)
def Rv.raiseF (r : Rv) (fl : Nat) : Rv := { r with fflags := r.fflags ||| fl }
def Rv.next (r : Rv) (len : Nat) : Rv := { r with pc := r.pc + len }

/-! Memory (R225): 32 KiB; code is read and executed only. -/

/-- A byte of the address space. DESIGN CHOICE: the input buffer beyond the rows of the command, which R225 leaves open, reads 0 (log 8). -/
def Rv.byteAt (r : Rv) (a : Nat) : Byte :=
  match Sp.get none r.mem a with
  | some b => b
  | none =>
    if a < 0x1000 then r.code.getD a 0
    else if 0x2000 ≤ a && a < 0x5000 then ((r.input.getD ((a - 0x2000) / 128) 0).toNat >>> ((a - 0x2000) % 128 * 8)) % 256
    else 0
def Rv.bytes (r : Rv) (a n : Nat) : Nat := ofBytesLE ((List.range n).map fun i => r.byteAt (a + i))
/-- Load n bytes: misaligned, then outside, traps. -/
def Rv.load (r : Rv) (a n : Nat) : Nat ⊕ Nat :=
  if a % n ≠ 0 then .inr 4 else if 0x8000 < a + n then .inr 5 else .inl (r.bytes a n)
def Rv.poke (r : Rv) (a : Nat) : List Byte → Rv
  | [] => r
  | b :: l => Rv.poke { r with mem := Sp.put none r.mem a (some b) } (a + 1) l
/-- Store n bytes. -/
def Rv.store (r : Rv) (a n v : Nat) : RvRes :=
  if a % n ≠ 0 then .inr 6 else if a < 0x1000 || 0x8000 < a + n then .inr 7 else .inl (r.poke a (bytesLE n v))

/-! Control registers: `fflags`, `frm`, `fcsr`, `vstart`, `vxsat`, `vxrm`, `vcsr`, `vl`, `vtype`, `vlenb`. -/

def Rv.csr (r : Rv) (n : Nat) : Option Nat :=
  match n with
  | 0x001 => some r.fflags
  | 0x002 => some r.frm
  | 0x003 => some (r.frm * 32 + r.fflags)
  | 0x008 => some r.vstart
  | 0x009 => some r.vxsat
  | 0x00a => some r.vxrm
  | 0x00f => some (r.vxrm * 2 + r.vxsat)
  | 0xc20 => some r.vl
  | 0xc21 => some r.vtype
  | 0xc22 => some 64
  | _ => none
def Rv.setCsr (r : Rv) (n v : Nat) : Option Rv :=
  match n with
  | 0x001 => some { r with fflags := v % 32 }
  | 0x002 => some { r with frm := v % 8 }
  | 0x003 => some { r with fflags := v % 32, frm := v / 32 % 8 }
  | 0x008 => some { r with vstart := v % 512 }
  | 0x009 => some { r with vxsat := v % 2 }
  | 0x00a => some { r with vxrm := v % 4 }
  | 0x00f => some { r with vxsat := v % 2, vxrm := v / 2 % 4 }
  | _ => none
/-- `csrrw`, `csrrs`, `csrrc` by op 1 to 3; a set or clear from x0 or 0 writes nothing. -/
def Rv.csrOp (r : Rv) (op n rd src : Nat) (writes : Bool) : RvRes :=
  match r.csr n with
  | none => rvIllegal
  | some old =>
    let v := match op with
      | 1 => src
      | 2 => old ||| src
      | _ => old &&& (2 ^ 64 - 1 - src)
    if op = 1 || writes then
      match r.setCsr n v with
      | some t => .inl ((t.setX rd old).next 4)
      | none => rvIllegal
    else .inl ((r.setX rd old).next 4)
/-- The rounding mode of an instruction: its own, or `frm`; none when reserved. -/
def Rv.mode (r : Rv) (rm : Nat) : Option Nat :=
  let m := if rm = 7 then r.frm else rm
  if m < 5 then some m else none

/-! Integer operations on w bits, operands below 2^w. -/

/-- The operations of OP and OP-IMM; `alt` the subtraction and the arithmetic shift. -/
def rvAlu (w op : Nat) (alt : Bool) (a b : Nat) : Nat :=
  match op with
  | 0 => (if alt then a + 2 ^ w - b else a + b) % 2 ^ w
  | 1 => a * 2 ^ (b % w) % 2 ^ w
  | 2 => if signed w a < signed w b then 1 else 0
  | 3 => if a < b then 1 else 0
  | 4 => a ^^^ b
  | 5 => if alt then (signed w a / (2 ^ (b % w) : Nat) % (2 ^ w : Nat)).toNat else a / 2 ^ (b % w)
  | 6 => a ||| b
  | _ => a &&& b
/-- Quotient and remainder, signed or not: by zero all ones and the dividend; the least number by -1 is itself, with remainder 0. -/
def rvQuot (w : Nat) (sgn : Bool) (a b : Nat) : Nat :=
  if b = 0 then 2 ^ w - 1 else if sgn then ((signed w a).tdiv (signed w b) % (2 ^ w : Nat)).toNat else a / b
def rvRem (w : Nat) (sgn : Bool) (a b : Nat) : Nat :=
  if b = 0 then a else if sgn then ((signed w a).tmod (signed w b) % (2 ^ w : Nat)).toNat else a % b
/-- The upper half of a product. -/
def rvMulh (w : Nat) (a b : Int) : Nat := (a * b / (2 ^ w : Nat) % (2 ^ w : Nat)).toNat
/-- The operations of the M extension. -/
def rvMul (w op a b : Nat) : Nat :=
  match op with
  | 0 => a * b % 2 ^ w
  | 1 => rvMulh w (signed w a) (signed w b)
  | 2 => rvMulh w (signed w a) b
  | 3 => rvMulh w a b
  | 4 => rvQuot w true a b
  | 5 => rvQuot w false a b
  | 6 => rvRem w true a b
  | _ => rvRem w false a b

/-! Fields of an instruction word. -/

def rvF (i off len : Nat) : Nat := i / 2 ^ off % 2 ^ len
def rvRd (i : Nat) : Nat := rvF i 7 5
def rvRs1 (i : Nat) : Nat := rvF i 15 5
def rvRs2 (i : Nat) : Nat := rvF i 20 5
def rvF3 (i : Nat) : Nat := rvF i 12 3
def rvImmI (i : Nat) : Nat := sx64 12 (rvF i 20 12)
def rvImmS (i : Nat) : Nat := sx64 12 (rvF i 25 7 * 32 + rvF i 7 5)
def rvImmB (i : Nat) : Nat := sx64 13 (rvF i 31 1 * 2 ^ 12 + rvF i 7 1 * 2 ^ 11 + rvF i 25 6 * 32 + rvF i 8 4 * 2)
def rvImmU (i : Nat) : Nat := sx64 32 (rvF i 12 20 * 2 ^ 12)
def rvImmJ (i : Nat) : Nat := sx64 21 (rvF i 31 1 * 2 ^ 20 + rvF i 12 8 * 2 ^ 12 + rvF i 20 1 * 2 ^ 11 + rvF i 21 10 * 2)
def add64 (a b : Nat) : Nat := (a + b) % 2 ^ 64

/-! Compressed instructions: each stands for one 32-bit word (C extension with D). -/

def rvEncI (op f3 rd rs1 imm : Nat) : Nat := imm % 2 ^ 12 * 2 ^ 20 + rs1 * 2 ^ 15 + f3 * 2 ^ 12 + rd * 2 ^ 7 + op
def rvEncS (op f3 rs1 rs2 imm : Nat) : Nat :=
  imm / 32 % 128 * 2 ^ 25 + rs2 * 2 ^ 20 + rs1 * 2 ^ 15 + f3 * 2 ^ 12 + imm % 32 * 2 ^ 7 + op
def rvEncR (op f3 f7 rd rs1 rs2 : Nat) : Nat := f7 * 2 ^ 25 + rs2 * 2 ^ 20 + rs1 * 2 ^ 15 + f3 * 2 ^ 12 + rd * 2 ^ 7 + op
def rvEncB (f3 rs1 imm : Nat) : Nat :=
  rvF imm 12 1 * 2 ^ 31 + rvF imm 5 6 * 2 ^ 25 + rs1 * 2 ^ 15 + f3 * 2 ^ 12 + rvF imm 1 4 * 2 ^ 8 + rvF imm 11 1 * 2 ^ 7 + 0x63
def rvEncJ (imm : Nat) : Nat := rvF imm 20 1 * 2 ^ 31 + rvF imm 1 10 * 2 ^ 21 + rvF imm 11 1 * 2 ^ 20 + rvF imm 12 8 * 2 ^ 12 + 0x6f
/-- Quadrant 0: loads and stores of the registers 8 to 15. -/
def rvExpand0 (h : Nat) : Option Nat :=
  let rd := 8 + rvF h 2 3
  let rs := 8 + rvF h 7 3
  let dw := rvF h 10 3 * 8 + rvF h 5 2 * 64
  let sw := rvF h 10 3 * 8 + rvF h 6 1 * 4 + rvF h 5 1 * 64
  match h / 2 ^ 13 with
  | 0 =>
    let n := rvF h 11 2 * 16 + rvF h 7 4 * 64 + rvF h 6 1 * 4 + rvF h 5 1 * 8
    if n = 0 then none else some (rvEncI 0x13 0 rd 2 n)
  | 1 => some (rvEncI 0x07 3 rd rs dw)
  | 2 => some (rvEncI 0x03 2 rd rs sw)
  | 3 => some (rvEncI 0x03 3 rd rs dw)
  | 5 => some (rvEncS 0x27 3 rs rd dw)
  | 6 => some (rvEncS 0x23 2 rs rd sw)
  | 7 => some (rvEncS 0x23 3 rs rd dw)
  | _ => none
/-- Quadrant 1: immediates, arithmetic, jumps and branches. -/
def rvExpand1 (h : Nat) : Option Nat :=
  let rd := rvF h 7 5
  let r8 := 8 + rvF h 7 3
  let s8 := 8 + rvF h 2 3
  let u := rvF h 12 1 * 32 + rvF h 2 5
  let imm := sx64 6 u
  let b := sx64 9 (rvF h 12 1 * 256 + rvF h 10 2 * 8 + rvF h 5 2 * 64 + rvF h 3 2 * 2 + rvF h 2 1 * 32)
  match h / 2 ^ 13 with
  | 0 => some (rvEncI 0x13 0 rd rd imm)
  | 1 => if rd = 0 then none else some (rvEncI 0x1b 0 rd rd imm)
  | 2 => some (rvEncI 0x13 0 rd 0 imm)
  | 3 =>
    if rd = 2 then
      let n := rvF h 12 1 * 512 + rvF h 6 1 * 16 + rvF h 5 1 * 64 + rvF h 3 2 * 128 + rvF h 2 1 * 32
      if n = 0 then none else some (rvEncI 0x13 0 2 2 (sx64 10 n))
    else if u = 0 then none else some (imm % 2 ^ 20 * 2 ^ 12 + rd * 2 ^ 7 + 0x37)
  | 4 => match rvF h 10 2 with
    | 0 => some (rvEncI 0x13 5 r8 r8 u)
    | 1 => some (rvEncI 0x13 5 r8 r8 (u + 0x400))
    | 2 => some (rvEncI 0x13 7 r8 r8 imm)
    | _ => match rvF h 12 1 * 4 + rvF h 5 2 with
      | 0 => some (rvEncR 0x33 0 0x20 r8 r8 s8)
      | 1 => some (rvEncR 0x33 4 0 r8 r8 s8)
      | 2 => some (rvEncR 0x33 6 0 r8 r8 s8)
      | 3 => some (rvEncR 0x33 7 0 r8 r8 s8)
      | 4 => some (rvEncR 0x3b 0 0x20 r8 r8 s8)
      | 5 => some (rvEncR 0x3b 0 0 r8 r8 s8)
      | _ => none
  | 5 =>
    let n := rvF h 12 1 * 2 ^ 11 + rvF h 11 1 * 16 + rvF h 9 2 * 256 + rvF h 8 1 * 1024 + rvF h 7 1 * 64 + rvF h 6 1 * 128 + rvF h 3 3 * 2 + rvF h 2 1 * 32
    some (rvEncJ (sx64 12 n))
  | 6 => some (rvEncB 0 r8 b)
  | _ => some (rvEncB 1 r8 b)
/-- Quadrant 2: stack accesses, moves, jumps to registers. -/
def rvExpand2 (h : Nat) : Option Nat :=
  let rd := rvF h 7 5
  let rs := rvF h 2 5
  let dw := rvF h 12 1 * 32 + rvF h 5 2 * 8 + rvF h 2 3 * 64
  match h / 2 ^ 13 with
  | 0 => some (rvEncI 0x13 1 rd rd (rvF h 12 1 * 32 + rs))
  | 1 => some (rvEncI 0x07 3 rd 2 dw)
  | 2 => if rd = 0 then none else some (rvEncI 0x03 2 rd 2 (rvF h 12 1 * 32 + rvF h 4 3 * 4 + rvF h 2 2 * 64))
  | 3 => if rd = 0 then none else some (rvEncI 0x03 3 rd 2 dw)
  | 4 =>
    if rvF h 12 1 = 0 then
      if rs ≠ 0 then some (rvEncR 0x33 0 0 rd 0 rs) else if rd = 0 then none else some (rvEncI 0x67 0 0 rd 0)
    else if rs ≠ 0 then some (rvEncR 0x33 0 0 rd rd rs)
    else if rd = 0 then some 0x00100073 else some (rvEncI 0x67 0 1 rd 0)
  | 5 => some (rvEncS 0x27 3 2 rs (rvF h 10 3 * 8 + rvF h 7 3 * 64))
  | 6 => some (rvEncS 0x23 2 2 rs (rvF h 9 4 * 4 + rvF h 7 2 * 64))
  | _ => some (rvEncS 0x23 3 2 rs (rvF h 10 3 * 8 + rvF h 7 3 * 64))
/-- The 32-bit word that a 16-bit one stands for; none where it is reserved. -/
def rvExpand (h : Nat) : Option Nat :=
  match h % 4 with
  | 0 => rvExpand0 h
  | 1 => rvExpand1 h
  | 2 => rvExpand2 h
  | _ => none

/-! Integer instructions. -/

/-- A load of 2^(op mod 4) bytes, sign- or zero-extended. -/
def Rv.loadX (r : Rv) (len i : Nat) : RvRes :=
  let op := rvF3 i
  let n := 2 ^ (op % 4)
  if op = 7 then rvIllegal
  else match r.load (add64 (r.xr (rvRs1 i)) (rvImmI i)) n with
    | .inl v => .inl ((r.setX (rvRd i) (if op < 4 then sx64 (8 * n) v else v)).next len)
    | .inr c => .inr c
def Rv.storeX (r : Rv) (len i : Nat) : RvRes :=
  let op := rvF3 i
  if 3 < op then rvIllegal
  else (r.store (add64 (r.xr (rvRs1 i)) (rvImmS i)) (2 ^ op) (r.xr (rvRs2 i) % 2 ^ (8 * 2 ^ op))).andThen fun t => .inl (t.next len)
/-- OP-IMM on w bits. -/
def Rv.opImm (r : Rv) (w len i : Nat) : RvRes :=
  let op := rvF3 i
  let a := r.xr (rvRs1 i) % 2 ^ w
  let bits := if w = 64 then 6 else 5
  let hi := rvF i (20 + bits) (12 - bits)
  let alt := hi = 2 ^ (10 - bits)
  let put (v : Nat) : RvRes := .inl ((r.setX (rvRd i) (sx64 w v)).next len)
  if op = 1 then (if hi = 0 then put (rvAlu w 1 false a (rvF i 20 bits)) else rvIllegal)
  else if op = 5 then (if hi = 0 || alt then put (rvAlu w 5 alt a (rvF i 20 bits)) else rvIllegal)
  else if w = 32 && op ≠ 0 then rvIllegal
  else put (rvAlu w op false a (rvImmI i % 2 ^ w))
/-- OP on w bits, with the M extension. -/
def Rv.opReg (r : Rv) (w len i : Nat) : RvRes :=
  let op := rvF3 i
  let a := r.xr (rvRs1 i) % 2 ^ w
  let b := r.xr (rvRs2 i) % 2 ^ w
  let put (v : Nat) : RvRes := .inl ((r.setX (rvRd i) (sx64 w v)).next len)
  match rvF i 25 7 with
  | 0 => if w = 32 && !(op = 0 || op = 1 || op = 5) then rvIllegal else put (rvAlu w op false a b)
  | 0x20 => if op = 0 || op = 5 then put (rvAlu w op true a b) else rvIllegal
  | 1 => if w = 32 && (op = 1 || op = 2 || op = 3) then rvIllegal else put (rvMul w op a b)
  | _ => rvIllegal
def Rv.branch (r : Rv) (len i : Nat) : RvRes :=
  let a := r.xr (rvRs1 i)
  let b := r.xr (rvRs2 i)
  let op := rvF3 i
  let t := match op / 2 with
    | 0 => decide (a = b)
    | 2 => decide (signed 64 a < signed 64 b)
    | _ => decide (a < b)
  if op / 2 = 1 then rvIllegal else .inl (if t != (op % 2 = 1) then { r with pc := add64 r.pc (rvImmB i) } else r.next len)
/-- SYSTEM: `ecall` and `ebreak` trap; control registers. -/
def Rv.system (r : Rv) (i : Nat) : RvRes :=
  let op := rvF3 i
  let n := rvF i 20 12
  let rd := rvRd i
  let rs := rvRs1 i
  match op with
  | 0 => if rd ≠ 0 || rs ≠ 0 then rvIllegal else if n = 0 then .inr 11 else if n = 1 then .inr 3 else rvIllegal
  | 4 => rvIllegal
  | _ => if op < 4 then r.csrOp op n rd (r.xr rs) (rs != 0) else r.csrOp (op - 4) n rd rs (rs != 0)

/-! Floating-point instructions. -/

def rvFmtOf (n : Nat) : Option RvFmt := if n = 0 then some rvF32 else if n = 1 then some rvF64 else none
/-- A float result with its flags. -/
def Rv.putF (r : Rv) (f : RvFmt) (rd : Nat) (v : Nat × Nat) : RvRes := .inl (((r.fWrite f rd v.1).raiseF v.2).next 4)
def Rv.putX (r : Rv) (rd : Nat) (v fl : Nat) : RvRes := .inl (((r.setX rd v).raiseF fl).next 4)
/-- `fmadd`, `fmsub`, `fnmsub`, `fnmadd` by op 0 to 3. -/
def Rv.fused (r : Rv) (op i : Nat) : RvRes :=
  match rvFmtOf (rvF i 25 2), r.mode (rvF3 i) with
  | some f, some rm =>
    let a := r.fRead f (rvRs1 i)
    let c := r.fRead f (rvF i 27 5)
    r.putF f (rvRd i) (f.fma rm (if op = 2 || op = 3 then f.neg a else a) (r.fRead f (rvRs2 i)) (if op = 1 || op = 3 then f.neg c else c))
  | _, _ => rvIllegal
/-- OP-FP of a format. -/
def Rv.opFp (r : Rv) (i : Nat) : RvRes :=
  match rvFmtOf (rvF i 25 2) with
  | none => rvIllegal
  | some f =>
    let rd := rvRd i
    let n2 := rvRs2 i
    let op := rvF3 i
    let a := r.fRead f (rvRs1 i)
    let b := r.fRead f n2
    let rounded (g : Nat → RvRes) : RvRes := match r.mode op with
      | some rm => g rm
      | none => rvIllegal
    match rvF i 27 5 with
    | 0 => rounded fun rm => r.putF f rd (f.add rm a b)
    | 1 => rounded fun rm => r.putF f rd (f.sub rm a b)
    | 2 => rounded fun rm => r.putF f rd (f.mul rm a b)
    | 3 => rounded fun rm => r.putF f rd (f.div rm a b)
    | 11 => if n2 ≠ 0 then rvIllegal else rounded fun rm => r.putF f rd (f.sqrt rm a)
    | 4 => if 2 < op then rvIllegal else r.putF f rd (f.inject op a b, 0)
    | 5 => if 1 < op then rvIllegal else r.putF f rd (f.minMax (op = 1) a b)
    | 8 => match rvFmtOf n2 with
      | some g => if f = g then rvIllegal else rounded fun rm => r.putF f rd (rvConvert g f rm (r.fRead g (rvRs1 i)))
      | none => rvIllegal
    | 20 => if 2 < op then rvIllegal else let (t, fl) := f.compare op a b; r.putX rd (if t then 1 else 0) fl
    | 24 =>
      if 3 < n2 then rvIllegal
      else rounded fun rm =>
        let w := if n2 < 2 then 32 else 64
        let (v, fl) := f.toInt rm (n2 % 2 = 0) w a
        r.putX rd (sx64 w v) fl
    | 26 =>
      if 3 < n2 then rvIllegal
      else rounded fun rm =>
        let w := if n2 < 2 then 32 else 64
        let x := r.xr (rvRs1 i) % 2 ^ w
        r.putF f rd (f.ofInt rm (if n2 % 2 = 0 then signed w x else x))
    | 28 =>
      if n2 ≠ 0 then rvIllegal
      else if op = 0 then r.putX rd (sx64 f.width (r.fr (rvRs1 i) % 2 ^ f.width)) 0
      else if op = 1 then r.putX rd (2 ^ f.classOf a) 0
      else rvIllegal
    | 30 => if n2 ≠ 0 || op ≠ 0 then rvIllegal else r.putF f rd (r.xr (rvRs1 i) % 2 ^ f.width, 0)
    | _ => rvIllegal
/-- A scalar float load or store of format f. -/
def Rv.loadF (r : Rv) (f : RvFmt) (len i : Nat) : RvRes :=
  match r.load (add64 (r.xr (rvRs1 i)) (rvImmI i)) (f.width / 8) with
  | .inl v => .inl ((r.fWrite f (rvRd i) v).next len)
  | .inr c => .inr c
def Rv.storeF (r : Rv) (f : RvFmt) (len i : Nat) : RvRes :=
  (r.store (add64 (r.xr (rvRs1 i)) (rvImmS i)) (f.width / 8) (r.fr (rvRs2 i) % 2 ^ f.width)).andThen fun t => .inl (t.next len)

end Sys2Proof.Machine
end

