-- ==== Sys2Proof/Machine/RvVector.lean ====
section
/-! DEFINITION. The transform core's vector extension (R226): Zve64d with VLEN = 512 and ELEN = 64, by the RISC-V vector manual 1.0 (log 8).
Every reserved configuration, encoding or overlap of register groups is an illegal instruction. -/
namespace Sys2Proof.Machine
open Sys2Proof

/-! `vtype` (R226): LMUL is counted in eighths of a register. -/

def Rv.vill (r : Rv) : Bool := 2 ^ 63 ≤ r.vtype
def Rv.sew (r : Rv) : Nat := 8 * 2 ^ rvF r.vtype 3 3
def lmulOf (code : Nat) : Nat := [8, 16, 32, 64, 0, 1, 2, 4].getD code 0
def Rv.lmul (r : Rv) : Nat := lmulOf (rvF r.vtype 0 3)
def Rv.tailAny (r : Rv) : Bool := rvF r.vtype 6 1 = 1
def Rv.maskAny (r : Rv) : Bool := rvF r.vtype 7 1 = 1
/-- Elements of w bits in l eighths of a register. -/
def vlMax (w l : Nat) : Nat := 64 * l / w
/-- Whether a `vtype` value is a legal one: SEW at most 64, and at most LMUL x ELEN. -/
def vtypeOk (v : Nat) : Bool :=
  let l := lmulOf (rvF v 0 3)
  v < 2 ^ 8 && l ≠ 0 && rvF v 3 3 ≤ 3 && 8 * 2 ^ rvF v 3 3 ≤ min 64 (8 * l)
/-- `vsetvli`, `vsetivli`, `vsetvl`: the new type, the application's length (none for the longest), or the length kept. -/
def Rv.setVl (r : Rv) (rd vtype : Nat) (keep : Bool) (avl : Option Nat) : RvRes :=
  let w := 8 * 2 ^ rvF vtype 3 3
  let most := vlMax w (lmulOf (rvF vtype 0 3))
  let ok := vtypeOk vtype && !(keep && (r.vill || most ≠ vlMax r.sew r.lmul))
  let vl := if !ok then 0 else if keep then r.vl else match avl with
    | none => most
    | some n => if n ≤ most then n else if n < 2 * most then (let lo := (n + 1) / 2; lo + Config.vectorLength n most % (most - lo + 1)) else most
  .inl ((({ r with vtype := if ok then vtype else 2 ^ 63, vl, vstart := 0 } : Rv).setX rd vl).next 4)
def Rv.vset (r : Rv) (i : Nat) : RvRes :=
  let rd := rvRd i
  let rs := rvRs1 i
  let avl : Option Nat := if rs = 0 then none else some (r.xr rs)
  if rvF i 31 1 = 0 then r.setVl rd (rvF i 20 11) (rd = 0 && rs = 0) avl
  else if rvF i 30 1 = 1 then r.setVl rd (rvF i 20 10) false (some rs)
  else if rvF i 25 6 = 0 then r.setVl rd (r.xr (rvRs2 i)) (rd = 0 && rs = 0) avl
  else rvIllegal

/-! Elements and masks. -/

def Rv.vreg (r : Rv) (n : Nat) : Nat := (r.v.getD n 0).toNat
/-- Element i of w bits of the group from register b. -/
def Rv.el (r : Rv) (w b i : Nat) : Nat := r.vreg (b + i * w / 512) / 2 ^ (i * w % 512) % 2 ^ w
def Rv.putEl (r : Rv) (w b i x : Nat) : Rv :=
  let n := b + i * w / 512
  let o := i * w % 512
  let old := r.vreg n
  { r with v := r.v.set n (BitVec.ofNat 512 (old - old / 2 ^ o % 2 ^ w * 2 ^ o + x % 2 ^ w * 2 ^ o)) }
def Rv.maskBit (r : Rv) (b i : Nat) : Bool := r.el 1 b i = 1
/-- Whether element i is active. -/
def Rv.active (r : Rv) (vm : Bool) (i : Nat) : Bool := vm || r.maskBit 0 i
/-- What an element that an agnostic policy leaves open becomes: itself, or all ones (log 8). -/
def Rv.agnostic (r t : Rv) (w b i : Nat) : Rv := if Config.vectorAgnostic r.steps i then t.putEl w b i (2 ^ w - 1) else t
/-- Leave the elements from i on, n of them, to the tail policy. -/
def Rv.tail (r t : Rv) (any : Bool) (w b : Nat) (l : List Nat) : Rv := if any then l.foldl (fun t i => r.agnostic t w b i) t else t
/-- Elements that a register group of l eighths ends with: a group below one register takes the whole of it. -/
def groupEnd (w l : Nat) : Nat := vlMax w (max 8 l)
def rangeFrom (a b : Nat) : List Nat := (List.range (b - a)).map (a + ·)
/-- Flags of a vector instruction: the float flags, and 32 for saturation. -/
def Rv.raiseV (r : Rv) (fl : Nat) : Rv := { r with fflags := r.fflags ||| fl % 32, vxsat := r.vxsat ||| fl / 32 % 2 }
def Rv.vdone (r : Rv) : RvRes := .inl (({ r with vstart := 0 } : Rv).next 4)
/-- Write the elements of a group: `f` gives element i (none leaves it) and its flags, from the state before. -/
def Rv.each (r : Rv) (vm : Bool) (w l d : Nat) (f : Nat → Option Nat × Nat) : RvRes :=
  if r.vl ≤ r.vstart then r.vdone
  else
    let t := (rangeFrom r.vstart r.vl).foldl (fun t i =>
      if r.active vm i then
        let (x, fl) := f i
        (match x with
          | some x => t.putEl w d i x
          | none => t).raiseV fl
      else if r.maskAny then r.agnostic t w d i else t) r
    (r.tail t r.tailAny w d (rangeFrom r.vl (groupEnd w l))).vdone
/-- Write the bits of a mask register; its tail is always agnostic, and may hold what the operation would give. -/
def Rv.eachBit (r : Rv) (vm : Bool) (d : Nat) (f : Nat → Bool × Nat) : RvRes :=
  if r.vl ≤ r.vstart then r.vdone
  else
    let t := (rangeFrom r.vstart r.vl).foldl (fun t i =>
      if r.active vm i then let (b, fl) := f i; (t.putEl 1 d i (if b then 1 else 0)).raiseV fl
      else if r.maskAny then r.agnostic t 1 d i else t) r
    ((rangeFrom r.vl 512).foldl (fun t i => t.putEl 1 d i (if Config.vectorAgnostic r.steps i then 1 else 0)) t).vdone

/-! Register groups. -/

/-- A group: first register, element width, eighths of a register. -/
abbrev VGroup := Nat × Nat × Nat
def groupRegs (g : VGroup) : Nat := max 1 (g.2.2 / 8)
def groupOk (g : VGroup) : Bool := 1 ≤ g.2.2 && g.2.2 ≤ 64 && g.1 % groupRegs g = 0 && g.1 + groupRegs g ≤ 32
def meetsGroup (a b : VGroup) : Bool := a.1 < b.1 + groupRegs b && b.1 < a.1 + groupRegs a
/-- Whether a destination may overlap a source: of equal width, a narrower one at the source's foot, a wider one at its top. -/
def overlapOk (d s : VGroup) : Bool :=
  !meetsGroup d s || d.2.1 = s.2.1 || (if d.2.1 < s.2.1 then d.1 = s.1 else 8 ≤ s.2.2 && d.1 + groupRegs d = s.1 + groupRegs s)
def maskGroup (n : Nat) : VGroup := (n, 1, 8)
/-- Whether the groups of an instruction are legal: aligned, the destination clear of the mask unless `bits`, no source of two widths. -/
def Rv.groupsOk (vm bits : Bool) (d : VGroup) (srcs : List VGroup) : Bool :=
  let all := if vm then srcs else maskGroup 0 :: srcs
  groupOk d && srcs.all groupOk && (vm || bits || d.1 ≠ 0) && srcs.all (overlapOk d) &&
  all.all fun a => all.all fun b => !meetsGroup a b || a.2.1 = b.2.1
def apart (d : VGroup) (srcs : List VGroup) : Bool := srcs.all fun s => !meetsGroup d s

/-! Integer arithmetic on elements of w bits. -/

/-- Round a value shifted right by d by `vxrm`: nearest up, nearest even, down, to odd. -/
def roundOff (xrm : Nat) (v : Int) (d : Nat) : Int :=
  let q := v / (2 ^ d : Nat)
  let rem := (v % (2 ^ d : Nat)).toNat
  let up := match xrm with
    | 0 => decide (0 < d) && decide (2 ^ d ≤ 2 * rem)
    | 1 => decide (2 ^ d < 2 * rem) || (decide (0 < d) && decide (2 * rem = 2 ^ d) && q % 2 != 0)
    | 2 => false
    | _ => rem != 0 && q % 2 == 0
  if up then q + 1 else q
def wrapI (w : Nat) (v : Int) : Nat := (v % (2 ^ w : Nat)).toNat
/-- Clip to w bits, signed or not, with the saturation flag. -/
def clipI (w : Nat) (sgn : Bool) (v : Int) : Nat × Nat :=
  let lo : Int := if sgn then -(2 ^ (w - 1) : Nat) else 0
  let hi : Int := if sgn then (2 ^ (w - 1) : Nat) - 1 else (2 ^ w : Nat) - 1
  if v < lo then (wrapI w lo, 32) else if hi < v then (wrapI w hi, 32) else (wrapI w v, 0)
def valI (w : Nat) (sgn : Bool) (a : Nat) : Int := if sgn then signed w a else a
/-- The two-operand operations of OPIVV, OPIVX and OPIVI by funct6: a of vs2, b the other operand. -/
def vIntOp (f6 w xrm a b : Nat) : Option (Nat × Nat) :=
  let sh := b % w
  let sa := signed w a
  let sb := signed w b
  match f6 with
  | 0 => some ((a + b) % 2 ^ w, 0)
  | 2 => some (wrapI w ((a : Int) - b), 0)
  | 3 => some (wrapI w ((b : Int) - a), 0)
  | 4 => some (min a b, 0)
  | 5 => some (if sa < sb then a else b, 0)
  | 6 => some (max a b, 0)
  | 7 => some (if sa < sb then b else a, 0)
  | 9 => some (a &&& b, 0)
  | 10 => some (a ||| b, 0)
  | 11 => some (a ^^^ b, 0)
  | 32 => some (clipI w false ((a : Int) + b))
  | 33 => some (clipI w true (sa + sb))
  | 34 => some (clipI w false ((a : Int) - b))
  | 35 => some (clipI w true (sa - sb))
  | 37 => some (a * 2 ^ sh % 2 ^ w, 0)
  | 39 => if w = 64 then none else some (clipI w true (roundOff xrm (sa * sb) (w - 1)))
  | 40 => some (a / 2 ^ sh, 0)
  | 41 => some (wrapI w (sa / (2 ^ sh : Nat)), 0)
  | 42 => some (wrapI w (roundOff xrm a sh), 0)
  | 43 => some (wrapI w (roundOff xrm sa sh), 0)
  | _ => none
/-- The two-operand operations of OPMVV and OPMVX by funct6. -/
def vMulOp (f6 w xrm a b : Nat) : Option (Nat × Nat) :=
  let sa := signed w a
  let sb := signed w b
  match f6 with
  | 8 => some (wrapI w (roundOff xrm ((a : Int) + b) 1), 0)
  | 9 => some (wrapI w (roundOff xrm (sa + sb) 1), 0)
  | 10 => some (wrapI w (roundOff xrm ((a : Int) - b) 1), 0)
  | 11 => some (wrapI w (roundOff xrm (sa - sb) 1), 0)
  | 32 => some (rvQuot w false a b, 0)
  | 33 => some (rvQuot w true a b, 0)
  | 34 => some (rvRem w false a b, 0)
  | 35 => some (rvRem w true a b, 0)
  | 36 => if w = 64 then none else some (rvMulh w a b, 0)
  | 37 => some (a * b % 2 ^ w, 0)
  | 38 => if w = 64 then none else some (rvMulh w sa b, 0)
  | 39 => if w = 64 then none else some (rvMulh w sa sb, 0)
  | _ => none
/-- The multiply-accumulate operations by funct6: d the destination's element. -/
def vMacOp (f6 w a b d : Nat) : Option Nat :=
  match f6 with
  | 41 => some ((d * b + a) % 2 ^ w)
  | 43 => some (wrapI w ((a : Int) - d * b))
  | 45 => some ((b * a + d) % 2 ^ w)
  | 47 => some (wrapI w ((d : Int) - b * a))
  | _ => none
/-- Compares by funct6. -/
def vCmpOp (f6 w a b : Nat) : Bool :=
  match f6 with
  | 24 => a = b
  | 25 => a ≠ b
  | 26 => a < b
  | 27 => signed w a < signed w b
  | 28 => a ≤ b
  | 29 => signed w a ≤ signed w b
  | 30 => b < a
  | _ => signed w b < signed w a
/-- Operations from w to 2w bits by funct6; a already of 2w bits for 52 to 55; d the destination's element. -/
def vWidenOp (f6 w a b d : Nat) : Option Nat :=
  let sgn := f6 % 2 = 1
  let x := if f6 / 4 = 13 then (a : Int) else valI w sgn a
  let y := valI w sgn b
  let put (v : Int) : Option Nat := some (wrapI (2 * w) v)
  match f6 with
  | 48 => put (x + y)
  | 49 => put (x + y)
  | 50 => put (x - y)
  | 51 => put (x - y)
  | 52 => put (x + y)
  | 53 => put (x + y)
  | 54 => put (x - y)
  | 55 => put (x - y)
  | 56 => put ((a : Int) * b)
  | 58 => put (signed w a * b)
  | 59 => put (signed w a * signed w b)
  | 60 => put ((a : Int) * b + d)
  | 61 => put (signed w a * signed w b + d)
  | 62 => put (signed w a * (b : Int) + d)
  | 63 => put ((a : Int) * signed w b + d)
  | _ => none

/-! An instruction of OP-V with its fields. -/

structure VIns where
  f6 : Nat
  vm : Bool
  vs2 : Nat
  vs1 : Nat
  f3 : Nat
  vd : Nat
  deriving DecidableEq, Repr
def vIns (i : Nat) : VIns := { f6 := rvF i 26 6, vm := rvF i 25 1 = 1, vs2 := rvRs2 i, vs1 := rvRs1 i, f3 := rvF3 i, vd := rvRd i }
/-- The operand form: 0 and 2 vectors, 3 an immediate, 4 and 6 an x register, 1 a float vector, 5 an f register. -/
def VIns.vv (o : VIns) : Bool := o.f3 < 3
def VIns.vi (o : VIns) : Bool := o.f3 = 3
def VIns.vx (o : VIns) : Bool := o.f3 = 4 || o.f3 = 6
/-- The second operand for element i, of w bits; an immediate is sign-extended, or not. -/
def Rv.operand (r : Rv) (o : VIns) (w : Nat) (zext : Bool) (i : Nat) : Nat :=
  if o.vv then r.el w o.vs1 i else if o.vi then (if zext then o.vs1 else sx64 5 o.vs1 % 2 ^ w) else r.xr o.vs1 % 2 ^ w
def Rv.group (r : Rv) (n : Nat) : VGroup := (n, r.sew, r.lmul)
def Rv.wide (r : Rv) (n : Nat) : VGroup := (n, 2 * r.sew, 2 * r.lmul)
/-- The sources of an instruction whose operands have the width of SEW. -/
def Rv.sources (r : Rv) (o : VIns) : List VGroup := r.group o.vs2 :: if o.vv then [r.group o.vs1] else []
/-- Whether a funct6 of OPI has a form. -/
def intForm (o : VIns) : Bool :=
  let vxi := [0, 9, 10, 11, 32, 33, 37, 40, 41, 42, 43]
  let vx := [2, 4, 5, 6, 7, 34, 35, 39]
  vxi.contains o.f6 || (vx.contains o.f6 && !o.vi) || (o.f6 = 3 && !o.vv)
def cmpForm (o : VIns) : Bool :=
  ([24, 25, 28, 29].contains o.f6) || ([26, 27].contains o.f6 && !o.vi) || ([30, 31].contains o.f6 && !o.vv)
/-- Gather: elements of vs2 by indices of another width, or by one index. -/
def Rv.gather (r : Rv) (o : VIns) (iw il : Nat) : RvRes :=
  let w := r.sew
  let d := r.group o.vd
  let srcs : List VGroup := r.group o.vs2 :: if o.vv then [(o.vs1, iw, il)] else []
  if !Rv.groupsOk o.vm false d srcs || !apart d srcs then rvIllegal
  else r.each o.vm w r.lmul o.vd fun i =>
    let k := if o.vv then r.el iw o.vs1 i else if o.vi then o.vs1 else r.xr o.vs1
    (some (if k < vlMax w r.lmul then r.el w o.vs2 k else 0), 0)
/-- Slides by a count. -/
def Rv.slide (r : Rv) (o : VIns) (up : Bool) : RvRes :=
  let w := r.sew
  let n := if o.vi then o.vs1 else r.xr o.vs1
  if o.vv || !Rv.groupsOk o.vm false (r.group o.vd) [r.group o.vs2] || (up && !apart (r.group o.vd) [r.group o.vs2]) then rvIllegal
  else r.each o.vm w r.lmul o.vd fun i =>
    if up then (if i < n then none else some (r.el w o.vs2 (i - n)), 0)
    else (some (if i + n < vlMax w r.lmul then r.el w o.vs2 (i + n) else 0), 0)
/-- Slides by one, with a scalar x moving in. -/
def Rv.slide1 (r : Rv) (o : VIns) (up : Bool) (x : Nat) : RvRes :=
  let w := r.sew
  if !Rv.groupsOk o.vm false (r.group o.vd) [r.group o.vs2] || (up && !apart (r.group o.vd) [r.group o.vs2]) then rvIllegal
  else r.each o.vm w r.lmul o.vd fun i =>
    (some (if up then (if i = 0 then x else r.el w o.vs2 (i - 1)) else if i + 1 = r.vl then x else r.el w o.vs2 (i + 1)), 0)
/-- Additions and subtractions with carry, and their carries, by funct6 16 to 19. -/
def Rv.carries (r : Rv) (o : VIns) : RvRes :=
  let w := r.sew
  let c (i : Nat) : Int := if !o.vm && r.maskBit 0 i then 1 else 0
  let v (i : Nat) : Int :=
    let a : Int := r.el w o.vs2 i
    let b : Int := r.operand o w false i
    if o.f6 < 18 then a + b + c i else a - b - c i
  if 18 ≤ o.f6 && o.vi then rvIllegal
  else if o.f6 % 2 = 0 then
    if o.vm || !Rv.groupsOk false false (r.group o.vd) (r.sources o) then rvIllegal
    else r.each true w r.lmul o.vd fun i => (some (wrapI w (v i)), 0)
  else if !Rv.groupsOk o.vm true (maskGroup o.vd) (r.sources o) then rvIllegal
  else r.eachBit true o.vd fun i => (v i < 0 || (2 ^ w : Nat) ≤ v i, 0)
/-- `vmerge` and `vmv.v`. -/
def Rv.merge (r : Rv) (o : VIns) (b : Nat → Nat) : RvRes :=
  let w := r.sew
  let srcs : List VGroup := (if o.vm then [] else [r.group o.vs2]) ++ if o.vv then [r.group o.vs1] else []
  if (o.vm && o.vs2 ≠ 0) || !Rv.groupsOk o.vm false (r.group o.vd) srcs then rvIllegal
  else r.each true w r.lmul o.vd fun i => (some (if o.vm || r.maskBit 0 i then b i else r.el w o.vs2 i), 0)
/-- Narrowing shifts and clips by funct6 44 to 47. -/
def Rv.narrow (r : Rv) (o : VIns) : RvRes :=
  let w := r.sew
  let srcs : List VGroup := r.wide o.vs2 :: if o.vv then [r.group o.vs1] else []
  if 32 < w || !Rv.groupsOk o.vm false (r.group o.vd) srcs then rvIllegal
  else r.each o.vm w r.lmul o.vd fun i =>
    let a := valI (2 * w) (o.f6 % 2 = 1) (r.el (2 * w) o.vs2 i)
    let n := r.operand o w true i % (2 * w)
    let (x, fl) := if o.f6 < 46 then (wrapI w (a / (2 ^ n : Nat)), 0) else clipI w (o.f6 = 47) (roundOff r.vxrm a n)
    (some x, fl)
/-- Whole registers: 1, 2, 4 or 8 of them. -/
def Rv.moveWhole (r : Rv) (o : VIns) : RvRes :=
  let n := o.vs1 + 1
  if !o.vm || !([1, 2, 4, 8].contains n) || o.vd % n ≠ 0 || o.vs2 % n ≠ 0 then rvIllegal
  else
    let w := r.sew
    let most := n * (512 / w)
    if most ≤ r.vstart then r.vdone
    else ((rangeFrom r.vstart most).foldl (fun t i => t.putEl w o.vd i (r.el w o.vs2 i)) r).vdone
/-- A reduction over the active elements: element 0 of vd from element 0 of vs1, d bits wide. -/
def Rv.reduce (r : Rv) (o : VIns) (w dw : Nat) (f : Nat → List Nat → Nat × Nat) : RvRes :=
  let src := r.group o.vs2
  if !o.vv || r.vstart ≠ 0 || !groupOk src || (meetsGroup (o.vs1, dw, 8) src && dw ≠ w) ||
    (!o.vm && (meetsGroup (maskGroup 0) src || o.vs1 = 0)) then rvIllegal
  else if r.vl = 0 then r.vdone
  else
    let l := ((List.range r.vl).filter (r.active o.vm)).map (r.el w o.vs2)
    let (x, fl) := f (r.el dw o.vs1 0) l
    let t := (r.putEl dw o.vd 0 x).raiseV fl
    (r.tail t r.tailAny dw o.vd (rangeFrom 1 (512 / dw))).vdone
/-- OPIVV, OPIVX, OPIVI. -/
def Rv.opInt (r : Rv) (o : VIns) : RvRes :=
  let w := r.sew
  let f := o.f6
  if intForm o && !(f = 39 && o.vi) then
    if !Rv.groupsOk o.vm false (r.group o.vd) (r.sources o) || (vIntOp f w r.vxrm 0 0).isNone then rvIllegal
    else r.each o.vm w r.lmul o.vd fun i =>
      match vIntOp f w r.vxrm (r.el w o.vs2 i) (r.operand o w (37 ≤ f) i) with
      | some (x, fl) => (some x, fl)
      | none => (none, 0)
  else if f = 39 && o.vi then r.moveWhole o
  else if f = 12 then r.gather o w r.lmul
  else if f = 14 then (if o.vv then r.gather o 16 (16 * r.lmul / w) else r.slide o true)
  else if f = 15 then r.slide o false
  else if 16 ≤ f && f ≤ 19 then r.carries o
  else if f = 23 then r.merge o (r.operand o w false)
  else if 24 ≤ f && f ≤ 31 then
    if !cmpForm o || !Rv.groupsOk o.vm true (maskGroup o.vd) (r.sources o) then rvIllegal
    else r.eachBit o.vm o.vd fun i => (vCmpOp f w (r.el w o.vs2 i) (r.operand o w false i), 0)
  else if 44 ≤ f && f ≤ 47 then r.narrow o
  else if (f = 48 || f = 49) && w ≤ 32 then
    r.reduce o w (2 * w) fun a l => (wrapI (2 * w) (l.foldl (fun t x => t + valI w (f = 49) x) (a : Int)), 0)
  else rvIllegal

/-! OPMVV and OPMVX. -/

/-- Integer reductions by funct6 0 to 7. -/
def vRedOp (f6 w a b : Nat) : Nat :=
  match f6 with
  | 0 => (a + b) % 2 ^ w
  | 1 => a &&& b
  | 2 => a ||| b
  | 3 => a ^^^ b
  | 4 => min a b
  | 5 => if signed w a < signed w b then a else b
  | 6 => max a b
  | _ => if signed w a < signed w b then b else a
/-- The mask operations by funct6 24 to 31. -/
def maskOp (f6 : Nat) (a b : Bool) : Bool :=
  match f6 with
  | 24 => a && !b
  | 25 => a && b
  | 26 => a || b
  | 27 => a != b
  | 28 => a || !b
  | 29 => !(a && b)
  | 30 => !(a || b)
  | _ => a == b
/-- Active elements whose mask bit is set. -/
def Rv.setBits (r : Rv) (o : VIns) : List Nat := (List.range r.vl).filter fun i => r.active o.vm i && r.maskBit o.vs2 i
/-- `vmv.x.s`, `vcpop.m`, `vfirst.m`; `vmv.s.x`. -/
def Rv.unaryX (r : Rv) (o : VIns) : RvRes :=
  if o.f3 = 6 then
    if o.vs2 ≠ 0 || !o.vm then rvIllegal
    else if r.vl ≤ r.vstart then r.vdone
    else (r.tail (r.putEl r.sew o.vd 0 (r.xr o.vs1)) r.tailAny r.sew o.vd (rangeFrom 1 (512 / r.sew))).vdone
  else match o.vs1 with
    | 0 => if !o.vm then rvIllegal else (r.setX o.vd (sx64 r.sew (r.el r.sew o.vs2 0))).vdone
    | 16 => if r.vstart ≠ 0 then rvIllegal else (r.setX o.vd (r.setBits o).length).vdone
    | 17 => if r.vstart ≠ 0 then rvIllegal else (r.setX o.vd ((r.setBits o).headD (2 ^ 64 - 1))).vdone
    | _ => rvIllegal
/-- `vzext` and `vsext` by vs1. -/
def Rv.extend (r : Rv) (o : VIns) : RvRes :=
  let n := [0, 0, 8, 8, 4, 4, 2, 2].getD o.vs1 0
  let w := r.sew
  if n = 0 || w < 8 * n || r.lmul < n || !Rv.groupsOk o.vm false (r.group o.vd) [(o.vs2, w / n, r.lmul / n)] then rvIllegal
  else r.each o.vm w r.lmul o.vd fun i => (some (wrapI w (valI (w / n) (o.vs1 % 2 = 1) (r.el (w / n) o.vs2 i))), 0)
/-- `vmsbf`, `vmsof`, `vmsif`, `viota`, `vid` by vs1. -/
def Rv.unaryMask (r : Rv) (o : VIns) : RvRes :=
  let w := r.sew
  let first := (r.setBits o).head?
  let bits (f : Nat → Bool) : RvRes :=
    if r.vstart ≠ 0 || o.vd = o.vs2 || (!o.vm && (o.vd = 0 || o.vs2 = 0 && o.vd = 0)) then rvIllegal else r.eachBit o.vm o.vd fun i => (f i, 0)
  let before (i : Nat) : Bool := match first with
    | some n => i < n
    | none => true
  match o.vs1 with
  | 1 => bits before
  | 2 => bits fun i => first == some i
  | 3 => bits fun i => before i || first == some i
  | 16 =>
    if r.vstart ≠ 0 || !groupOk (r.group o.vd) || meetsGroup (r.group o.vd) (maskGroup o.vs2) || (!o.vm && o.vd = 0) then rvIllegal
    else r.each o.vm w r.lmul o.vd fun i => (some (((r.setBits o).filter (· < i)).length % 2 ^ w), 0)
  | 17 =>
    if o.vs2 ≠ 0 || !Rv.groupsOk o.vm false (r.group o.vd) [] then rvIllegal else r.each o.vm w r.lmul o.vd fun i => (some (i % 2 ^ w), 0)
  | _ => rvIllegal
/-- `vcompress`: the elements of vs2 at the set bits of vs1, side by side. -/
def Rv.compress (r : Rv) (o : VIns) : RvRes :=
  let w := r.sew
  let d := r.group o.vd
  if !o.vm || r.vstart ≠ 0 || !groupOk d || !groupOk (r.group o.vs2) || !apart d [r.group o.vs2, maskGroup o.vs1] ||
    meetsGroup (r.group o.vs2) (maskGroup o.vs1) then rvIllegal
  else if r.vl = 0 then r.vdone
  else
    let l := (List.range r.vl).filter (r.maskBit o.vs1)
    let t := l.zipIdx.foldl (fun t e => t.putEl w o.vd e.2 (r.el w o.vs2 e.1)) r
    (r.tail t r.tailAny w o.vd (rangeFrom l.length (groupEnd w r.lmul))).vdone
/-- Widening operations on integers: the sources' widths by funct6. -/
def Rv.widen (r : Rv) (o : VIns) : RvRes :=
  let w := r.sew
  let ww := 52 ≤ o.f6 && o.f6 ≤ 55
  let srcs : List VGroup := (if ww then r.wide o.vs2 else r.group o.vs2) :: if o.vv then [r.group o.vs1] else []
  if 32 < w || (o.f6 = 62 && o.vv) || (vWidenOp o.f6 w 0 0 0).isNone || !Rv.groupsOk o.vm false (r.wide o.vd) srcs then rvIllegal
  else r.each o.vm (2 * w) (2 * r.lmul) o.vd fun i =>
    (vWidenOp o.f6 w (r.el (if ww then 2 * w else w) o.vs2 i) (r.operand o w false i) (r.el (2 * w) o.vd i), 0)
def Rv.opMul (r : Rv) (o : VIns) : RvRes :=
  let w := r.sew
  let f := o.f6
  if f < 8 then r.reduce o w w fun a l => (l.foldl (vRedOp f w) a, 0)
  else if f = 14 || f = 15 then (if o.vv then rvIllegal else r.slide1 o (f = 14) (r.xr o.vs1))
  else if f = 16 then r.unaryX o
  else if f = 18 then (if o.vv then r.extend o else rvIllegal)
  else if f = 20 then (if o.vv then r.unaryMask o else rvIllegal)
  else if f = 23 then (if o.vv then r.compress o else rvIllegal)
  else if 24 ≤ f && f ≤ 31 then
    if !o.vv || !o.vm then rvIllegal else r.eachBit true o.vd fun i => (maskOp f (r.maskBit o.vs2 i) (r.maskBit o.vs1 i), 0)
  else if (vMulOp f w r.vxrm 0 0).isSome then
    if !Rv.groupsOk o.vm false (r.group o.vd) (r.sources o) then rvIllegal
    else r.each o.vm w r.lmul o.vd fun i =>
      match vMulOp f w r.vxrm (r.el w o.vs2 i) (r.operand o w false i) with
      | some (x, fl) => (some x, fl)
      | none => (none, 0)
  else if (vMacOp f w 0 0 0).isSome then
    if !Rv.groupsOk o.vm false (r.group o.vd) (r.sources o) then rvIllegal
    else r.each o.vm w r.lmul o.vd fun i => (vMacOp f w (r.el w o.vs2 i) (r.operand o w false i) (r.el w o.vd i), 0)
  else if 48 ≤ f then r.widen o
  else rvIllegal

/-! OPFVV and OPFVF. -/

def vFmt (w : Nat) : RvFmt := if w = 32 then rvF32 else rvF64
/-- The second operand as a float of w bits. -/
def Rv.operandF (r : Rv) (o : VIns) (w i : Nat) : Nat := if o.vv then r.el w o.vs1 i else r.fRead (vFmt w) o.vs1
/-- The two-operand float operations by funct6. -/
def vFloatOp (f6 : Nat) (f : RvFmt) (rm a b : Nat) : Option (Nat × Nat) :=
  match f6 with
  | 0 => some (f.add rm a b)
  | 2 => some (f.sub rm a b)
  | 4 => some (f.minMax false a b)
  | 6 => some (f.minMax true a b)
  | 8 => some (f.inject 0 a b, 0)
  | 9 => some (f.inject 1 a b, 0)
  | 10 => some (f.inject 2 a b, 0)
  | 32 => some (f.div rm a b)
  | 33 => some (f.div rm b a)
  | 36 => some (f.mul rm a b)
  | 39 => some (f.sub rm b a)
  | _ => none
/-- x * y + z with the signs of the eight fused forms: by funct6 mod 4, 0 plus, 1 both negated, 2 z negated, 3 the product negated. -/
def vFused (k : Nat) (f : RvFmt) (rm x y z : Nat) : Nat × Nat :=
  f.fma rm (if k = 1 || k = 3 then f.neg x else x) y (if k = 1 || k = 2 then f.neg z else z)
/-- Float compares by funct6; none where there is no such one. -/
def vFloatCmp (f6 : Nat) (f : RvFmt) (a b : Nat) : Option (Bool × Nat) :=
  match f6 with
  | 24 => some (f.compare 2 a b)
  | 25 => some (f.compare 0 a b)
  | 27 => some (f.compare 1 a b)
  | 28 => let (t, fl) := f.compare 2 a b; some (!t, fl)
  | 29 => some (f.compare 1 b a)
  | 31 => some (f.compare 0 b a)
  | _ => none
/-- Conversions by vs1: 0 to 7 of one width, 8 to 15 widening, 16 to 23 narrowing. -/
def Rv.convertV (r : Rv) (o : VIns) (rm : Nat) : RvRes :=
  let w := r.sew
  let k := o.vs1 % 8
  let m := if k = 6 || k = 7 then 1 else rm
  let (sw, sl, dw, dl) := match o.vs1 / 8 with
    | 0 => (w, r.lmul, w, r.lmul)
    | 1 => (w, r.lmul, 2 * w, 2 * r.lmul)
    | _ => (2 * w, 2 * r.lmul, w, r.lmul)
  let isF (x : Nat) : Bool := x = 32 || x = 64
  let fromF := k = 0 || k = 1 || k = 4 || k = 5 || k = 6 || k = 7
  let toF := 2 ≤ k && k ≤ 5
  let known := match o.vs1 / 8 with
    | 0 => k ≠ 4 && k ≠ 5
    | 1 => k ≠ 5
    | 2 => true
    | _ => false
  if !known || (fromF && !isF sw) || (toF && !isF dw) || 64 < sw || 64 < dw || !Rv.groupsOk o.vm false (o.vd, dw, dl) [(o.vs2, sw, sl)] then rvIllegal
  else r.each o.vm dw dl o.vd fun i =>
    let a := r.el sw o.vs2 i
    let (x, fl) := match k with
      | 2 => (vFmt dw).ofInt rm a
      | 3 => (vFmt dw).ofInt rm (signed sw a)
      | 4 => rvConvert (vFmt sw) (vFmt dw) rm a
      | 5 => rvConvert (vFmt sw) (vFmt dw) 5 a
      | _ => (vFmt sw).toInt m (k % 2 = 1) dw a
    (some x, fl)
/-- `vfsqrt`, `vfrsqrt7`, `vfrec7`, `vfclass` by vs1. -/
def Rv.unaryF (r : Rv) (o : VIns) (rm : Nat) : RvRes :=
  let w := r.sew
  let f := vFmt w
  let op (a : Nat) : Option (Nat × Nat) := match o.vs1 with
    | 0 => some (f.sqrt rm a)
    | 4 => some (f.rsqrt7 a)
    | 5 => some (f.rec7 rm a)
    | 16 => some (2 ^ f.classOf a, 0)
    | _ => none
  if (op 0).isNone || !Rv.groupsOk o.vm false (r.group o.vd) [r.group o.vs2] then rvIllegal
  else r.each o.vm w r.lmul o.vd fun i => match op (r.el w o.vs2 i) with
    | some (x, fl) => (some x, fl)
    | none => (none, 0)
/-- Fold a float operation over the elements, gathering flags. -/
def foldF (g : Nat → Nat → Nat × Nat) (a : Nat) (l : List Nat) : Nat × Nat :=
  l.foldl (fun s x => let (v, fl) := g s.1 x; (v, s.2 ||| fl)) (a, 0)
/-- An unordered sum: value and float flags. -/
def anySum (w rm : Nat) (l : List Nat) : Nat × Nat := ((Config.unorderedSum w rm l).1, (Config.unorderedSum w rm l).2 % 32)
/-- Float reductions; the order of an unordered sum is the implementation's, so its result is a free value (log 8). -/
def Rv.reduceF (r : Rv) (o : VIns) (rm : Nat) : RvRes :=
  let w := r.sew
  let f := vFmt w
  let g := rvF64
  match o.f6 with
  | 1 => r.reduce o w w fun a l => if l.isEmpty then (a, 0) else anySum w rm (a :: l)
  | 3 => r.reduce o w w (foldF (f.add rm))
  | 5 => r.reduce o w w (foldF (f.minMax false))
  | 7 => r.reduce o w w (foldF (f.minMax true))
  | _ =>
    let up (l : List Nat) : List Nat := l.map fun x => (rvConvert rvF32 g rm x).1
    let nv (l : List Nat) : Nat := if l.any fun x => (rvF32.unpack x).isSig then 16 else 0
    if w ≠ 32 then rvIllegal
    else if o.f6 = 51 then r.reduce o 32 64 fun a l => let (x, fl) := foldF (g.add rm) a (up l); (x, fl ||| nv l)
    else r.reduce o 32 64 fun a l => if l.isEmpty then (a, 0) else anySum 64 rm (a :: up l)
/-- Widening float operations: f32 to f64. -/
def Rv.widenF (r : Rv) (o : VIns) (rm : Nat) : RvRes :=
  let g := rvF64
  let ww := o.f6 = 52 || o.f6 = 54
  let srcs : List VGroup := (if ww then r.wide o.vs2 else r.group o.vs2) :: if o.vv then [r.group o.vs1] else []
  if r.sew ≠ 32 || !([48, 50, 52, 54, 56, 60, 61, 62, 63].contains o.f6) || !Rv.groupsOk o.vm false (r.wide o.vd) srcs then rvIllegal
  else r.each o.vm 64 (2 * r.lmul) o.vd fun i =>
    let (a, f1) := if ww then (r.el 64 o.vs2 i, 0) else rvConvert rvF32 g rm (r.el 32 o.vs2 i)
    let (b, f2) := rvConvert rvF32 g rm (r.operandF o 32 i)
    let (x, f3) := match o.f6 with
      | 48 => g.add rm a b
      | 52 => g.add rm a b
      | 50 => g.sub rm a b
      | 54 => g.sub rm a b
      | 56 => g.mul rm a b
      | n => vFused (n % 4) g rm b a (r.el 64 o.vd i)
    (some x, f1 ||| f2 ||| f3)
/-- Moves between element 0 and an f register. -/
def Rv.moveF (r : Rv) (o : VIns) : RvRes :=
  let w := r.sew
  if !o.vm then rvIllegal
  else if o.vv then (if o.vs1 ≠ 0 then rvIllegal else (r.fWrite (vFmt w) o.vd (r.el w o.vs2 0)).vdone)
  else if o.vs2 ≠ 0 then rvIllegal
  else if r.vl ≤ r.vstart then r.vdone
  else (r.tail (r.putEl w o.vd 0 (r.fRead (vFmt w) o.vs1)) r.tailAny w o.vd (rangeFrom 1 (512 / w))).vdone
def Rv.opFloat (r : Rv) (o : VIns) : RvRes :=
  let w := r.sew
  let f := o.f6
  match r.mode 7 with
  | none => rvIllegal
  | some rm =>
    if f = 18 then (if o.vv then r.convertV o rm else rvIllegal)
    else if w ≠ 32 && w ≠ 64 then rvIllegal
    else if [1, 3, 5, 7, 49, 51].contains f then r.reduceF o rm
    else if f = 14 || f = 15 then (if o.vv then rvIllegal else r.slide1 o (f = 14) (r.fRead (vFmt w) o.vs1))
    else if f = 16 then r.moveF o
    else if f = 19 then (if o.vv then r.unaryF o rm else rvIllegal)
    else if f = 23 then (if o.vv then rvIllegal else r.merge o fun _ => r.fRead (vFmt w) o.vs1)
    else if 48 ≤ f then r.widenF o rm
    else if 40 ≤ f then
      if !Rv.groupsOk o.vm false (r.group o.vd) (r.sources o) then rvIllegal
      else r.each o.vm w r.lmul o.vd fun i =>
        let d := r.el w o.vd i
        let a := r.el w o.vs2 i
        let b := r.operandF o w i
        let (x, fl) := if f < 44 then vFused (f % 4) (vFmt w) rm d b a else vFused (f % 4) (vFmt w) rm b a d
        (some x, fl)
    else if 24 ≤ f && f ≤ 31 then
      if (vFloatCmp f (vFmt w) 0 0).isNone || ((f = 29 || f = 31) && o.vv) || !Rv.groupsOk o.vm true (maskGroup o.vd) (r.sources o) then rvIllegal
      else r.eachBit o.vm o.vd fun i => (vFloatCmp f (vFmt w) (r.el w o.vs2 i) (r.operandF o w i)).getD (false, 0)
    else if (vFloatOp f (vFmt w) rm 0 0).isNone || ((f = 33 || f = 39) && o.vv) || !Rv.groupsOk o.vm false (r.group o.vd) (r.sources o) then rvIllegal
    else r.each o.vm w r.lmul o.vd fun i =>
      match vFloatOp f (vFmt w) rm (r.el w o.vs2 i) (r.operandF o w i) with
      | some (x, fl) => (some x, fl)
      | none => (none, 0)
/-- OP-V. -/
def Rv.opV (r : Rv) (i : Nat) : RvRes :=
  let o := vIns i
  if o.f3 = 7 then r.vset i
  else if r.vill then rvIllegal
  else match o.f3 with
    | 1 => r.opFloat o
    | 5 => r.opFloat o
    | 2 => r.opMul o
    | 6 => r.opMul o
    | _ => r.opInt o

/-! Vector loads and stores. -/

/-- A vector memory access: load or store, data and index width, fields of a segment, mask, addresses by element and field. -/
structure VMem where
  load : Bool
  w : Nat
  l : Nat
  nf : Nat
  vm : Bool
  vd : Nat
  vl : Nat
  addr : Nat → Nat → Nat
/-- Perform the accesses of elements i on; fault-only-first stops before the first element that would trap. -/
def Rv.access (r : Rv) (m : VMem) (ff : Bool) : List Nat → Rv → RvRes
  | [], t => .inl t
  | i :: l, t =>
    let field (k : Nat) : Nat := m.vd + k * max 1 (m.l / 8)
    let one : RvRes :=
      if !r.active m.vm i then .inl (if m.load && r.maskAny then (List.range m.nf).foldl (fun t k => r.agnostic t m.w (field k) i) t else t)
      else (List.range m.nf).foldl (fun (u : RvRes) k => u.andThen fun u =>
        if m.load then
          match u.load (m.addr i k % 2 ^ 64) (m.w / 8) with
          | .inl v => .inl (u.putEl m.w (field k) i v)
          | .inr c => .inr c
        else u.store (m.addr i k % 2 ^ 64) (m.w / 8) (r.el m.w (field k) i)) (.inl t)
    match one with
    | .inl u => Rv.access r m ff l u
    | .inr c => if ff && i ≠ 0 then .inl { t with vl := i } else .inr c
/-- Run an access from `vstart`; a load's tail follows the policy, or is agnostic. -/
def Rv.runMem (r : Rv) (m : VMem) (ff anyTail : Bool) : RvRes :=
  if m.vl ≤ r.vstart then r.vdone
  else (r.access m ff (rangeFrom r.vstart m.vl) r).andThen fun t =>
    let last := if ff then t.vl else m.vl
    (if m.load then (List.range m.nf).foldl (fun u k =>
        r.tail u anyTail m.w (m.vd + k * max 1 (m.l / 8)) (rangeFrom last (groupEnd m.w m.l))) t
      else t).vdone
/-- Vector loads and stores by the width field (0, 5, 6, 7). -/
def Rv.memV (r : Rv) (isLoad : Bool) (i : Nat) : RvRes :=
  let eew := match rvF3 i with
    | 0 => 8
    | 5 => 16
    | 6 => 32
    | _ => 64
  let nf := rvF i 29 3 + 1
  let vm := rvF i 25 1 = 1
  let n2 := rvRs2 i
  let vd := rvRd i
  let base := r.xr (rvRs1 i)
  let emul := eew * r.lmul / r.sew
  let fits (l : Nat) : Bool := 1 ≤ l && l ≤ 64 && nf * max 1 (l / 8) ≤ 8 && vd + nf * max 1 (l / 8) ≤ 32 && vd % max 1 (l / 8) = 0 && (vm || vd ≠ 0)
  let legal := !r.vill && r.sew ≤ eew * r.lmul
  if rvF i 28 1 = 1 then rvIllegal
  else match rvF i 26 2 with
    | 0 =>
      if n2 = 8 then
        if !vm || !([1, 2, 4, 8].contains nf) || vd % nf ≠ 0 || (!isLoad && eew ≠ 8) then rvIllegal
        else r.runMem { load := isLoad, w := eew, l := 8 * nf, nf := 1, vm := true, vd, vl := nf * 512 / eew, addr := fun i _ => base + i * (eew / 8) } false false
      else if n2 = 11 then
        if !vm || nf ≠ 1 || eew ≠ 8 || r.vill then rvIllegal
        else r.runMem { load := isLoad, w := 8, l := 8, nf := 1, vm := true, vd, vl := (r.vl + 7) / 8, addr := fun i _ => base + i } false true
      else if !legal || !fits emul || !(n2 = 0 || (n2 = 16 && isLoad)) then rvIllegal
      else r.runMem { load := isLoad, w := eew, l := emul, nf, vm, vd, vl := r.vl, addr := fun i k => base + (i * nf + k) * (eew / 8) } (n2 = 16) r.tailAny
    | 2 =>
      if !legal || !fits emul then rvIllegal
      else r.runMem { load := isLoad, w := eew, l := emul, nf, vm, vd, vl := r.vl, addr := fun i k => base + i * r.xr n2 + k * (eew / 8) } false r.tailAny
    | _ =>
      let idx : VGroup := (n2, eew, emul)
      let d : VGroup := (vd, r.sew, r.lmul)
      if !legal || !fits r.lmul || !groupOk idx || (!vm && meetsGroup (maskGroup 0) idx) ||
        (if isLoad && nf = 1 then !overlapOk d idx else meetsGroup (vd, r.sew, max 8 r.lmul * nf) idx && (isLoad || r.sew ≠ eew)) then rvIllegal
      else r.runMem { load := isLoad, w := r.sew, l := r.lmul, nf, vm, vd, vl := r.vl,
                      addr := fun i k => base + r.el eew n2 i + k * (r.sew / 8) } false r.tailAny

/-! The whole core. -/

/-- A 32-bit instruction word, `len` bytes long where it stands. -/
def Rv.perform (r : Rv) (len i : Nat) : RvRes :=
  match i % 128 with
  | 0x37 => .inl ((r.setX (rvRd i) (rvImmU i)).next len)
  | 0x17 => .inl ((r.setX (rvRd i) (add64 r.pc (rvImmU i))).next len)
  | 0x6f => .inl { r.setX (rvRd i) (r.pc + len) with pc := add64 r.pc (rvImmJ i) }
  | 0x67 =>
    if rvF3 i ≠ 0 then rvIllegal
    else .inl { r.setX (rvRd i) (r.pc + len) with pc := add64 (r.xr (rvRs1 i)) (rvImmI i) / 2 * 2 }
  | 0x63 => r.branch len i
  | 0x03 => r.loadX len i
  | 0x23 => r.storeX len i
  | 0x13 => r.opImm 64 len i
  | 0x1b => r.opImm 32 len i
  | 0x33 => r.opReg 64 len i
  | 0x3b => r.opReg 32 len i
  | 0x0f => if rvF3 i = 0 then .inl (r.next len) else rvIllegal
  | 0x73 => r.system i
  | 0x07 => match rvF3 i with
    | 2 => r.loadF rvF32 len i
    | 3 => r.loadF rvF64 len i
    | 1 => rvIllegal
    | 4 => rvIllegal
    | _ => r.memV true i
  | 0x27 => match rvF3 i with
    | 2 => r.storeF rvF32 len i
    | 3 => r.storeF rvF64 len i
    | 1 => rvIllegal
    | 4 => rvIllegal
    | _ => r.memV false i
  | 0x43 => r.fused 0 i
  | 0x47 => r.fused 1 i
  | 0x4b => r.fused 2 i
  | 0x4f => r.fused 3 i
  | 0x53 => r.opFp i
  | 0x57 => r.opV i
  | _ => rvIllegal
/-- Fetch and perform one instruction; a trap keeps the pc of its cause. -/
def Rv.step (r : Rv) : RvRes :=
  let r := { r with steps := r.steps + 1 }
  if 0x8000 < r.pc + 2 then .inr 1
  else
    let h := r.bytes r.pc 2
    if h % 4 = 3 then (if 0x8000 < r.pc + 4 then .inr 1 else r.perform 4 (r.bytes r.pc 4))
    else match rvExpand h with
      | some i => r.perform 2 i
      | none => rvIllegal
/-- How a run stands: still running, returned with a0, or trapped with its cause and the pc. -/
inductive RvEnd
  | running (r : Rv)
  | returned (r : Rv) (a0 : Word64)
  | trapped (cause pc : Nat)
  deriving DecidableEq, Repr
/-- Run at most n instructions; reaching the return address ends the routine (R225). -/
def Rv.run (ret : Nat) : Nat → Rv → RvEnd
  | 0, r => .running r
  | n + 1, r =>
    if r.pc = ret then .returned r (BitVec.ofNat 64 (r.xr 10))
    else match r.step with
      | .inl t => Rv.run ret n t
      | .inr c => .trapped c r.pc
/-- The call of a routine (R225, R226): registers, data, stack and output cleared, the arguments in a0 to a4. -/
def Rv.call (code : List Byte) (entry ret : Nat) (input : List Row) (ocnt : Nat) (arg : Word64) : Rv :=
  let x : List Word64 := [0, BitVec.ofNat 64 ret, 0x2000, 0, 0, 0, 0, 0, 0, 0, 0x2000, BitVec.ofNat 64 input.length, 0x5000, BitVec.ofNat 64 ocnt, arg]
  { pc := entry, x := x ++ List.replicate 17 0, f := List.replicate 32 0, v := List.replicate 32 0, fflags := 0, frm := 0, vstart := 0, vxsat := 0,
    vxrm := 0, vl := 0, vtype := 0, steps := 0, code, input, mem := [] }
/-- Row n of the output buffer. -/
def Rv.outRow (r : Rv) (n : Nat) : Row := BitVec.ofNat 1024 (r.bytes (0x5000 + 128 * n) 128)

end Sys2Proof.Machine
end

