-- ==== Sys2Proof/Machine/Copy.lean ====
section
/-! DEFINITION. The copy slot: plans of copy commands as group entry and issue both see them, issue, requests, row writes,
transforms (R203-R216, R224-R227, R349). -/
namespace Sys2Proof.Machine
open Sys2Proof

/-- What a copy-slot syllable would do at the tick in hand: refusal (R349), rows it reads at issue (box, record), source rows,
index rows, destination rows, ring with rows to reserve, beats. Row lists stop at 4,096 rows, which no window holds. -/
structure CopyPlan where
  err : Option (Nat × Word64 × Word64)
  boxRow : Option Nat
  src : List Nat
  idx : List Nat
  dest : List Nat
  ring : Option (Nat × Nat)
  beats : Nat
  deriving DecidableEq, Repr

/-- n consecutive rows from a base. -/
def rowsFrom (base n : Nat) : List Nat := (List.range (min n 4096)).map fun j => (base + j) % 2 ^ 32
/-- A td slot as it stands at the tick (R213). -/
def State.tdSlot (s : State) (n : Nat) : Option Desc := Sp.get none s.me.regs.td n
/-- Row of an address register with an unsigned offset (R204, R215, R251, R272). -/
def State.rowAt (s : State) (a : BitVec 4) (off : Nat) : Nat := (s.a a + BitVec.ofNat 32 off).toNat
/-- The link offsets of a box record from the li registers (R206). -/
def State.linkOffsets (s : State) (b : Box) : List Int :=
  (List.range 6).map fun k => match bLink b k with
    | some l => (Sp.get 0 s.me.regs.li l).toInt
    | none => 0
def copyRowAddr (o : CopyOp) (an : Word32) : Nat := rowAddr an o.pm o.off.toInt
/-- Whether a command gathers or scatters by an index list (R211). -/
def indexed' : Instr → Bool
  | .cpGat _ => true
  | .cpSca _ => true
  | _ => false
/-- DESC sub 3: command and descriptor disagree (R349). -/
def descCommand (op : Instr) (d : Desc) (d2 : Option Desc) (b b2 : Box) : Option Nat :=
  match op with
  | .cpAcc _ => if dEfmt d ≠ 14 then some 17 else if dCmp d then some 14 else none
  | .cpSca _ => if dCmp d then some 14 else none
  | .cpRep _ => if dCmp d then some 14 else none
  | .cpGat _ => if dCmp d then some 14 else if dRole d = roleS then some 15 else none
  | .cpSl _ =>
    match d2 with
    | some e => if dEfmt d ≠ dEfmt e then some 17 else if boxElems b ≠ boxElems b2 then some 192 else none
    | none => none
  | _ => none
/-- The refusal of a command under DESC: sub-code, info, aux (R349). -/
def descErr (op : Instr) (td td2 : Nat) (d d2 : Option Desc) (b b2 : Box) (boxRow : Nat) (useBox : Bool) : Option (Nat × Word64 × Word64) :=
  let n (x : Nat) : Word64 := BitVec.ofNat 64 x
  let two := match op with
    | .cpSl _ => true
    | _ => false
  match d with
  | none => some (0, n td, 0)
  | some d =>
    if two && d2.isNone then some (0, n td2, 0)
    else
      let e := d2.getD d
      match firstBroken (descRules d) with
      | some o => some (1, n td, n o)
      | none =>
        match if two then firstBroken (descRules e) else none with
        | some o => some (1, n td2, n o)
        | none =>
          match descRole d with
          | some o => some (2, n td, n o)
          | none =>
            match if two then descRole e else none with
            | some o => some (2, n td2, n o)
            | none =>
              match descCommand op d d2 b b2 with
              | some o => some (3, n td, n o)
              | none =>
                let boxes := boxRules b d (indexed' op) ++ (if two then boxRules b2 e false else [])
                match if useBox then firstBroken boxes else none with
                | some o => some (4, n boxRow, n o)
                | none => none
/-- Data rows of a transfer command (R206, R209). -/
def planRows (op : Instr) (d : Option Desc) (b : Box) : Nat :=
  match d with
  | none => 0
  | some e =>
    if noRows d then 0
    else match op with
      | .cpIn _ => if dRole e = roleS then streamRows b (dFmt e).width else dataRows e b (dFmt e).width
      | .cpRep _ => 0
      | .cpSl _ => 0
      | _ => dataRows e b (cmdWidth op e)
/-- Beats of a transfer command, at least 1 (R207, R212). -/
def planBeats (op : Instr) (d : Option Desc) (b : Box) (li : List Int) (rows : Nat) : Nat :=
  match op, d with
  | .cpSl _, some e => if noRows d then 1 else max 1 (dataRows e b (dFmt e).width)
  | .cpRep _, some e => if noRows d then 1 else max 1 (boxTiles e b li).length
  | _, _ => max 1 rows
/-- Index rows (R211): none for a command without data rows. -/
def planIdx (op : Instr) (d : Option Desc) (b : Box) : List Nat :=
  if indexed' op && !noRows d then rowsFrom (bIbase b) ((bExtent b (bGdim b) + 31) / 32) else []
/-- The plan of a transfer command. -/
def State.planTransfer (s : State) (op : Instr) (o : CopyOp) : CopyPlan :=
  let boxRow := s.rowAt o.ab o.boff.toNat
  let r := s.snapRow boxRow
  let b := halfOf r o.bh
  let b2 := halfOf r (!o.bh)
  let td2 := fldN o.x 9 4
  let d := s.tdSlot o.td.toNat
  let d2 := match op with
    | .cpSl _ => s.tdSlot td2
    | _ => none
  let n := planRows op d b
  let rows := rowsFrom (copyRowAddr o (s.a o.an)) n
  let reads := match op with
    | .cpOut _ => true
    | .cpAcc _ => true
    | .cpSca _ => true
    | _ => false
  let loads := match op with
    | .cpIn _ => true
    | .cpGat _ => true
    | _ => false
  { err := descErr op o.td.toNat td2 d d2 b b2 boxRow true, boxRow := some boxRow, src := if reads then rows else [],
    idx := planIdx op d b, dest := if loads && !o.rg then rows else [],
    ring := if loads && o.rg then some (o.ring.toNat, n) else none,
    beats := planBeats op d b (s.linkOffsets b) n }

/-- An empty command of the context in hand. -/
def State.newCmd (s : State) (op : Instr) (ch : Nat) (beats : Nat) : Cmd :=
  { id := s.fresh, core := s.cur.core, slot := s.cur.slot, ch, op, tick := s.tick, td := none, td2 := none, td3 := none, box := 0,
    box2 := 0, cursor := 0, li := [], arg := 0, idx := [], src := [], base := 0, dest := [], ring := none, beats, sent := 0,
    open_ := [], bad := [], got := [], written := [], done := false, after := [], stage := 0, old := [], epoch := Sp.get 0 s.here.epoch s.cur.slot }
/-- Set guards on rows for a command (R54, R207). -/
def State.guardRows (s : State) (rows : List Nat) (pend : Bool) (cause : Nat) : State :=
  let h := s.here
  s.setHere { h with guards := h.guards ++ rows.map fun r => ⟨r, pend, cause, s.cur.slot, none⟩ }
/-- The channel is busy for b beats from this cycle (R203). -/
def State.useChan (s : State) (ch beats : Nat) : State :=
  let c := s.me
  let x := Sp.get Chan.reset c.chan ch
  s.setMe { c with chan := Sp.put Chan.reset c.chan ch { x with free := s.now + beats } }
/-- Issue a command: it joins the list, its channel is busy, its first request leaves in this cycle (R203, R207). -/
def State.launch (s : State) (c : Cmd) : State :=
  let s : State := { s with cmds := s.cmds ++ [c] }
  ((s.useChan c.ch c.beats).bump).later 0 (.copyRequest c.id) []
/-- Reserve ring rows for a command (R56). -/
def State.reserveRing (s : State) (ring n cause : Nat) : List Nat × State :=
  let (ns, c) := s.me.reserve ring n
  let rows := ns.map (ringRow (s.me.regs.ringOf ring))
  (rows, (s.setMe c).guardRows rows true cause)
/-- Index values of a list (R211). -/
def State.indexValues (s : State) (rows : List Nat) (n : Nat) : List Nat :=
  (List.range n).map fun m => laneN (s.snapRow (rows.getD (m / 32) 0)) 32 (m % 32)
/-- A destination row of a refused command is written with ones (R346). -/
def State.refuseRows (s : State) (id : Nat) : List Nat → State
  | [] => s
  | j :: r => State.refuseRows (s.sometime (.copyRowWrite id j) []) id r
/-- Issue a transfer command (R207, R209, R349). -/
def State.transfer (s : State) (op : Instr) (o : CopyOp) : State :=
  let p := s.planTransfer op o
  let r := s.snapRow (s.rowAt o.ab o.boff.toNat)
  let b := halfOf r o.bh
  let b2 := halfOf r (!o.bh)
  let d := s.tdSlot o.td.toNat
  let two := match op with
    | .cpSl _ => true
    | _ => false
  let rep := match op with
    | .cpRep _ => true
    | _ => false
  let id := s.fresh
  let c0 := s.newCmd op o.ch.toNat p.beats
  let gd := bGdim b
  let c : Cmd :=
    { c0 with td := d, td2 := if two then s.tdSlot (fldN o.x 9 4) else none, box := b, box2 := b2,
              cursor := (d.map dCursor).getD 0, li := s.linkOffsets b ++ (if two then s.linkOffsets b2 else []),
              arg := if rep then s.s (fld o.x 5 6) else 0,
              idx := if p.idx.isEmpty then [] else s.indexValues p.idx (bExtent b gd), src := p.src.map s.snapRow,
              base := p.src.headD 0 }
  let tick := s.tick
  let s := (s.guardRows p.src false id).guardRows p.idx false id
  let s := s.guardRows p.dest true id
  let (ringRows, s) := match p.ring with
    | some (ring, n) => s.reserveRing ring n id
    | none => ([], s)
  let first := match p.ring with
    | some (ring, n) => some (ring, (ringResv (s.me.regs.ringOf ring) + 4096 - n % 4096) % 4096)
    | none => none
  let c := { c with dest := if p.ring.isSome then ringRows else p.dest, ring := first }
  let s := if o.rg || two || rep then s else s.postMod o.an o.pm o.off.toInt
  let s := match op, d with
    | .cpIn _, some e =>
      if p.err.isNone && dRole e = roleS then s.writes 1 (.cursor o.td.toNat) (BitVec.ofNat 1024 ((dCursor e + boxElems b) % 2 ^ 48)) allOnes else s
    | _, _ => s
  match p.err with
  | none => s.launch c
  | some (sub, info, aux) =>
    let who := s.me.who 0 s.cur.core s.cur.slot o.ch.toNat tick
    let s := (s.recordFault (coreDie s.cur.core) 0x15 sub who ((d.map dHandle).getD 0) 63 0 info aux 0 false [] [] 0).1
    let h := s.here
    let s := s.setHere { h with guards := h.guards.filter fun g => g.pend || g.cause ≠ id }
    let all := List.range c.dest.length
    let s : State := { s with cmds := s.cmds ++ [{ c with id, sent := c.beats, bad := all }] }
    let s := { s.useChan c.ch c.beats with fresh := s.fresh + 1 }
    (s.refuseRows id all).cmdCheck id
/-- `cp.in` (R208, R209). -/
def execCpIn (o : CopyOp) (s : State) : Res := .next (s.transfer (.cpIn o) o)
/-- `cp.out` (R208). -/
def execCpOut (o : CopyOp) (s : State) : Res := .next (s.transfer (.cpOut o) o)
/-- `cp.acc` (R210). -/
def execCpAcc (o : CopyOp) (s : State) : Res := .next (s.transfer (.cpAcc o) o)
/-- `cp.gat` (R211). -/
def execCpGat (o : CopyOp) (s : State) : Res := .next (s.transfer (.cpGat o) o)
/-- `cp.sca` (R211). -/
def execCpSca (o : CopyOp) (s : State) : Res := .next (s.transfer (.cpSca o) o)
/-- `cp.sl` (R212). -/
def execCpSl (o : CopyOp) (s : State) : Res := .next (s.transfer (.cpSl o) o)
/-- `cp.rep` (R212). -/
def execCpRep (o : CopyOp) (s : State) : Res := .next (s.transfer (.cpRep o) o)

/-- `cp.desc`: the slot holds the descriptor from tick t + 1 (R213). -/
def execCpDesc (ch : BitVec 2) (td : BitVec 4) (an : BitVec 4) (pm : Bool) (off : BitVec 10) (h : Bool) (s : State) : Res :=
  let row := rowAddr (s.a an) pm off.toInt
  let d := halfOf (s.snapRow row) h
  let c := { s.newCmd (.cpDesc ch td an pm off h) ch.toNat 1 with base := row, src := [s.snapRow row] }
  let s := s.guardRows [row] false s.fresh
  let s := s.writes 1 (.td td.toNat) (d.setWidth 1024) allOnes
  .next ((s.postMod an pm off.toInt).launch c)
/-- The refusal of a cursor command by its td slot (R349). -/
def State.slotErr (s : State) (op : Instr) (td : Nat) : Option (Nat × Word64 × Word64) := descErr op td 0 (s.tdSlot td) none 0 0 0 false
/-- A cursor command refused as DESC: its record, one beat (R207, R349). -/
def State.refuseSlot (s : State) (ch td : Nat) (e : Nat × Word64 × Word64) : State :=
  let who := s.me.who 0 s.cur.core s.cur.slot ch s.tick
  let h := ((s.tdSlot td).map dHandle).getD 0
  ((s.recordFault (coreDie s.cur.core) 0x15 e.1 who h 63 0 e.2.1 e.2.2 0 false [] [] 0).1.useChan ch 1).bump
/-- `cp.cur` mode 00 (R214). -/
def execCpCurSet (ch : BitVec 2) (td : BitVec 4) (sa : BitVec 6) (s : State) : Res :=
  let c := s.newCmd (.cpCurSet ch td sa) ch.toNat 1
  match s.slotErr c.op td.toNat with
  | none => .next ((s.writes 1 (.cursor td.toNat) ((s.s sa).setWidth 1024) allOnes).launch c)
  | some e => .next (s.refuseSlot ch.toNat td.toNat e)
/-- `cp.cur` mode 01: half of the row becomes the slot's descriptor; the other half keeps its contents (R214). Refused under DESC sub 0 or 1 it
writes no row, under sub 2 a row of ones (R207, R346, R349). -/
def execCpCurSave (ch : BitVec 2) (td : BitVec 4) (an : BitVec 4) (pm : Bool) (off : BitVec 10) (h : Bool) (s : State) : Res :=
  let row := rowAddr (s.a an) pm off.toInt
  let id := s.fresh
  let d := s.tdSlot td.toNat
  let err := s.slotErr (.cpCurSave ch td an pm off h) td.toNat
  let c := { s.newCmd (.cpCurSave ch td an pm off h) ch.toNat 1 with td := d, dest := if noRows d then [] else [row] }
  let s := if noRows d then s else s.guardRows [row] true id
  let s := s.postMod an pm off.toInt
  match err with
  | none => .next (s.launch c)
  | some e =>
    if noRows d then .next (s.refuseSlot ch.toNat td.toNat e)
    else
      let s : State := { s with cmds := s.cmds ++ [{ c with sent := 1, bad := [0] }] }
      .next ((s.bump.refuseRows id [0]).refuseSlot ch.toNat td.toNat e)
/-- `cp.cur` mode 10 (R214). -/
def execCpCurStatus (ch : BitVec 2) (an : BitVec 4) (pm : Bool) (off : BitVec 10) (h : Bool) (s : State) : Res :=
  let row := rowAddr (s.a an) pm off.toInt
  let c := { s.newCmd (.cpCurStatus ch an pm off h) ch.toNat 1 with dest := [row] }
  .next (((s.guardRows [row] true s.fresh).postMod an pm off.toInt).launch c)
/-- `cp.xf` (R224). -/
def execCpXf (o : XformOp) (s : State) : Res :=
  let src := rowsFrom (rowAddr (s.a o.an) false o.off.toInt) (o.icnt.toNat + 1)
  let dest := rowsFrom (rowAddr (s.a o.ad) false o.doff.toInt) (o.ocnt.toNat + 1)
  let id := s.fresh
  let c := { s.newCmd (.cpXf o) o.ch.toNat (o.icnt.toNat + 1) with src := src.map s.snapRow, base := src.headD 0, dest, arg := s.s o.sa }
  let s := ((s.guardRows src false id).guardRows dest true id).launch c
  let h := s.here
  .next (s.setHere { h with xforms := h.xforms ++ [id] })
/-- `rcast` (R215): the check and the seal follow at the layout unit of the range's first tile. -/
def execRcast (o : RcastOp) (s : State) : Res :=
  let boxRow := s.rowAt o.ab o.boff.toNat
  let b := halfOf (s.snapRow boxRow) o.bh
  let d := s.tdSlot o.td.toNat
  let c := { s.newCmd (.rcast o) o.ch.toNat 1 with td := d, box := b, cursor := (d.map dCursor).getD 0, base := boxRow }
  match descErr (.rcast o) o.td.toNat 0 d none b b boxRow (!o.all) with
  | none => .next (s.launch c)
  | some (sub, info, aux) =>
    let who := s.me.who 0 s.cur.core s.cur.slot o.ch.toNat s.tick
    .next ((s.recordFault (coreDie s.cur.core) 0x15 sub who ((d.map dHandle).getD 0) 63 0 info aux 0 false [] [] 0).1.useChan o.ch.toNat 1).bump

/-! Requests and row writes. -/

/-- Release the held guard of a source row once it has been read (R207). -/
def State.release (s : State) (c : Cmd) (row : Nat) : State :=
  let h := s.core c.core
  s.setCore c.core (h.clearGuard row c.id false)
/-- Release every held guard of a command. -/
def State.releaseAll (s : State) (c : Cmd) : State :=
  let h := s.core c.core
  s.setCore c.core { h with guards := h.guards.filter fun g => g.pend || g.cause ≠ c.id }
/-- Count a filled gather row or a skipped scatter row in the channel's status (R211, R214). -/
def State.count (s : State) (c : Cmd) (skip : Bool) : State :=
  let k := Machine.ck c.core c.slot
  let x := s.ctx k
  let h := Sp.get Chan.reset x.chan c.ch
  let h := if skip then { h with skip := min 65535 (h.skip + 1) } else { h with fills := min (2 ^ 32 - 1) (h.fills + 1) }
  s.setCtx k { x with chan := Sp.put Chan.reset x.chan c.ch h }
/-- The index that governs box row n (R211): none when the command has no list, or the value. -/
def Cmd.index (c : Cmd) (d : Desc) (n : Nat) : Option Nat :=
  if indexed' c.op then some (c.idx.getD (boxIndex d c.box n (bGdim c.box)) 0) else none
/-- Elements of data row j of a command, or none when its box row is filled or skipped. -/
def Cmd.elems (c : Cmd) (d : Desc) (j : Nat) : Option (List Spot) :=
  let w := cmdWidth c.op d
  let streamed : Bool := match c.op with
    | .cpIn _ => dRole d = roleS
    | _ => false
  if streamed then some (streamElems d c.box w c.cursor j)
  else
    let rb := max 1 (rowsPerBox d c.box w)
    let n := j / rb
    match c.index d n with
    | none => some (rowElems d c.box c.li none w n (j % rb))
    | some i =>
      if i < dDim d (bGdim c.box) then some (rowElems d c.box c.li (some (bGdim c.box, i)) w n (j % rb)) else none
/-- A gather row filled with the constant (R205, R211). -/
def Cmd.fillRow (c : Cmd) (d : Desc) (j : Nat) : Row :=
  let w := (dFmt d).width
  let (_, n) := rowSpan d c.box w (j % max 1 (rowsPerBox d c.box w))
  rowOfLanes w (List.replicate n (bFill c.box))
/-- The request for data row j of a transfer (R207). -/
def State.request (s : State) (c : Cmd) (d : Desc) (j : Nat) : State :=
  let who := (s.ctx (Machine.ck c.core c.slot)).who 0 c.core c.slot c.ch c.tick
  let w := cmdWidth c.op d
  let firstPart := j % max 1 (rowsPerBox d c.box w) = 0
  let withVals (l : List Spot) : List Piece :=
    piecesOf (l.map fun x => { x with elem := { x.elem with val := laneN (c.src.getD j 0) w x.elem.lane } })
  match c.op with
  | .cpIn _ => if j < c.dest.length then
      (s.sendPieces c d j (if dRole d = roleS then .stream else .read) who (piecesOf ((c.elems d j).getD []))).rowCheck c.id j else s
  | .cpGat _ => if j < c.dest.length then
      match c.elems d j with
      | some l => (s.sendPieces c d j .read who (piecesOf l)).rowCheck c.id j
      | none => (((if firstPart then s.count c false else s).setCmd (c.setRow j (c.fillRow d j))).rowCheck c.id j)
      else s
  | .cpOut _ => if j < c.src.length then (s.release c (c.base + j)).sendPieces c d j .write who (withVals ((c.elems d j).getD [])) else s
  | .cpAcc _ => if j < c.src.length then (s.release c (c.base + j)).sendPieces c d j .add who (withVals ((c.elems d j).getD [])) else s
  | .cpSca _ => if j < c.src.length then
      match c.elems d j with
      | some l => (s.release c (c.base + j)).sendPieces c d j .write who (withVals l)
      | none => if firstPart then (s.release c (c.base + j)).count c true else s.release c (c.base + j)
      else s
  | .cpSl _ => if boxElems c.box = 0 then s else
      let rb := max 1 (rowsPerBox d c.box w)
      s.sendPieces c d j .slRead who (piecesOf (rowElems d c.box c.li none w (j / rb) (j % rb)))
  | .cpRep _ =>
    match (boxTiles d c.box c.li)[j]? with
    | some p => s.sendPieces c d j .rep who [p]
    | none => s
  | _ => s
/-- Commands of the same channel issued before this one are complete (R214, R215, R217). -/
def State.channelClear (s : State) (c : Cmd) : Bool :=
  !s.cmds.any fun d => d.core = c.core && d.slot = c.slot && d.ch = c.ch && d.id < c.id
/-- The status word of a channel (R214). -/
def chanWord (x : Chan) : Word64 := pack [(32, x.skip), (0, x.fills)]
/-- Whether the channels of a context stand still: it is frozen (R203), and its group is not being ended, which waits until they have completed
what was issued (R336; DEDUCED, log 33). -/
def State.beatsStand (s : State) (core slot : Nat) : Bool :=
  let c := s.ctx (Machine.ck core slot)
  c.iss.freeze.isSome && !(s.gang c).any fun g => g.ending.isSome
/-- COPY REQUEST: one beat of a command (R203, R336). -/
def execCopyRequest (cmd : Nat) (s : State) : Res :=
  match s.cmd cmd with
  | none => .next s
  | some c =>
    if c.beats ≤ c.sent then .next s
    else if s.beatsStand c.core c.slot then .next (s.later 1 (.copyRequest cmd) [])
    else
      let c' := { c with sent := c.sent + 1 }
      let again (t : State) : State := if c'.sent < c.beats then t.later 1 (.copyRequest cmd) [] else t
      match c.op with
      | .cpDesc _ _ _ _ _ _ => .next (((s.setCmd c').releaseAll c).cmdCheck cmd)
      | .cpCurSet _ _ _ => .next ((s.setCmd c').cmdCheck cmd)
      | .cpCurSave _ _ _ _ _ _ => .next ((s.setCmd c').sometime (.copyRowWrite cmd 0) [])
      | .cpCurStatus _ _ _ _ _ =>
        if s.channelClear c then .next ((s.setCmd c').sometime (.copyRowWrite cmd 0) []) else .next (s.later 1 (.copyRequest cmd) [])
      | .rcast _ => .next ((s.setCmd c').sometime (.recastSeal cmd) [])
      | .clRun _ | .clArm _ | .mlr _ => .next ((s.setCmd c').releaseAll c)
      | .plQ _ => .next (s.setCmd c')
      | .cpXf _ =>
        let t := (s.setCmd c').release c (c.base + c.sent)
        .next (again t)
      | _ =>
        match c.td with
        | some d =>
          let t := (s.setCmd c').request c' d c.sent
          let t := if c'.sent < c.beats then t else match t.cmd cmd with
            | some e => t.releaseAll e
            | none => t
          .next (again (t.cmdCheck cmd))
        | none => .next (again ((s.setCmd c').cmdCheck cmd))
/-- What a command writes to its destination row j, and the bits of the row that it replaces: one half for `cp.cur` (R214), ones when refused
(R346). -/
def Cmd.contents (c : Cmd) (j : Nat) (status : Word64) : Row × Row :=
  if c.bad.contains j then (allOnes, allOnes)
  else match c.op with
    | .cpCurSave _ _ _ _ _ h =>
      let off := if h then 512 else 0
      (((c.td.getD 0).setWidth 1024) <<< off, maskAt off 512)
    | .cpCurStatus _ _ _ _ h =>
      let off := if h then 512 else 0
      ((status.setWidth 1024) <<< off, maskAt off 64)
    | _ => (c.row j, allOnes)
/-- A command of a context writes bits of a row (R53, R207). -/
def Core.cmdWrite (h : Core) (c : Cmd) (row : Nat) (val mask : Row) : Core := h.landRow ⟨c.slot, c.tick, row, val, mask, c.epoch, .engine⟩
/-- COPY ROW WRITE: the row is written whole, its guard clears, a ring row has landed (R53, R54, R56, R207, R346). -/
def execCopyRowWrite (cmd row : Nat) (s : State) : Res :=
  match s.cmd cmd with
  | none => .next s
  | some c =>
    match c.dest[row]? with
    | none => .next s
    | some a =>
      if c.written.contains row then .next s
      else
        let k := ck c.core c.slot
        let h := s.core c.core
        let x := s.ctx k
        let chan := Sp.get Chan.reset x.chan c.ch
        let status := match c.op with
          | .cpCurStatus _ _ _ _ _ => true
          | _ => false
        let (val, mask) := c.contents row (chanWord chan)
        let h := (h.cmdWrite c a val mask).clearGuard a c.id true
        let s := s.setCore c.core h
        let x := if status then { x with chan := Sp.put Chan.reset x.chan c.ch { chan with skip := 0, fills := 0 } } else x
        let x := match c.ring with
          | some (ring, first) => x.ringLanded ring ((first + row) % 4096)
          | none => x
        let s := s.setCtx k x
        let s := s.setCmd { c with written := row :: c.written, got := c.got.filter fun p => p.1 ≠ row }
        let ends : Bool := match c.op with
          | .cpXf _ => c.written.length + 1 = c.dest.length
          | _ => false
        .next (if ends then s.cmdDone c else s.cmdCheck cmd)
/-- The transform core is done with its first command, of which the rows in `bad` are refused (R224, R355). -/
def State.xformEnd (s : State) (core : Nat) (c : Cmd) (rows : List (Nat × Row)) (bad : List Nat) : State :=
  let h := s.core core
  let s := s.setCore core { h with xforms := h.xforms.drop 1, rv := none }
  (s.setCmd { c with got := rows, bad }).refuseRows c.id (List.range c.dest.length)
/-- XFORM RUN: the transform core takes the first `cp.xf` of its core whose rows have all been read and runs its routine, 4,096 instructions in a
cycle (log 8); the output rows are written to the destination rows, or the command is refused (R224-R226, R345, R355). -/
def execXformRun (core : Nat) (s : State) : Res :=
  let h := s.core core
  match h.xforms with
  | [] => .next s
  | id :: rest =>
    match s.cmd id with
    | none => .next (s.setCore core { h with xforms := rest, rv := none })
    | some c =>
      if c.sent < c.beats then .next s
      else
        match c.op with
        | .cpXf o =>
          let x := s.control
          let all := List.range c.dest.length
          let refuse (sub : Nat) (info aux : Word64) : Res :=
            let who := (s.ctx (ck core c.slot)).who 2 core c.slot c.ch c.tick
            .next ((s.recordFault (coreDie core) 0x1c sub who 0 63 0 info aux 0 false [] [] 0).1.xformEnd core c [] all)
          match (h.rv.getD (Rv.call x.xcode (x.xtable.getD o.rt.toNat 0) x.xreturn c.src c.dest.length c.arg)).run x.xreturn 4096 with
          | .running r => .next ((s.setCore core { h with rv := some r }).later 1 (.xformRun core) [])
          | .returned r a0 => if a0 = 0 then .next (s.xformEnd core c (all.map fun j => (j, r.outRow j)) []) else refuse 1 a0 0
          | .trapped cause pc => refuse 0 (BitVec.ofNat 64 cause) (BitVec.ofNat 64 pc)
        | _ => .next s
/-- Whether a core's transform core has a command to run. -/
def State.xformDue (s : State) (core : Nat) : Bool :=
  match (s.core core).xforms with
  | [] => false
  | id :: _ => match s.cmd id with
    | none => true
    | some c => c.beats ≤ c.sent && (s.core core).rv.isNone

end Sys2Proof.Machine
end

