-- ==== Sys2Proof/Machine/Matrix.lean ====
section
/-! DEFINITION. The matrix unit: queue entries, K-blocks, microwords, readouts (R180-R202, R94-R100, R335). -/
namespace Sys2Proof.Machine
open Sys2Proof

/-! Formats of operands (R92, R182-R185). -/

/-- Operand A's or B's descriptor in a format part (R92). -/
def opDesc (fmt : Word32) (b : Bool) : Nat := if b then fldN fmt 8 8 else fldN fmt 0 8
def opKind (fmt : Word32) (b : Bool) : Nat := opDesc fmt b % 8
def opSigned (fmt : Word32) (b : Bool) : Bool := opDesc fmt b / 8 % 2 = 1
def opRsub (fmt : Word32) (b : Bool) : Nat := opDesc fmt b / 16 % 4
/-- Width of a kind (R92); of the unassigned kind 111, which the manual leaves open (log 21). -/
def kindWidth : Nat → Nat
  | 0 => 16
  | 1 => 16
  | 2 => 8
  | 3 => 8
  | 4 => 4
  | 5 => 8
  | 6 => 4
  | _ => [16, 8, 4].getD (Config.unassignedKind % 3) 16
def kindGrouped (k : Nat) : Bool := k = 5 || k = 6
/-- The element format of a kind. -/
def kindFmt (k : Nat) (sg : Bool) : Fmt :=
  match k with
  | 0 => .bf16
  | 1 => .f16
  | 2 => .f8e4
  | 3 => .f8e5
  | 4 => .f4
  | 5 => if sg then .s8 else .n8
  | _ => if sg then .s4 else .n4
def opWidth (fmt : Word32) (b : Bool) : Nat := kindWidth (opKind fmt b)
def opGrouped (fmt : Word32) (b : Bool) : Bool := kindGrouped (opKind fmt b)
def wMax (fmt : Word32) : Nat := max (opWidth fmt false) (opWidth fmt true)
/-- Products per cell and beat, and indices per K-block (R180, R181). -/
def perBeat (fmt : Word32) : Nat := 16 / wMax fmt
def kBlock (fmt : Word32) : Nat := 64 * perBeat fmt
/-- Group length (R92); 0 for the unassigned code. -/
def gszOf (fmt : Word32) : Nat := [32, 64, 128, 0].getD (fldN fmt 20 2) 0
/-- Side rows of a grouped block (R183; log 21). -/
def sideRows (fmt : Word32) (b : Bool) : Nat :=
  if gszOf fmt = 0 then Config.unassignedSides % 9 else 1024 / opWidth fmt b / gszOf fmt
/-- Rows of a block bound under a format (R196). -/
def blockRows (fmt : Word32) (b t scaleMp : Bool) : Nat :=
  if t then kBlock fmt else if opGrouped fmt b && !scaleMp then 32 + sideRows fmt b else 32
/-- Readout format (R100, R185). -/
def readFmt (fmt : Word32) : Fmt := if fldN fmt 24 4 < 6 then Fmt.get (fldN fmt 24 4) else .f32

/-! Tiles. -/

def tileKey (acc : Bool) (row col : Nat) : Nat := b2n acc * 1024 + row * 32 + col
def Matrix.pair (m : Matrix) (acc : Bool) (row col : Nat) : Nat × Nat :=
  let x := Sp.get 0 m.tile (tileKey acc row col)
  (fldN x 32 32, fldN x 0 32)
def Matrix.setPair (m : Matrix) (acc : Bool) (row col hi lo : Nat) : Matrix :=
  { m with tile := Sp.put 0 m.tile (tileKey acc row col) (pack [(32, hi), (0, lo)]) }
/-- Apply a function to every element of a tile: index row * 32 + column from i upward. -/
def Matrix.mapTile (acc : Bool) (f : Nat → Nat → Nat × Nat → Nat × Nat) : Nat → Nat → Matrix → Matrix
  | 0, _, m => m
  | n + 1, i, m =>
    let (hi, lo) := f (i / 32) (i % 32) (m.pair acc (i / 32) (i % 32))
    Matrix.mapTile acc f n (i + 1) (m.setPair acc (i / 32) (i % 32) hi lo)
/-- One addition of R99 without flags (R90). -/
def addTo (p : Nat × Nat) (x : Nat) : Nat × Nat := let (h, l, _) := accStep p.1 p.2 x; (h, l)
/-- Readout of a pair, scaled by an FP32 when one is given (R100, R200). -/
def readoutPair (f : Fmt) (scale : Option Nat) (p : Nat × Nat) : Nat :=
  match scale with
  | none => readPair f p.1 p.2
  | some c => (roundTo f false ((pairNum p.1 p.2).mul (decodeNum .f32 c))).1
/-- A tile row as element values in lanes 0 to 31 (R194, R200). -/
def Matrix.readout (m : Matrix) (acc : Bool) (row : Nat) (f : Fmt) (scale : Option Nat) : Row :=
  rowOfLanes f.width ((List.range 32).map fun j => readoutPair f scale (m.pair acc row j))

/-! A K-block's contributions (R95-R97, R99, R182-R184). -/

/-- Code of data row m at index k of the K-block, part p. -/
def blockCode (rows : List Row) (w : Nat) (t : Bool) (off m k : Nat) : Nat :=
  if t then laneN (rows.getD k 0) w m else laneN (rows.getD m 0) w (off + k)
/-- The scale word of data row m for group g of the block (R183): a side row's word, or the mp register. -/
def blockScale (rows : List Row) (mp : Option Word32) (m g : Nat) : Nat :=
  match mp with
  | some w => w.toNat
  | none => laneN (rows.getD (32 + g) 0) 32 m
/-- The integer that a grouped code reads as (R86, R96): zero point z, substitute rsub for the reserved code. -/
def subst (f : Fmt) (rsub : Nat) (z : Int) (code : Nat) : Int :=
  let q := intOf f code
  if f.isSigned && q = intLo f false then
    match rsub with
    | 1 => q + 1
    | 2 => z
    | _ => q
  else q
/-- One operand of a K-block: format, rsub, rows, part offset in elements, transposition, group length, scales. -/
structure Operand where
  f : Fmt
  rsub : Nat
  grouped : Bool
  rows : List Row
  trans : Bool
  off : Nat
  gsz : Nat
  mp : Option Word32
  deriving DecidableEq, Repr
def Operand.scaleWord (o : Operand) (m k : Nat) : Nat := blockScale o.rows o.mp m ((o.off + k) / (max 1 o.gsz))
/-- Integer code minus zero point. -/
def Operand.int (o : Operand) (m k : Nat) : Int :=
  let z := zeroOf (o.scaleWord m k)
  subst o.f o.rsub z (blockCode o.rows o.f.width o.trans o.off m k) - z
def Operand.scale (o : Operand) (m k : Nat) : Num := scaleOf (o.scaleWord m k)
/-- The exact value of an element: a float code, or a grouped code widened (R97); an exact 0 times an infinite or NaN scale is NaN (R95; log 63). -/
def Operand.val (o : Operand) (m k : Nat) : Num :=
  if o.grouped then (Num.ofInt (o.int m k)).mul (o.scale m k)
  else decodeNum o.f (blockCode o.rows o.f.width o.trans o.off m k)
/-- The sum of integer products over n indices from k. -/
def groupSum (a b : Operand) (m n : Nat) : Nat → Nat → Int
  | 0, _ => 0
  | c + 1, k => a.int m k * b.int n k + groupSum a b m n c (k + 1)
/-- What beat j adds to cell (m, n), when it adds a value (R97, R99). -/
def beatValue (a b : Operand) (per gsz m n j : Nat) : Option Nat :=
  if a.grouped && b.grouped then
    if (j + 1) * per % gsz = 0 then
      let k := (j + 1) * per - gsz
      some (roundTo .f32 false (((Num.ofInt (groupSum a b m n gsz k)).mul (a.scale m k)).mul (b.scale n k))).1
    else none
  else
    let terms := (List.range per).map fun i => (a.val m (j * per + i)).mul (b.val n (j * per + i))
    some (roundTo .f32 false (sumExact terms)).1
/-- The 64 beats of a K-block on one cell (R181). -/
def cellBeats (a b : Operand) (per gsz m n : Nat) : Nat → Nat → Nat × Nat → Nat × Nat
  | 0, _, p => p
  | c + 1, j, p =>
    cellBeats a b per gsz m n c (j + 1) (match beatValue a b per gsz m n j with
      | some x => addTo p x
      | none => p)
/-- A beat of the canonical NaN in each of 64 beats (R185). -/
def nanBeats (p : Nat × Nat) : Nat × Nat := addTo p Fmt.f32.nan
/-- The operand that a feed streams. -/
def feedOperand (f : Feed) (b : Bool) : Operand :=
  let blk := if b then f.b else f.a
  let w := opWidth f.fmt b
  { f := kindFmt (opKind f.fmt b) (opSigned f.fmt b), rsub := opRsub f.fmt b, grouped := opGrouped f.fmt b,
    rows := if b then f.rowsB else f.rowsA, trans := blk.trans,
    off := if w < wMax f.fmt then (f.part % (wMax f.fmt / w)) * kBlock f.fmt else 0, gsz := gszOf f.fmt,
    mp := if b then f.scaleB else f.scaleA }
/-- Add a K-block to a tile. -/
def Matrix.addBlock (m : Matrix) (acc : Bool) (f : Feed) : Matrix :=
  if f.nan then Matrix.mapTile acc (fun _ _ p => nanBeats p) 1024 0 m
  else
    let a := feedOperand f false
    let b := feedOperand f true
    Matrix.mapTile acc (fun r c p => cellBeats a b (perBeat f.fmt) (gszOf f.fmt) r c 64 0 p) 1024 0 m
/-- Whether a feed contributes NaN (R185): the sixth case compares the block with the format at the feed
(log 65 for scales other than at the bind). -/
def feedNan (fmt : Word32) (a b : Block) (ta tb : Bool) (mpA mpB : Bool) : Bool :=
  let grouped := opGrouped fmt false || opGrouped fmt true
  let bad (o : Bool) (blk : Block) (t mp : Bool) : Bool :=
    opKind fmt o = 7 || (opGrouped fmt o && opSigned fmt o && opRsub fmt o = 3) ||
    (t && (opGrouped fmt o || opWidth fmt o < wMax fmt)) || t != blk.trans ||
    blockRows fmt o blk.trans blk.scaleMp ≠ blk.rows || (opGrouped fmt o && !mp && blk.scaleMp)
  bad false a ta mpA || bad true b tb mpB || gszOf fmt = 0 || (grouped && kBlock fmt < gszOf fmt)

/-! Queue and routine. -/

def MRun.idle : MRun :=
  { start := 0, acc := false, rep := 0, pc := 0, mlc := [], ma := [], fmt := 0, sa := none, sb := none, blocksA := [],
    blocksB := [], feeds := [], lastFeed := none, sends := [], ended := none, routine := 0 }
def MEntry.idle : MEntry :=
  { id := 0, op := .macz false none, tick := 0, rep := 1, mp := [], ma := [], nb := [], ringA := 0, ringB := 0, fmt := 0, fmtTab := [],
    li := [], hi := 0, lo := 0, after := [], epoch := 0 }
def Ctx.entry (c : Ctx) : MEntry := c.matrix.queue.headD MEntry.idle
def Ctx.run (c : Ctx) : MRun := c.matrix.run.getD MRun.idle
def Ctx.setRun (c : Ctx) (r : MRun) : Ctx := { c with matrix := { c.matrix with run := some r } }
/-- The next microword of the context in hand, d cycles from now. -/
def State.micro (s : State) (d : Nat) : State :=
  { s with pending := s.pending ++ [⟨s.now + d, .micro s.cur.core s.cur.slot, []⟩] }
/-- A microword is done: the next one takes the next cycle (R198). -/
def State.microTo (s : State) (r : MRun) (pc : Nat) : State := (s.setMe (s.me.setRun { r with pc := pc })).micro 1
def State.microDone (s : State) (r : MRun) : State := s.microTo r (r.pc + 1)
/-- The address that stands for a routine that ends as at `wend` (R198). -/
def endPc : Nat := 4096
/-- The matrix unit raises ROUTINE (R335): at the next group entry, or at once when the context has halted. -/
def State.raiseRoutine (s : State) (core slot sub rt addr : Nat) : State :=
  let k := Machine.ck core slot
  let c := s.ctx k
  if c.iss.halted && c.iss.freeze.isNone then
    s.takeEvent core slot 0x09 sub 0 0 false true c.iss.pc c.iss.tick (BitVec.ofNat 64 rt) (BitVec.ofNat 64 addr) [] true
  else if c.iss.routineEvent.isSome then s
  else s.setCtx k { c with iss := { c.iss with routineEvent := some (sub, rt, addr) } }
/-- A routine ends in error (R198, R335). -/
def State.microFail (s : State) (sub : Nat) : State :=
  let r := s.me.run
  ((s.setMe (s.me.setRun { r with pc := endPc })).micro 0).raiseRoutine s.cur.core s.cur.slot sub r.routine r.pc
/-- The routine of a context, when one runs and has not ended. -/
def Ctx.active (c : Ctx) : Option MRun :=
  match c.matrix.run with
  | some r => if r.ended.isSome then none else some r
  | none => none

/-- Add an entry that captures the state of R187 (R188). -/
def State.enqueue (s : State) (op : Instr) (rep : Option (BitVec 8)) (hi lo : Row) : State :=
  let c := s.me
  let g := c.regs
  let e : MEntry :=
    { id := s.fresh, op, tick := s.tick, rep := (rep.map BitVec.toNat).getD 0 + 1, mp := g.mp, ma := g.ma, nb := g.nb, ringA := g.ringA.toNat,
      ringB := g.ringB.toNat, fmt := g.fmt.setWidth 32, fmtTab := g.fmtTab, li := g.li, hi, lo, after := c.fenceMx,
      epoch := Sp.get 0 s.here.epoch s.cur.slot }
  ((s.setMe { c with matrix := { c.matrix with queue := c.matrix.queue ++ [e] } }).useEngine 2 e.rep).bump
/-- `mcall` (R187, R190). -/
def execMcall (rt : BitVec 5) (acc alt : Bool) (rep : Option (BitVec 8)) (s : State) : Res :=
  .next (s.enqueue (.mcall rt acc alt rep) rep 0 0)
/-- `macz` (R193). -/
def execMacz (acc : Bool) (rep : Option (BitVec 8)) (s : State) : Res := .next (s.enqueue (.macz acc rep) rep 0 0)
/-- `mwrite`: the two registers are read at issue (R193). -/
def execMwrite (vh vl : BitVec 10) (acc : Bool) (row : BitVec 5) (rep : Option (BitVec 8)) (s : State) : Res :=
  .next (s.enqueue (.mwrite vh vl acc row rep) rep (s.v vh) (s.v vl))
/-- `mset` (R192). -/
def execMset (kind : Bool) (idx : BitVec 3) (sa : BitVec 6) (s : State) : Res :=
  .next (s.resultW 1 (if kind then .ma idx.toNat else .mp idx.toNat) (s.s sa))
/-- `mring` (R192). -/
def execMring (ra rb : BitVec 3) (s : State) : Res :=
  .next (s.resultW 1 .ringPair (pack [(3, rb.toNat), (0, ra.toNat)]))
/-- `mroute` (R192). -/
def execMroute (nb : BitVec 2) (sa : BitVec 6) (s : State) : Res := .next (s.resultW 1 (.nb nb.toNat) (s.s sa))
/-- `mfmt`: zero fields are stored as 0 (R92, R192). -/
def execMfmt (ent : BitVec 4) (sa : BitVec 6) (s : State) : Res :=
  .next (s.resultW 1 (.fmtTab ent.toNat) (s.s sa &&& BitVec.ofNat 64 0x0f303f3f))
/-- `mwait`: the group has already waited at its entry (R113, R195). -/
def execMwait (_all _w0 _w1 _snd : Bool) (s : State) : Res := .next s
/-- `mread` (R194). -/
def execMread (vd : BitVec 10) (acc : Bool) (row : BitVec 5) (mode : BitVec 2) (s : State) : Res :=
  let m := s.me.matrix
  let v : Row := match mode.toNat with
    | 1 => rowOfLanes 32 ((List.range 32).map fun j => (m.pair acc row.toNat j).1)
    | 2 => rowOfLanes 32 ((List.range 32).map fun j => (m.pair acc row.toNat j).2)
    | _ => m.readout acc row.toNat (readFmt (s.me.regs.fmt.setWidth 32)) none
  .next (s.resultV vd.toNat 6 v allOnes 0)

/-- Whether an entry writes a tile (R189): one that alternates writes both, as long as it is in the queue. -/
def MEntry.writes (e : MEntry) (acc : Bool) : Bool :=
  match e.op with
  | .mcall _ a alt rep => a == acc || (alt && 0 < (rep.map BitVec.toNat).getD 0)
  | .macz a _ => a == acc
  | .mwrite _ _ a _ _ => a == acc
  | _ => false
/-- Whether an operation named by its number is still in progress (R217, R230). -/
def State.inProgress (s : State) (core slot id : Nat) : Bool :=
  s.cmds.any (fun d => d.id = id && !d.done) || (s.ctx (Machine.ck core slot)).matrix.queue.any fun e => e.id = id
/-- Whether a queue's first entry may start now (R188, R230). -/
def State.entryReady (s : State) (core slot : Nat) : Bool :=
  let c := s.ctx (Machine.ck core slot)
  c.matrix.run.isNone && !c.matrix.queue.isEmpty && c.entry.after.all fun i => !s.inProgress core slot i
/-- MATRIX ENTRY START (R188, R190, R193, R335). -/
def execMatrixEntryStart (core slot : Nat) (s : State) : Res :=
  if s.entryReady core slot then
    let k := Machine.ck core slot
    let c := s.ctx k
    let e := c.entry
    let done (m : Matrix) : State :=
      (s.setCtx k { c with matrix := { m with run := some { MRun.idle with ended := some s.now } } }).later 1 (.entryRetire core slot) []
    match e.op with
    | .macz acc _ => .next (done (Matrix.mapTile acc (fun _ _ _ => (0, 0)) 1024 0 c.matrix))
    | .mwrite _ _ acc row _ =>
      .next (done ((List.range 32).foldl (fun m j => m.setPair acc row.toNat j (laneN e.hi 32 j) (laneN e.lo 32 j)) c.matrix))
    | .mcall rt acc _ _ =>
      match Sp.get none (s.core core).routines rt.toNat with
      | some start =>
        let r : MRun := { MRun.idle with start := s.now, acc, pc := start, ma := e.ma, fmt := e.fmt, routine := rt.toNat }
        let s := s.setCtx k (c.setRun r)
        .next { s with pending := s.pending ++ [⟨s.now, .micro core slot, []⟩] }
      | none =>
        let s := s.setCtx k { c with matrix := { c.matrix with queue := c.matrix.queue.drop 1 } }
        .next (s.raiseRoutine core slot 1 rt.toNat 0)
    | _ => .next s
  else .next s
/-- Post-modifications between two repetitions (R191). -/
def MEntry.postMod (e : MEntry) : MEntry :=
  let e := { e with rep := e.rep - 1 }
  match e.op with
  | .mcall rt acc alt rep =>
    let stride (i : Nat) : Int := signed 16 (fldN (Sp.get 0 e.mp 7) (16 * i) 16)
    let step (m : Sp Word32) (i : Nat) : Sp Word32 := Sp.put 0 m i (Sp.get 0 m i + BitVec.ofInt 32 (stride i))
    { e with op := .mcall rt (acc != alt) alt rep, ma := [0, 1, 2, 3].foldl step e.ma }
  | .mwrite vh vl acc row rep => { e with op := .mwrite vh vl acc (row + 1) rep }
  | _ => e
/-- The entry with the ma registers as its routine has advanced them (R200). -/
def MEntry.advanced (e : MEntry) (r : MRun) : MEntry :=
  match e.op with
  | .mcall _ _ _ _ => { e with ma := r.ma }
  | _ => e
/-- ENTRY RETIRE: the entry leaves the queue, or its next repetition is due (R188, R191). -/
def execEntryRetire (core slot : Nat) (s : State) : Res :=
  let k := Machine.ck core slot
  let c := s.ctx k
  match c.matrix.queue, c.matrix.run with
  | e :: q, some r =>
    if r.ended.isSome then
      let q := if 1 < e.rep then (e.advanced r).postMod :: q else q
      .next (s.setCtx k { c with matrix := { c.matrix with queue := q, run := none } })
    else .next s
  | _, _ => .next s

/-! Microwords (R196-R200). -/

/-- Rows of a ring from a counter value, as the array reads them: whole, with the context's own stores (R196). -/
def State.ringRows (s : State) (ring first n : Nat) : List Row :=
  let g := s.me.regs.ringOf ring
  (List.range n).map fun i => s.here.seen s.cur.slot (s.me.iss.tick + 64) (s.me.iss.tick + 64) (ringRow g (first + i))
/-- The bind pointer of a ring (R196). -/
def MRun.bindPtr (r : MRun) (g : Regs) (ring : Nat) : Nat :=
  (ringHead (g.ringOf ring) + sumN (((r.blocksA ++ r.blocksB).filter fun b => b.ring = ring).map Block.rows)) % 4096
/-- Bind the next block of an operand (R196). -/
def State.bind (s : State) (b t : Bool) : State :=
  match s.me.active with
  | none => s
  | some r =>
    let c := s.me
    let ring := if b then c.entry.ringB else c.entry.ringA
    let mp := if b then r.sb.isSome else r.sa.isSome
    let n := blockRows r.fmt b t mp
    let g := c.regs.ringOf ring
    let ptr := r.bindPtr c.regs ring
    if 2 ^ ringLsize g < n then s.microFail 4
    else if (ringTail g + 4096 - ptr) % 4096 < n then s.micro 1
    else
      let blk : Block := { ring, first := ptr, rows := n, trans := t, scaleMp := mp, data := s.ringRows ring ptr n }
      s.microDone (if b then { r with blocksB := r.blocksB ++ [blk] } else { r with blocksA := r.blocksA ++ [blk] })
/-- `wpopa` (R196, R198). -/
def execWpopa (t : Bool) (s : State) : Res := .next (s.bind false t)
/-- `wpopb` (R196, R198). -/
def execWpopb (t : Bool) (s : State) : Res := .next (s.bind true t)
/-- Earliest cycle of the next feed of an entry by its own pace (R181). -/
def MRun.feedFrom (r : MRun) : Nat :=
  match r.lastFeed with
  | some t => max (r.start + 4) (t + 64)
  | none => r.start + 4
/-- Whether a context has a K-block ready to feed (R180). -/
def State.feedReady (s : State) (core slot : Nat) : Bool :=
  match (s.ctx (Machine.ck core slot)).active with
  | some r =>
    match decodeMicro (Sp.get 0 (s.core core).store r.pc) with
    | some (.wfeed _ _ _) => r.feedFrom ≤ s.now && !r.blocksA.isEmpty && !r.blocksB.isEmpty
    | _ => false
  | none => false
/-- Each row as it was, or as it is now: the cycle of the array's read is not fixed (R196; log 5). -/
def sampleRows : Nat → List Row → List Row → List Row
  | n, x :: xs, y :: ys => (if Config.choice n then x else y) :: sampleRows (n + 1) xs ys
  | _, _, ys => ys
/-- The mp register that `wgroup` names, as the entry captured it. -/
def scaleFrom (e : MEntry) (m : Option (BitVec 3)) : Option Word32 := m.map fun i => (Sp.get 0 e.mp i.toNat).setWidth 32
/-- `wfeed` (R180, R181, R185, R198). -/
def execWfeed (part : BitVec 2) (ta tb : Bool) (s : State) : Res :=
  match s.me.active with
  | none => .next s
  | some r =>
    match r.blocksA.getLast?, r.blocksB.getLast? with
    | some a, some b =>
      let core := s.cur.core
      let h := s.here
      let turn := (rotation h.lastFed).find? fun k => k = s.cur.slot || s.feedReady core k
      if s.now < r.feedFrom || s.now < h.arrayFree || turn ≠ some s.cur.slot then .next (s.micro 1)
      else
        let e := s.me.entry
        let f : Feed :=
          { id := s.fresh, retire := s.now + 96, a, b, part := part.toNat, fmt := r.fmt, scaleA := scaleFrom e r.sa,
            scaleB := scaleFrom e r.sb, popA := false, popB := false, nan := feedNan r.fmt a b ta tb r.sa.isSome r.sb.isSome,
            rowsA := sampleRows s.fresh a.data (s.ringRows a.ring a.first a.rows),
            rowsB := sampleRows (s.fresh + 256) b.data (s.ringRows b.ring b.first b.rows) }
        let s := { s.setHere { h with lastFed := s.cur.slot, arrayFree := s.now + 64 } with fresh := s.fresh + 512 }
        .next ((s.later 96 (.kblockRetire core s.cur.slot) []).microDone { r with feeds := r.feeds ++ [f], lastFeed := some s.now })
    | _, _ => .next (s.microFail 3)
/-- `wgroup` (R198). -/
def execWgroup (sa : Bool) (mpa : BitVec 3) (sb : Bool) (mpb : BitVec 3) (s : State) : Res :=
  match s.me.active with
  | none => .next s
  | some r => .next (s.microDone { r with sa := if sa then some mpa else none, sb := if sb then some mpb else none })
/-- `wretire`: the pops of the K-block fed last (R198). -/
def execWretire (pa pb : Bool) (s : State) : Res :=
  match s.me.active with
  | none => .next s
  | some r =>
    match r.feeds.getLast? with
    | some f =>
      let mark (g : Feed) : Feed := if g.id = f.id then { g with popA := g.popA || pa, popB := g.popB || pb } else g
      .next (s.microDone { r with feeds := r.feeds.map mark })
    | none => .next (s.microDone r)
/-- Pop the oldest bound block of an operand: the ring's head advances by its rows (R56, R196). -/
def popBlock (on : Bool) (l : List Block) (g : Regs) : List Block × Regs :=
  match on, l with
  | true, b :: r =>
    let d := g.ringOf b.ring
    (r, g.setRing b.ring (setFld d 12 12 ((ringHead d + b.rows) % 4096)))
  | _, l => (l, g)
/-- K-BLOCK RETIRE: its beats enter the tile and its pops happen (R56, R181, R196). -/
def execKblockRetire (core slot : Nat) (s : State) : Res :=
  let s' := { s with cur := { s.cur with core, slot } }
  let c := s'.me
  match c.matrix.run with
  | some r =>
    match r.feeds with
    | f :: fs =>
      if f.retire ≤ s.now then
        let f := { f with rowsA := sampleRows s.fresh f.rowsA (s'.ringRows f.a.ring f.a.first f.a.rows),
                          rowsB := sampleRows (s.fresh + 256) f.rowsB (s'.ringRows f.b.ring f.b.first f.b.rows) }
        let m := c.matrix.addBlock r.acc f
        let (ba, g) := popBlock f.popA r.blocksA c.regs
        let (bb, g) := popBlock f.popB r.blocksB g
        let c := { c with regs := g, matrix := { m with run := some { r with feeds := fs, blocksA := ba, blocksB := bb } } }
        .next { s.setCtx (Machine.ck core slot) c with fresh := s.fresh + 512 }
      else .next s
    | [] => .next s
  | none => .next s
/-- `wsum`: after every feed has retired, the source pair's hi and then its lo are added (R198), as they were before (log 37). -/
def execWsum (src : Bool) (s : State) : Res :=
  match s.me.active with
  | none => .next s
  | some r =>
    if !r.feeds.isEmpty then .next (s.micro 1)
    else
      let c := s.me
      let m0 := c.matrix
      let add (row col : Nat) (p : Nat × Nat) : Nat × Nat := let q := m0.pair src row col; addTo (addTo p q.1) q.2
      .next ((s.setMe { c with matrix := Matrix.mapTile r.acc add 1024 0 m0 }).microDone r)
/-- Scratchpad rows of a `wsend`: a row outside the window is not written and makes a WSEND record (R200, R355). -/
def State.sendRows (s : State) (r : MRun) (e : MEntry) (scale : Option Nat) (base first : Nat) : Nat → Nat → State
  | 0, _ => s
  | n + 1, j =>
    let c := s.me
    let row := (base + j) % 2 ^ 32
    let v := c.matrix.readout r.acc ((first + j) % 32) (readFmt r.fmt) scale
    let s' := if c.inWindow row then s.setHere (s.here.landRow ⟨s.cur.slot, e.tick, row, v, allOnes, e.epoch, .engine⟩)
      else (s.recordFault (coreDie s.cur.core) 0x1b 0 (c.who 1 s.cur.core s.cur.slot 0 e.tick) 0 63 0 (BitVec.ofNat 64 row) c.win 0
        false [] [] 0).1
    State.sendRows s' r e scale base first n (j + 1)
/-- Packets of a `wsend`, one a row (R200, R255). -/
def State.sendPackets (s : State) (r : MRun) (e : MEntry) (scale : Option Nat) (nb : Word64) (first : Nat) : Nat → Nat → State
  | 0, _ => s
  | n + 1, j =>
    let v := s.me.matrix.readout r.acc ((first + j) % 32) (readFmt r.fmt) scale
    let p : Packet := .routed (fldN nb 58 6) (fldN nb 37 20) (bit nb 57) s.cur.core s.cur.slot e.id (first + j) (fldN nb 0 37) v nb 0 0 0 0
    let run := s.me.run
    let id := s.fresh
    let s := s.setMe (s.me.setRun { run with sends := run.sends ++ [id] })
    let s : State := { s with fabric := { s.fabric with msgs := s.fabric.msgs ++ [Msg.mk id s.me.place.part p none] } }
    let s := s.travels.bump.sometime (.routedRowSend id) []
    State.sendPackets s r e scale nb first n (j + 1)
/-- `wsend` (R198, R200). -/
def execWsend (dst : Bool) (n : BitVec 2) (sc : Bool) (m : BitVec 3) (first cnt : BitVec 5) (s : State) : Res :=
  match s.me.active with
  | none => .next s
  | some r =>
    if !r.feeds.isEmpty then .next (s.micro 1)
    else
      let e := s.me.entry
      let scale := if sc then some (fldN (Sp.get 0 e.mp m.toNat) 0 32) else none
      if dst then
        let s := s.sendPackets r e scale (Sp.get 0 e.nb n.toNat) first.toNat (cnt.toNat + 1) 0
        .next (s.microDone s.me.run)
      else
        let base := Sp.get 0 r.ma n.toNat
        let s := s.sendRows r e scale base.toNat first.toNat (cnt.toNat + 1) 0
        .next (s.microDone { r with ma := Sp.put 0 r.ma n.toNat (base + BitVec.ofNat 32 (cnt.toNat + 1)) })
/-- `wfmt`: the format-table entry (lik mod 16), as captured (R94, R198). -/
def execWfmt (lvl : BitVec 3) (s : State) : Res :=
  match s.me.active with
  | none => .next s
  | some r =>
    let e := s.me.entry
    .next (s.microDone { r with fmt := Sp.get 0 e.fmtTab (fldN (Sp.get 0 e.li lvl.toNat) 0 4) })
/-- `wloop` (R198). -/
def execWloop (c : BitVec 2) (src : Bool) (m : BitVec 3) (imm : BitVec 32) (s : State) : Res :=
  match s.me.active with
  | none => .next s
  | some r =>
    let v : Word32 := if src then (Sp.get 0 s.me.entry.mp m.toNat).setWidth 32 else imm
    .next (s.microDone { r with mlc := Sp.put 0 r.mlc c.toNat v })
/-- `wjump` (R198): the decrement is taken before the test. -/
def execWjump (c cond : BitVec 2) (tgt : BitVec 11) (s : State) : Res :=
  match s.me.active with
  | none => .next s
  | some r =>
    let v := Sp.get 0 r.mlc c.toNat
    match cond.toNat with
    | 0 => .next (s.microTo r tgt.toNat)
    | 1 => .next (if v = 0 then s.microTo r tgt.toNat else s.microDone r)
    | _ =>
      let r := { r with mlc := Sp.put 0 r.mlc c.toNat (v - 1) }
      .next (if v - 1 ≠ 0 then s.microTo r tgt.toNat else s.microDone r)
/-- `wwait` (R198). -/
def execWwait (f sn : Bool) (s : State) : Res :=
  match s.me.active with
  | none => .next s
  | some r => if (f && !r.feeds.isEmpty) || (sn && !r.sends.isEmpty) then .next (s.micro 1) else .next (s.microDone r)
/-- `wend`: waits as `wwait f, s`, unbinds, and the entry retires one cycle later (R188, R196, R198). -/
def execWend (s : State) : Res :=
  match s.me.active with
  | none => .next s
  | some r =>
    if !r.feeds.isEmpty || !r.sends.isEmpty then .next (s.micro 1)
    else
      let c := s.me
      .next ((s.setMe (c.setRun { r with ended := some s.now, blocksA := [], blocksB := [] })).later 1 (.entryRetire s.cur.core s.cur.slot) [])
/-- The microword that a routine performs next: past its end, `wend`; none for an unassigned word (R198). -/
def State.nextMicro (s : State) : Option Instr :=
  match s.me.active with
  | some r => if r.pc = endPc then some .wend else decodeMicro (Sp.get 0 s.here.store r.pc)
  | none => some .wend

end Sys2Proof.Machine
end

