-- ==== Sys2Proof/Machine/Remote.lean ====
section
/-! DEFINITION. Tiles of other chips: migration, stubs, redirects, the home directory, refusals of the remote port (R79-R82, R346,
R357-R359). -/
namespace Sys2Proof.Machine
open Sys2Proof

def State.setStubs (s : State) (l : List Stub) : State := { s with fabric := { s.fabric with stubs := l } }
def Stub.of (b : Stub) (handle tile : Nat) : Bool := b.handle = handle && b.tile = tile
def State.stub (s : State) (handle tile : Nat) : Option Stub := s.fabric.stubs.find? fun b => b.of handle tile
def State.putStub (s : State) (b : Stub) : State :=
  s.setStubs (b :: s.fabric.stubs.filter fun e => !e.of b.handle b.tile)
/-- The owner cache of 16,384 entries (R79): a full one replaces an entry that the chip chooses (log 5). -/
def State.learnOwner (s : State) (handle tile chip : Nat) : State :=
  let l := s.fabric.owners.filter fun o => !(o.1 = handle && o.2.1 = tile)
  let l := if l.length < 16384 then l else l.eraseIdx (Config.index s.fresh % 16384)
  ({ s with fabric := { s.fabric with owners := (handle, tile, chip) :: l } } : State).bump
def State.forgetOwner (s : State) (handle tile : Nat) : State :=
  { s with fabric := { s.fabric with owners := s.fabric.owners.filter fun o => !(o.1 = handle && o.2.1 = tile) } }
/-- Whether an access to a tile is parked: firmware then starts no migration (R359). -/
def State.parkedOn (s : State) (handle tile : Nat) : Bool :=
  (s.accesses.any fun a => dHandle a.td = handle && a.tile = tile && a.parked.isSome) ||
    s.delayed.any fun w => w.taken.any fun p => p.2 = (handle, tile)
/-- Whether a unit has accepted an access to a tile, before the tile was marked, that it has still to perform or to park: the frame is copied after it
(R80, R359). -/
def State.busyOn (s : State) (handle tile : Nat) : Bool :=
  s.accesses.any fun a => dHandle a.td = handle && a.tile = tile && a.accepted && a.parked.isNone && !a.replayed && a.sentAt.isNone &&
    !s.accesses.any (s.behind a)
/-- Forward the queued requests of a tile, first in first out (R80). -/
def State.forwardAll (s : State) (handle tile : Nat) : List (Nat × Nat) → State
  | [] => s
  | (chip, hops) :: r => State.forwardAll (s.later 1 .stubForward [handle, tile, chip, hops]) handle tile r
/-- Fill a device frame with the image that another chip sends (R80): what this chip knows of the tile, which another chip may have written since,
and free bytes beyond (log 7). -/
def State.fillFrame (s : State) (frame handle tile : Nat) : State :=
  let s := s.farReached handle tile
  let m := (s.farTile handle tile).image
  let byte (i : Nat) : Byte := (Sp.get none m i).getD (Config.remoteByte (s.fresh + i))
  ({ s with mem := s.mem.writeN (frame * 65536) ((List.range 65536).map byte), fresh := s.fresh + 65536 } : State).setFar handle tile []
/-- A frame leaves with its tile: this chip knows the image that another chip then has (R80, R293). -/
def State.sendFrame (s : State) (frame handle tile : Nat) : State :=
  s.setFar handle tile ((s.mem.readN (frame * 65536) 65536).zipIdx.map fun e => (e.2, some e.1))
/-- Drop the translations of a tile that units have kept, those of commands ahead of a marker too: their later accesses go on to its owner (R80,
R218). -/
def State.dropCached (s : State) (handle tile : Nat) : State :=
  let keep (c : Cached) : Bool := !(c.handle = handle && c.tile = tile)
  let s := s.setCache (s.fabric.cache.filter keep)
  { s with cmds := s.cmds.map fun c => { c with old := c.old.filter keep },
           fabric := { s.fabric with unmaps := s.fabric.unmaps.map fun u => { u with old := u.old.filter keep } } }
/-- The home chip of a handle (R61). -/
def homeOf (handle : Nat) : Nat := handle / 2 ^ 22
/-- This chip's directory learns of a move of a tile homed here: its owner, none while the move is unconfirmed (R79, R80, R357). -/
def State.tellHome (s : State) (handle tile : Nat) (owner : Option Nat) : State :=
  if homeOf handle = s.control.chip then
    { s with fabric := { s.fabric with
      homes := ⟨handle, tile, owner⟩ :: s.fabric.homes.filter fun h => !(h.handle = handle && h.tile = tile) } }
  else s
/-- This chip holds the entry of a tile of another home chip, or no longer holds it (R80). -/
def State.setGuest (s : State) (handle tile : Nat) (place : Option (Nat × Nat)) : State :=
  let l := s.fabric.guests.filter fun g => !(g.handle = handle && g.tile = tile)
  { s with fabric := { s.fabric with guests := match place with
    | some (part, at_) => if homeOf handle = s.control.chip then l else ⟨handle, tile, part, at_⟩ :: l
    | none => l } }
/-- MIGRATION, on a stage, a partition, the address of the tile's entry, its handle and number, and, by stage (R80, R359):
0 this chip marks the tile moving, for the chip named, unless an access to it is parked; 1 the accesses accepted before are performed or parked and
the frame has been copied, the new owner is live and the home directory told: a stub replaces the entry, and the queued requests go on; 2 this chip installs a tile that comes to it live, with the
entry given; 3 a move between other chips of a tile homed here begins, or, with the chip named and 1, is confirmed (R357). -/
def execMigration (s : State) : Res :=
  let part := s.subj 1
  let at_ := s.subj 2
  let handle := s.subj 3
  let tile := s.subj 4
  match s.subj 0 with
  | 0 =>
    match s.readPart part at_ with
    | some e =>
      if eV e && !eRem e && !s.parkedOn handle tile && !s.fabric.recasts.any fun r => r.handle = handle && r.tiles.contains tile then
        let b : Stub := { handle, tile, owner := s.subj 5, moving := true, queue := [], told := [], born := s.now, reclaim := false }
        .next (((s.putStub b).tellHome handle tile none).sometime .migration [1, part, at_, handle, tile])
      else .next s
    | none => .next s
  | 1 =>
    match s.stub handle tile, s.readPart part at_ with
    | some b, some e =>
      if b.moving && s.busyOn handle tile then .next (s.later 1 .migration s.subject)
      else if b.moving then
        let s := match if eRem e then none else s.s2 part (eFrame e) with
          | some f => s.sendFrame f handle tile
          | none => s
        let w := setFld (setFld e 60 1 1) 18 28 b.owner
        let s := ((s.writePart part at_ w).dropCached handle tile).putStub { b with moving := false, queue := [], born := s.now }
        let s := (s.setGuest handle tile none).tellHome handle tile (some b.owner)
        .next ((s.forwardAll handle tile b.queue).later 43200000 .stubTimeout [handle, tile])
      else .next s
    | _, _ => .next s
  | 2 =>
    let w : Word64 := setFld (BitVec.ofNat 64 (s.subj 5)) 60 1 0
    match s.s2 part (eFrame w) with
    | some f =>
      let s := s.setStubs (s.fabric.stubs.filter fun b => !b.of handle tile)
      let s := ((s.fillFrame f handle tile).writePart part at_ w).dropCached handle tile
      .next ((s.setGuest handle tile (some (part, at_))).tellHome handle tile (some s.control.chip))
    | none => .next s
  | _ => .next (s.tellHome handle tile (if s.subj 6 = 1 then some (s.subj 5) else none))
/-- A request from another chip for a tile that is live here, as an access of a unit (R79, R358): subject from 4 on: partition, gang and channel, descriptor,
its gang plus 16 times the number of the channel there, what it does (read, streamed read, write, add of f32 elements), then offset and value of each
element. -/
def State.fromAbroad (s : State) (handle tile chip : Nat) : Option Access :=
  let d : Desc := BitVec.ofNat 512 (s.subj 6)
  let kind : AccKind := match s.subj 7 with
    | 0 => .read
    | 1 => .stream
    | 2 => .write
    | _ => .add
  let l := s.subject.drop 8
  let es := (List.range (l.length / 2)).map fun i => (⟨i, l.getD (2 * i) 0, i, l.getD (2 * i + 1) 0⟩ : Elem)
  let who : Who := { unit := 6, core := s.subj 5 / 16, slot := 0, ch := 0, part := s.subj 4, queue := 0, tree := s.subj 5 % 16, tick := 0, chip }
  if l.isEmpty || dHandle d ≠ handle then none
  else some { id := s.fresh, cmd := 0, row := 0, kind, who, td := d, tile, lu := luOf s.control.chip d tile, elems := es, extent := none,
              parked := none, accepted := false, replayed := false, sentAt := none, hops := 0, stale := [] }
/-- Whether this chip holds a live entry of a tile, or one in a table page that firmware has still to settle (R357, R384). -/
def State.liveHere (s : State) (a : Access) : Bool :=
  match s.entryPlace a.who.part a.td a.tile with
  | some (p, at_) => match s.readPart p at_ with
    | some e => eV e && !eRem e
    | none => true
  | none => false
/-- STUB FORWARD, on a handle, a tile, the requesting chip, the hops that its request has made and, for a request that meets a live entry, what
it does (R79-R81, R357, R358): performed or faulted here where the tile is live, queued while it moves; forwarded, and counted for its
requester, who is sent a redirect the first time; after two hops it goes to the directory instead; a tile with neither entry nor stub is
answered with a NACK. -/
def execStubForward (s : State) : Res :=
  let handle := s.subj 0
  let tile := s.subj 1
  let chip := s.subj 2
  let hops := s.subj 3
  match s.stub handle tile with
  | none =>
    match s.fromAbroad handle tile chip with
    | some a => if s.liveHere a then .next (({ s with accesses := s.accesses ++ [a] } : State).bump.later 0 (.luAccess a.id) []) else .next s
    | none => .next s
  | some b =>
    if b.moving then .next (s.putStub { b with queue := b.queue ++ [(chip, hops)] })
    else if 2 ≤ hops then .next s
    else
      let n := ((b.told.find? fun t => t.1 = chip).map Prod.snd).getD 0 + 1
      .next (s.putStub { b with told := (chip, n) :: b.told.filter fun t => t.1 ≠ chip })
/-- The requests of this chip for a tile that have left and not completed. -/
def State.abroad (s : State) (handle tile : Nat) : List Access :=
  s.accesses.filter fun a => dHandle a.td = handle && a.tile = tile && a.sentAt.isSome
/-- Count a stub hop of each request, and send a third one to the directory (R81). -/
def State.hopAll (s : State) : List Access → State
  | [] => s
  | a :: r =>
    let s := s.setAccess { a with hops := a.hops + 1 }
    State.hopAll (if 2 < a.hops + 1 then s.sometime .directoryRequest [a.id] else s) r
/-- REDIRECT, on a handle, a tile and the new owner (R81): the owner cache takes it, and every further request waits for those already
sent. -/
def execRedirect (s : State) : Res :=
  let handle := s.subj 0
  let tile := s.subj 1
  let out := s.abroad handle tile
  let s := (s.learnOwner handle tile (s.subj 2)).hopAll out
  let l := s.fabric.holds.filter fun h => !(h.1 = handle && h.2.1 = tile)
  .next { s with fabric := { s.fabric with holds := if out.isEmpty then l else (handle, tile, out.map Access.id) :: l } }
/-- A refusal by the remote port (R358), with the owner chip when it is known. While die 3's fault buffer is full, the port keeps the request and
offers it again, by the event that refused it (R342). -/
def State.remoteRefuse (s : State) (a : Access) (sub : Nat) (again : Instr × List Nat) : State :=
  let owner := (s.ownerOf (dHandle a.td) a.tile).getD 0
  let a := { a with lu := 41 }
  if s.faultRoom 3 = 0 then s.later 1 again.1 again.2 else
  let s := (s.recordFault 3 0x19 sub a.who (dHandle a.td) 41 a.tile (BitVec.ofNat 64 owner) (BitVec.ofNat 64 a.hops) 0 false [] [] 0).1
  (if a.kind == .add then s.poison a.who.part a.td a.tile else s).accDone a false []
/-- What the directory of this chip answers for a tile homed here (R79, R357, R358): held while a move is unconfirmed, the owner chip, or none. -/
def State.homeOwner (s : State) (part : Nat) (d : Desc) (tile : Nat) : Option (Option Nat) :=
  match s.fabric.homes.find? fun h => h.handle = dHandle d && h.tile = tile with
  | some h => h.owner.map some
  | none => match s.readPart part (entryAddr d tile) with
    | some e => some (if !eV e then none else if eRem e then some (eFrame e % 2 ^ 18) else some s.control.chip)
    | none => some none
/-- The directory names the owner: the owner cache takes it and the reply comes; an owner that is this chip performs the access itself. -/
def State.ownerNamed (s : State) (a : Access) (chip : Nat) : State :=
  if chip = s.control.chip then (s.setAccess { a with sentAt := none }).later 0 (.luAccess a.id) []
  else (s.learnOwner (dHandle a.td) a.tile chip).sometime (.luAccess a.id) []
/-- DIRECTORY REQUEST of an access (R79, R357, R358): the home directory passes it to the owner, whose number fills the owner cache and whose
reply comes; or it names no owner. Which of the two is this chip's directory's for a tile homed here, and otherwise another chip's (log 7), which
answers nothing where no port reaches it (R370). -/
def execDirectoryRequest (s : State) : Res :=
  match s.accesses.find? fun a => a.id = s.subj 0 with
  | none => .next s
  | some a =>
    if a.sentAt.isNone then .next s
    else if dHome a.td = s.control.chip then
      match s.homeOwner a.who.part a.td a.tile with
      | none => .next (s.later 1 .directoryRequest [a.id])
      | some none => .next (s.remoteRefuse a 0 (.directoryRequest, [a.id]))
      | some (some chip) => .next (s.ownerNamed a chip)
    else if s.noPath (dHome a.td) then .next s
    else if s.chooses then
      .next ((s.bump.learnOwner (dHandle a.td) a.tile (Config.index s.fresh % 2 ^ 18)).sometime (.luAccess a.id) [])
    else .next (s.bump.remoteRefuse a 0 (.directoryRequest, [a.id]))
/-- REMOTE NACK of an access (R82, R357): the request starts again at the home directory. -/
def execRemoteNack (s : State) : Res :=
  match s.accesses.find? fun a => a.id = s.subj 0 with
  | some a => if a.sentAt.isSome then .next ((s.forgetOwner (dHandle a.td) a.tile).sometime .directoryRequest [a.id]) else .next s
  | none => .next s
/-- REMOTE TIMEOUT of an access and the cycle in which it left (R358): no reply 2^24 cycles later. -/
def execRemoteTimeout (s : State) : Res :=
  match s.accesses.find? fun a => a.id = s.subj 0 with
  | some a => if a.sentAt = some (s.subj 1) then .next (s.remoteRefuse a 1 (.remoteTimeout, [a.id, s.subj 1])) else .next s
  | none => .next s
/-- STUB TIMEOUT, on a handle, a tile and 1 when the move is confirmed and every reader has acknowledged (R82, R359): after that, or after
16 ms, the stub asks the home chip for its grant; while that chip cannot be reached, it lives on and asks again. -/
def execStubTimeout (s : State) : Res :=
  match s.stub (s.subj 0) (s.subj 1) with
  | none => .next s
  | some b =>
    if b.moving || (s.now < b.born + 43200000 && s.subj 2 ≠ 1) then .next s
    else
      let t := s.putStub { b with reclaim := true }
      if s.chooses then .next (t.bump.sometime .reclaimGrant [s.subj 0, s.subj 1]) else .next (t.bump.sometime .stubTimeout [s.subj 0, s.subj 1, 1])
/-- RECLAIM GRANT, on a handle and a tile (R82): the stub is freed; later requests receive a NACK (R357). -/
def execReclaimGrant (s : State) : Res :=
  match s.stub (s.subj 0) (s.subj 1) with
  | some b => if b.reclaim then .next (s.setStubs (s.fabric.stubs.filter fun e => !e.of (s.subj 0) (s.subj 1))) else .next s
  | none => .next s

end Sys2Proof.Machine
end

