-- ==== Sys2Proof/Machine/Reach.lean ====
section
/-! DEFINITION. Accesses of the collective and the posting-list engines through the layout units: translated, judged and performed in the event
of the engine that makes them, which waits as a whole while one of them is parked or held (R65, R75, R253, R273, R340-R348; log 12). -/
namespace Sys2Proof.Machine
open Sys2Proof

/-- What an access of an engine reaches: a tile with its frame, or a tile of another chip. -/
inductive Reached
  | refused | remote | frame (frame : Nat)
  deriving DecidableEq, Repr
/-- Whether the event in hand cannot go on. -/
def State.stalled (s : State) : Bool := s.attempt.any fun a => a.stall.isSome
/-- The event in hand waits. -/
def State.stalls (s : State) (x : Stall) : State := { s with attempt := s.attempt.map fun a => { a with stall := some x } }
/-- Refuse an access of an engine with its record (R346, R347); its unit keeps it while the fault buffer is full (R342). -/
def State.unitRefuse (s : State) (w : Who) (d : Desc) (lu tile code sub : Nat) (info aux entry : Word64) : State :=
  if s.faultRoom (luDie lu) = 0 then s.stalls (.full lu (dHandle d) tile)
  else (s.recordFault (luDie lu) code sub w (dHandle d) lu tile info aux entry false [] [] 0).1
/-- Whether firmware has refused the event in hand an access to a tile. -/
def State.denies (s : State) (handle tile code : Nat) : Bool := s.attempt.any fun a => a.denied.contains (handle, tile, code)
/-- Whether a unit keeps an access of the event in hand that it has accepted (R340). -/
def State.keeps (s : State) (lu handle tile : Nat) : Bool := s.attempt.any fun a => a.taken.contains (lu, handle, tile)
/-- The request of an engine for a tile whose owner chip is known: performed there, refused there with a record of that chip, or without a reply,
which 2^24 cycles later is REMOTE sub-code 1 (R79, R346, R358, R370; log 7). -/
def State.askOwner (s : State) (w : Who) (d : Desc) (tile owner : Nat) : State × Reached :=
  let h := dHandle d
  if s.denies h tile 0x19 then (s.unitRefuse w d 41 tile 0x19 1 (BitVec.ofNat 64 owner) 0 0, .refused)
  else if s.noPath owner then (s.stalls (.lost h tile), .refused)
  else
    let n := Config.index s.fresh % 4
    let s := s.bump
    if n = 0 then (s.stalls (.lost h tile), .refused) else if n = 1 then (s, .refused) else (s.farReached h tile, .remote)
/-- A request of an engine to another chip (R79, R81, R357, R358): held by a redirect; to the owner that the owner cache has; or through the home
directory, which is this chip's for a tile homed here: held while a move is unconfirmed, and refused where the directory names no owner. -/
def State.reachRemote (s : State) (w : Who) (d : Desc) (tile : Nat) : State × Reached :=
  let h := dHandle d
  if s.heldBack h tile then (s.stalls .held, .refused)
  else match s.ownerOf h tile with
  | some owner => s.askOwner w d tile owner
  | none =>
    if dHome d = s.control.chip then
      match s.homeOwner w.part d tile with
      | none => (s.stalls .held, .refused)
      | some none => (s.unitRefuse w d 41 tile 0x19 0 0 0 0, .refused)
      | some (some owner) => if owner = s.control.chip then (s.stalls .held, .refused) else (s.learnOwner h tile owner).askOwner w d tile owner
    else if s.noPath (dHome d) || s.denies h tile 0x19 then s.askOwner w d tile (dHome d)
    else if s.chooses then
      let owner := Config.index s.fresh % 2 ^ 18
      (s.bump.learnOwner h tile owner).askOwner w d tile owner
    else (s.bump.unitRefuse w d 41 tile 0x19 0 0 0 0, .refused)
/-- Translate and judge an access of an engine (R65, R75, R80, R340, R345): a seal, a move or a park that is full makes the event wait. -/
def State.reach (s : State) (w : Who) (d : Desc) (tile : Nat) (kind : AccKind) (es : List Elem) : State × Reached :=
  let h := dHandle d
  let lu := luOf s.control.chip d tile
  if s.stalled then (s, .refused)
  else match beyond d tile ((es.map Elem.inner).headD 0) with
  | some (k, x) => (s.unitRefuse w d lu tile 0x14 0 (BitVec.ofNat 64 k) (BitVec.ofNat 64 x) 0, .refused)
  | none =>
  if s.movingAt h tile || (!s.keeps lu h tile && (s.sealedAt lu h tile || s.parkFull lu)) then (s.stalls .held, .refused)
  else
    match s.translate 0 lu w.part d tile with
    | .ok e f =>
      match judge d tile kind w.gang es e with
      | some (code, sub, info, aux) => (s.bump.unitRefuse w d lu tile code sub info aux e, .refused)
      | none => (s.bump.cachePut lu w.part h tile e (some f), .frame f)
    | .park code sub info aux e f =>
      (if s.denies h tile code then s.bump else s.bump.stalls (.park ⟨code, sub, w, h, lu, tile, info, aux, e, f⟩), .refused)
    | .refuse code sub info aux e => (s.bump.unitRefuse w d lu tile code sub info aux e, .refused)
    | .remote _ => s.bump.reachRemote w d tile
/-- Elements of a run of stream indices, by tile (R71): values given for a write. -/
def rangePieces (d : Desc) (first n : Nat) (vals : List Nat) : List (Nat × List Elem) :=
  if n = 0 then []
  else
    let e := dElems d
    let lo := first / e
    (List.range ((first + n - 1) / e - lo + 1)).map fun k =>
      let t := lo + k
      let a := max first (t * e)
      let b := min (first + n) ((t + 1) * e)
      let vs := ((vals.drop (a - first)).take (b - a)) ++ List.replicate (b - a - (vals.drop (a - first)).length) 0
      (t, vs.zipIdx.map fun (v, j) => ⟨j, a + j - t * e, a + j - first, v⟩)
/-- n free values that a member on another chip sends (log 24). -/
def State.freeValues (s : State) (w n : Nat) : State × List Nat :=
  let byte (i : Nat) : Nat := (Config.remoteByte (s.fresh + i)).toNat
  ({ s with fresh := s.fresh + 16 * n + 1 }, (List.range n).map fun i =>
    (List.range 16).foldl (fun x j => x + byte (16 * i + j) * 256 ^ j) 0 % 2 ^ w)
/-- Read the elements of one tile. -/
def State.unitLoad (s : State) (w : Who) (d : Desc) (tile : Nat) (es : List Elem) : State × Option (List Elem) :=
  match s.reach w d tile .read es with
  | (s, .refused) => (s, none)
  | (s, .remote) => let (s, l) := s.farRead (dHandle d) tile (dFmt d).width es; (s, some l)
  | (s, .frame f) => (s, some (s.readElems f (dFmt d).width es))
/-- Write the elements of one tile. -/
def State.unitStore (s : State) (w : Who) (d : Desc) (tile : Nat) (es : List Elem) : State × Bool :=
  match s.reach w d tile .write es with
  | (s, .refused) => (s, false)
  | (s, .remote) => (s.farWrite (dHandle d) tile (dFmt d).width es, true)
  | (s, .frame f) => (s.writeElems f (dFmt d).width es, true)
/-- Read the pieces of a run; none when a unit refuses one of them. -/
def State.unitRead (w : Who) (d : Desc) : List (Nat × List Elem) → State → State × Option (List Nat)
  | [], s => (s, some [])
  | (t, es) :: r, s =>
    match s.unitLoad w d t es with
    | (s, none) => (s, none)
    | (s, some l) =>
      match State.unitRead w d r s with
      | (s, some m) => (s, some (l.map Elem.val ++ m))
      | (s, none) => (s, none)
/-- Write the pieces of a run; false when a unit refuses one of them. -/
def State.unitWrite (w : Who) (d : Desc) : List (Nat × List Elem) → State → State × Bool
  | [], s => (s, true)
  | (t, es) :: r, s =>
    let (s, a) := s.unitStore w d t es
    let (s, b) := State.unitWrite w d r s
    (s, a && b)
/-- Whether an event of an engine waits for one of its accesses. -/
def State.eventWaits (s : State) (i : Instr) (l : List Nat) : Bool :=
  s.delayed.any fun w => w.event = i && w.subject = l && !w.till.any (· ≤ s.now)
/-- An event of an engine that makes accesses (log 12). While one of them is held or parked, nothing of the event happens: it is tried again in
the next cycle, or once firmware has answered, or once no reply has come in time. What firmware refuses it, it goes on without. What units have
accepted for it, they keep until it has happened (R340). -/
def State.performs (s : State) (i : Instr) (f : State → Res) : Res :=
  let l := s.subject
  let mine (w : Waiting) : Bool := w.event = i && w.subject = l
  if s.eventWaits i l then .next s
  else
    let denied := ((s.delayed.find? mine).map Waiting.denied).getD []
    let taken := ((s.delayed.find? mine).map Waiting.taken).getD []
    let others := s.delayed.filter fun w => !mine w
    let also (p : Nat × Nat × Nat) : List (Nat × Nat × Nat) := if taken.contains p then taken else p :: taken
    match f { s with attempt := some ⟨denied, taken, none⟩ } with
    | .next t =>
      let again (d : Nat) (w : Waiting) : Res := .next (({ s with fresh := t.fresh, delayed := w :: others } : State).later d i l)
      match t.attempt.bind Attempt.stall with
      | none => .next { t with attempt := none, delayed := t.delayed.filter fun w => !mine w }
      | some .held => again 1 ⟨i, l, some (s.now + 1), denied, none, taken⟩
      | some (.lost h n) => again (2 ^ 24) ⟨i, l, some (s.now + 2 ^ 24), (h, n, 0x19) :: denied, none, taken⟩
      | some (.full lu h n) => again 1 ⟨i, l, some (s.now + 1), denied, some (lu, h, n), also (lu, h, n)⟩
      | some (.park p) =>
        let (u, id) := ({ s with fresh := t.fresh } : State).recordFault (luDie p.lu) p.code p.sub p.who p.handle p.lu p.tile p.info p.aux p.entry true
          [] [(i, l)] p.frame
        let w : Waiting := ⟨i, l, if id = 0 then some (s.now + 1) else none, denied, some (p.lu, p.handle, p.tile), also (p.lu, p.handle, p.tile)⟩
        let u : State := { u with delayed := w :: others }
        .next (if id = 0 then u.later 1 i l else u)
    | r => r
/-- n elements from a stream index. -/
def State.readRun (s : State) (w : Who) (d : Desc) (first n : Nat) : State × Option (List Nat) :=
  s.unitRead w d (rangePieces d first n [])
/-- Write elements from a stream index. -/
def State.writeRun (s : State) (w : Who) (d : Desc) (first : Nat) (vals : List Nat) : State × Bool :=
  s.unitWrite w d (rangePieces d first vals.length vals)

end Sys2Proof.Machine
end

