-- ==== Sys2Proof/Machine/Recast.lean ====
section
/-! DEFINITION. Recasts: check, lock, seal, rewrite (R73-R77, R215, R350, R352, R353). -/
namespace Sys2Proof.Machine
open Sys2Proof

/-- Whether a box is a recast's: origin and end on tile boundaries or at a dimension's end, steps 1, no links (R215; log 23). -/
def tileAligned (d : Desc) (b : Box) : Bool :=
  (List.range 6).all fun k =>
    let e := 2 ^ dTile d k
    let stop := bOrigin b k + bExtent b k
    bStep b k = 1 && (bLink b k).isNone && bOrigin b k % e = 0 && (stop % e = 0 || stop = dDim d k) && stop ≤ dTilesAlong d k * e
/-- The changes that R73 permits. -/
def permitted (f t : Nat) : Bool :=
  (f = roleO) || (f = roleS && (t = roleI || t = roleO)) || (f = roleI && t = roleO) || (f = roleA && (t = roleI || t = roleO))

/-- The first tile whose entry this chip holds and cannot read, with what its read meets (R352). -/
def State.firstUnread (s : State) (part : Nat) (d : Desc) : List Nat → Option (Nat × Verdict)
  | [] => none
  | t :: r => match (s.entryPlace part d t).map s.readEntry with
    | some (.park code sub info aux e f) => some (t, .park code sub info aux e f)
    | _ => State.firstUnread s part d r
/-- The entry of a tile, when this chip holds it (R64, R80). -/
def State.entryOf (s : State) (part : Nat) (d : Desc) (tile : Nat) : Option Word64 := (s.entryPlace part d tile).bind fun p => s.readPart p.1 p.2

/-- The first check of R352 that fails, with the refusing tile when the sub-code has one. `passes` answers what another chip
holds: whether the owner of the first tile, and every entry, would pass (log 7); entries of tiles that have migrated here are checked here. -/
def State.recastCheck (s : State) (who : Who) (d : Desc) (b : Box) (o : RcastOp) (tiles : List Nat) (away passes : Bool) : Option (Nat × Option Nat) :=
  let f := dRole d
  let t := o.role.toNat
  let owned (n : Nat) : Bool := f ≠ roleO || match s.entryOf who.part d n with
    | some e => eOwner e = who.gang
    | none => !away || passes
  let bad := tiles.find? fun n => !owned n || match s.entryOf who.part d n with
    | some e => eRole e ≠ f
    | none => !away
  if !permitted f t then some (0, none)
  else if if f = roleO then !(tiles.take 1).all owned else away then some (1, if away then none else tiles.head?)
  else if !o.all && !tileAligned d b then some (2, none)
  else if o.cur && !(f = roleS && t = roleI) then some (3, none)
  else if bad.isSome || (away && !passes) then some (4, bad)
  else if t = roleA && (dCmp d || (dFmt d).width < 8) then some (5, none)
  else none
/-- A recast is over: complete, its lock gone. -/
def State.recastOver (s : State) (c : Cmd) : State :=
  let s : State := { s with fabric := { s.fabric with recasts := s.fabric.recasts.filter fun r => r.cmd ≠ c.id } }
  s.cmdDone c
/-- Refuse a recast whole (R345, R352); its unit keeps it, with its lock, while the fault buffer is full (R342). -/
def State.recastRefuse (s : State) (c : Cmd) (who : Who) (d : Desc) (tiles : List Nat) (sub : Nat) (t : Option Nat) : State :=
  let lu := luOf s.control.chip d (tiles.headD 0)
  let e := (t.bind (s.entryOf who.part d)).getD 0
  if s.faultRoom (luDie lu) = 0 then s.later 1 (.recastSeal c.id) []
  else
  let (s, _) := s.recordFault (luDie lu) 0x18 sub who (dHandle d) lu (t.getD 0) (BitVec.ofNat 64 (t.getD 0)) e e false [] [] 0
  s.recastOver c
/-- RECAST SEAL (R75, R352, R353): it waits for the channel's earlier commands and for a recast that holds an entry of its
range, reads every entry, checks, and broadcasts the seal, or is refused. The seal of a foreign tensor's recast reaches this chip's units too, for the
tiles of it that lie here. -/
def execRecastSeal (cmd : Nat) (s : State) : Res :=
  match s.cmd cmd with
  | none => .next s
  | some c =>
    match c.recast, c.td with
    | some o, some d =>
      let who := (s.ctx (ck c.core c.slot)).who 0 c.core c.slot c.ch c.tick
      let tiles := recastTiles d c.box o c.cursor
      let away := dHome d ≠ s.control.chip
      let held := s.fabric.recasts.any fun r => r.cmd ≠ cmd && r.handle = dHandle d && r.tiles.any tiles.contains
      if s.fabric.recasts.any (fun r => r.cmd = cmd && r.sealed) then .next s
      else if !s.channelClear c || held then .next (s.later 1 (.recastSeal cmd) [])
      else
        let mine : Recast := { cmd, part := who.part, handle := dHandle d, tiles, units := List.range 42, sealed := false }
        let locks := s.fabric.recasts.filter fun r => r.cmd ≠ cmd
        let s := { s with fabric := { s.fabric with recasts := mine :: locks } }
        let lu := luOf s.control.chip d (tiles.headD 0)
        match s.firstUnread who.part d tiles with
        | some (t, .park code sub info aux entry frame) =>
          if c.stage = 6 then .next (s.recastRefuse c who d tiles 6 (some t))
          else
            let (s, id) := s.recordFault (luDie lu) code sub who (dHandle d) lu t info aux entry true [cmd] [] frame
            .next (if id = 0 then s.later 1 (.recastSeal cmd) [] else s)
        | _ =>
          let passes := s.chooses
          let s := s.bump
          match s.recastCheck who d c.box o tiles away passes with
          | some (sub, t) => .next (s.recastRefuse c who d tiles sub t)
          | none =>
            let s := { s with fabric := { s.fabric with recasts := { mine with sealed := true } :: locks } }
            .next ((List.range 42).foldl (fun s n => s.sometime (.sealReceive cmd n) []) s)
    | _, _ => .next s
/-- SEAL RECEIVE (R75): a unit first completes every access to the range that it accepted, then drops its cached translations
and replicas of the range; the last unit lets the rewrite begin. -/
def execSealReceive (cmd lu : Nat) (s : State) : Res :=
  match s.fabric.recasts.find? fun r => r.cmd = cmd && r.sealed with
  | none => .next s
  | some r =>
    let inRange (h t : Nat) : Bool := h = r.handle && r.tiles.contains t
    if !r.units.contains lu then .next s
    else if (s.accesses.any fun a => a.lu = lu && a.accepted && inRange (dHandle a.td) a.tile) ||
        s.delayed.any fun w => w.taken.any fun p => p.1 = lu && inRange p.2.1 p.2.2 then .next (s.later 1 (.sealReceive cmd lu) [])
    else
      let units := r.units.filter (· ≠ lu)
      let put (x : Recast) : Recast := if x.cmd = cmd then { x with units := units } else x
      let f := s.fabric
      let s := { s with fabric := { f with
        recasts := f.recasts.map put, cache := f.cache.filter fun c => !(c.lu = lu && inRange c.handle c.tile),
        replicas := if units.isEmpty then f.replicas.filter fun p => !inRange p.1 p.2.1 else f.replicas } }
      .next (if units.isEmpty then s.sometime (.recastRewrite cmd) [] else s)

/-- The new entry of a tile (R73, R74): the tile that holds the cursor keeps its floor, also where the cursor stands at its start (log 23). -/
def recastEntry (d : Desc) (o : RcastOp) (cursor tile : Nat) (e : Word64) : Word64 :=
  let f := dRole d
  let t := o.role.toNat
  let whole := !o.cur || cursor / dElems d < tile
  let e := setFld (setFld e 61 2 t) 46 6 (if t = roleO then o.owner.toNat else 0)
  if f = roleS && t = roleI && !o.cur then e
  else if f = roleO && t = roleO then e
  else if whole then setFld e 0 18 0 else e
/-- Zeros over a frame (O to A, R73). -/
def State.zeroFrame (s : State) (frame : Nat) : State := { s with mem := s.mem.writeN (frame * 65536) (List.replicate 65536 0) }
/-- Conversion of a frame's 4,096 elements, rounded to nearest even, into the start of the frame; what the rest of it then
holds no rule says (R73, R77; log 22). -/
def State.convertFrame (s : State) (frame : Nat) (W : Int) (f : Fmt) : State :=
  let n := f.width / 8
  let one (i : Nat) : List Byte := bytesLE n (roundTo f false (k128Num W (signed 128 (s.readElem frame (128 * i) 128)))).1
  let m := s.mem.writeN (frame * 65536) ((List.range 4096).flatMap one ++ (List.range (65536 - 4096 * n)).map fun i => Config.frameRest (s.fresh + i))
  { s with mem := m, fresh := s.fresh + 65536 }
/-- The same for the image of a tile on another chip. -/
def State.convertFar (s : State) (handle tile : Nat) (W : Int) (f : Fmt) : State :=
  let (s, bs) := s.farBytes handle tile 0 65536
  let n := f.width / 8
  let one (i : Nat) : List Byte := bytesLE n (roundTo f false (k128Num W (signed 128 (ofBytesLE ((bs.drop (16 * i)).take 16))))).1
  (s.setFar handle tile []).farPut handle tile 0 ((List.range 4096).flatMap one)
/-- Whether a recast writes the frame of a tile with that entry: zeros for O to A, the conversion from A, unless the tile is poisoned (R73, R350). -/
def recastFills (d : Desc) (o : RcastOp) (e : Word64) : Bool := (dRole d = roleO && o.role.toNat = roleA) || (dRole d = roleA && !ePoison e)
/-- Rewrite one tile: its entry, with every copy that a unit has kept of it, and its frame for O to A and for the conversions (R73, R75, R350); a tile
on another chip has its frame there. A data frame that is not valid parks the write, as any access (R345, R384). -/
def State.rewriteTile (s : State) (who : Who) (d : Desc) (o : RcastOp) (cursor tile : Nat) : State :=
  let h := dHandle d
  let W := dW d
  let f : Fmt := if o.cf then .bf16 else .f32
  let lu := luOf s.control.chip d tile
  let e := (s.entryOf who.part d tile).getD (setFld 0 60 1 1)
  let t := s.editEntry who.part d tile (recastEntry d o cursor tile)
  if s.stalled || !recastFills d o e then t
  else if eRem e then (if dRole d = roleO then t.farPut h tile 0 (List.replicate 65536 0) else t.convertFar h tile W f)
  else
    let p := ((s.entryPlace who.part d tile).map Prod.fst).getD who.part
    match s.s2 p (eFrame e) with
    | some a => if dRole d = roleO then t.zeroFrame a else t.convertFrame a W f
    | none =>
      if s.denies h tile 0x12 then t
      else t.stalls (.park ⟨0x12, 0, { who with part := p }, h, lu, tile, BitVec.ofNat 64 (eFrame e), BitVec.ofNat 64 (fldN (s.s2entry p (eFrame e)) 0 32), e, eFrame e⟩)
/-- The rewrite of every entry of the range, which completes the recast. -/
def State.rewriteAll (cmd : Nat) (s : State) : Res :=
  match s.cmd cmd, s.fabric.recasts.find? fun r => r.cmd = cmd && r.sealed with
  | some c, some r =>
    match c.recast, c.td with
    | some o, some d =>
      let who := (s.ctx (Machine.ck c.core c.slot)).who 0 c.core c.slot c.ch c.tick
      if !r.units.isEmpty then .next s
      else .next ((r.tiles.foldl (fun s t => s.rewriteTile who d o c.cursor t) s).recastOver c)
    | _, _ => .next s
  | _, _ => .next s
/-- RECAST REWRITE (R73-R75, R384). -/
def execRecastRewrite (cmd : Nat) (s : State) : Res := s.performs (.recastRewrite cmd) (State.rewriteAll cmd)

end Sys2Proof.Machine
end

