-- ==== Sys2Proof/Machine/Rows.lean ====
section
/-! DEFINITION. Load and store slots, fills, rope exchange (R167-R177, R364). -/
namespace Sys2Proof.Machine
open Sys2Proof

/-- `ld.row` (R168). -/
def execLdRow (v : BitVec 10) (r : RowRef) (s : State) : Res :=
  .next ((s.resultV v.toNat 3 (s.loadRow (s.rowOf r)) allOnes 0).postRow r)
/-- `ld.lane`: every lane becomes lane m (R168). -/
def execLdLane (v : BitVec 10) (r : RowRef) (lane : BitVec 8) (ty : BitVec 4) (s : State) : Res :=
  let w := (Fmt.get ty.toNat).width
  let x := laneN (s.loadRow (s.rowOf r)) w lane.toNat
  .next ((s.resultV v.toNat 3 (rowOfLanes w (List.replicate (1024 / w) x)) allOnes 0).postRow r)
/-- `ld.k` (R168). -/
def execLdK (kd : BitVec 3) (r : RowRef) (seg : BitVec 3) (s : State) : Res :=
  let x := (s.loadRow (s.rowOf r)) >>> (128 * seg.toNat)
  .next ((s.result 3 (.k kd.toNat) x allOnes 0).postRow r)
/-- `ld.peek`: nothing is popped (R170). -/
def execLdPeek (v : BitVec 10) (ring : BitVec 3) (j : BitVec 11) (s : State) : Res :=
  let r := s.me.regs.ringOf ring.toNat
  .next (s.resultV v.toNat 3 (s.loadRow (ringRow r (ringHead r + j.toNat))) allOnes 0)

/-- `st.row` (R168). -/
def execStRow (v : BitVec 10) (r : RowRef) (s : State) : Res :=
  .next ((s.storeRow (s.rowOf r) (s.v v) allOnes).postRow r)
/-- The bits of the lanes whose mask bit is set (R168). -/
def laneMask (w : Nat) (k : BitVec 128) : Row :=
  let n := 1024 / w
  rowOfLanes w ((List.range n).map fun i => if k.getLsbD (mbit n i) then 2 ^ w - 1 else 0)
/-- `st.rowk` (R168). -/
def execStRowk (v : BitVec 10) (r : RowRef) (km : BitVec 3) (ty : BitVec 4) (s : State) : Res :=
  .next ((s.storeRow (s.rowOf r) (s.v v) (laneMask (Fmt.get ty.toNat).width (s.k km))).postRow r)
/-- `st.lane` (R168). -/
def execStLane (v : BitVec 10) (r : RowRef) (lane : BitVec 8) (ty : BitVec 4) (s : State) : Res :=
  let w := (Fmt.get ty.toNat).width
  .next ((s.storeRow (s.rowOf r) (s.v v) (maskAt (w * lane.toNat) w)).postRow r)
/-- Pending guards of a fill: row base + j is filled at tick t + j (R169). -/
def fillGuards (cause own t base : Nat) : Nat → Nat → List Guard
  | 0, _ => []
  | n + 1, j => ⟨base + j, true, cause, own, some (t + j)⟩ :: fillGuards cause own t base n (j + 1)
/-- `st.fill` (R169). -/
def execStFill (sf : BitVec 6) (r : RowRef) (cnt : BitVec 6) (s : State) : Res :=
  let base := s.rowOf r
  let n := cnt.toNat + 1
  let x := rowOfLanes 64 (List.replicate 16 (s.s sf).toNat)
  let c := s.here
  let s' := s.setHere { c with guards := c.guards ++ fillGuards s.fresh s.cur.slot s.tick base n 0,
                               fills := c.fills ++ [⟨s.fresh, s.cur.slot, s.tick, base, n, 0, x, Sp.get 0 c.epoch s.cur.slot⟩] }
  .next (((s'.useEngine 1 n).bump).postRow r)
/-- The next row of a context's fill is written, at the context's own tick, and its guard clears (R169). -/
def execFillRowWrite (core slot : Nat) (s : State) : Res :=
  let c := s.core core
  match c.fills.find? fun f => f.slot = slot with
  | some f =>
    let row := f.base + f.done
    let step (g : Fill) : Fill := if g.id = f.id then { g with done := g.done + 1 } else g
    let c := { c with fills := (c.fills.map step).filter fun g => g.done < g.count }
    .next (s.setCore core ((c.landRow ⟨slot, f.tick + f.done, row, f.val, allOnes, f.epoch, .fill⟩).clearGuard row f.id true))
  | none => .next s
/-- `st.ring`: the row is reserved and pending at once, for its own context too (R54), and counts as landed two ticks later (R56, R170; log 18). -/
def execStRing (v : BitVec 10) (ring : BitVec 3) (s : State) : Res :=
  let n := ring.toNat
  let (ns, c) := s.me.reserve n 1
  let m := ns.headD 0
  let row := ringRow (s.me.regs.ringOf n) m
  let s := (s.setMe c).storeRow row (s.v v) allOnes
  let h := s.here
  let s := s.setHere (h.addGuard row true s.fresh s.cur.slot)
  let c := s.me
  .next (s.setMe { c with ringDue := c.ringDue ++ [⟨s.tick + 2, n, m, s.fresh, row, s.now + 2⟩] }).bump
/-- The ring rows appended two ticks before a tick land: their guards clear and the tail advances (R170). -/
def landRings : List RingDue → Core → Ctx → Core × Ctx
  | [], h, c => (h, c)
  | d :: r, h, c => landRings r (h.clearGuard d.row d.id true) (c.ringLanded d.ring d.n)
/-- The ring rows that land by the tick in hand. -/
def State.landRingRows (s : State) (core slot : Nat) (due : RingDue → Bool) : State :=
  let k := Machine.ck core slot
  let c := s.ctx k
  let (h, c) := landRings (c.ringDue.filter due) (s.core core) c
  (s.setCore core h).setCtx k { c with ringDue := c.ringDue.filter fun d => !due d }
/-- The ring rows of a context that waits land two cycles after their `st.ring`, and its own reads see them: its ticks stand still (R7, R170;
log 18). -/
def State.landWaiting (s : State) (core slot : Nat) : State :=
  let due (d : RingDue) : Bool := d.at_ ≤ s.now
  let rows := ((s.ctx (Machine.ck core slot)).ringDue.filter due).map RingDue.row
  let h := s.core core
  let seen (w : RowWrite) : RowWrite := if w.slot = slot && rows.contains w.row then { w with kind := .engine } else w
  let h := { h with log := h.log.map seen, shadow := h.shadow.filter fun w => !(w.slot = slot && rows.contains w.row) }
  (s.setCore core h).landRingRows core slot due

/-! Ropes. -/

/-- The strips of a gang's footprint: lowest and highest (R171). -/
def footprint (g : Gang) : Nat × Nat :=
  g.cores.foldl (fun p c => (min p.1 (coreStrip c), max p.2 (coreStrip c))) (119, 0)
/-- `xsend`: the source is read whole, then beat j is driven in cycle c + j; it stands on the sender's own strip three
cycles later (R173, R174). -/
def execXsend (v : BitVec 10) (r : RowRef) (sk dir hw : Bool) (s : State) : Res :=
  let x := if sk then s.v v else s.loadRow (s.rowOf r)
  let core := s.cur.core
  let n := if hw then 16 else 8
  let w := if hw then 64 else 128
  let (lo, hi) := match s.gang s.me with
    | some g => footprint g
    | none => (0, 119)
  let c := s.me
  let beat (j : Nat) : Beat :=
    { core, dir, strip := coreStrip core, bytes := (x >>> (j * w)).setWidth w |>.setWidth 128, full := !hw, parity := true,
      lo, hi, at_ := s.now + j + 3, part := c.place.part, tree := c.place.tree, l := core % 576 }
  let h := s.here
  let s := s.setHere (if dir then { h with laneW := s.now + n } else { h with laneE := s.now + n })
  let s : State := { s with fabric := { s.fabric with beats := s.fabric.beats ++ (List.range n).map beat } }
  .next ((s.useEngine (if dir then 4 else 3) n).postRow r)

/-- What a multiplexer sees in the current cycle: the OR of the bytes on the selected lane at the core's strip, and
whether their parity holds (R175, R176). The lane of a core on another die is its position's through track, where that die lies upstream;
downstream the core's lane does not pass here (R171). -/
def lookLane (beats : List Beat) (now core : Nat) (m : Mux) : BitVec 128 × Bool :=
  match m.lane with
  | none => (0, true)
  | some (die, course, row) =>
    let l := course * 24 + row
    let own := coreDie core
    let seen := beats.filter fun b => b.strip = coreStrip core && b.at_ = now && b.dir == m.dir &&
      (if die = own then b.core = die * 576 + l else b.l = l && coreDie b.core ≠ own && (if m.dir then own < die else die < own))
    (seen.foldl (fun x b => x ||| b.bytes) 0, seen.all Beat.parity)
/-- One captured part: 16 bytes at full width, the low 8 at half width (R175). -/
def captureMux (beats : List Beat) (now core : Nat) (m : Mux) : Mux :=
  let n := if m.hw then 16 else 8
  if m.start + m.parts.length = now && m.parts.length < n then
    let (x, ok) := lookLane beats now core m
    { m with parts := m.parts ++ [if m.hw then x &&& BitVec.ofNat 128 (2 ^ 64 - 1) else x], bad := m.bad || !ok }
  else m
/-- The core at a package course and row offset, when it lies in the package (R175). -/
def selectedCore (core : Nat) (dc dr : Int) : Option (Nat × Nat × Nat) :=
  let pc : Int := (coreDie core * 24 + coreCourse core : Nat) + dc
  let r : Int := (coreRow core : Nat) + dr
  if 0 ≤ pc && pc < 96 && 0 ≤ r && r < 24 then some (pc.toNat / 24, pc.toNat % 24, r.toNat) else none
/-- `xsel`: the destination row is pending, parts are captured cycle by cycle (R175). -/
def execXsel (r : RowRef) (mx dir hw : Bool) (dc : BitVec 8) (dr : BitVec 6) (s : State) : Res :=
  let core := s.cur.core
  let n := if hw then 16 else 8
  let row := s.rowOf r
  let m : Mux := { id := s.fresh, slot := s.cur.slot, mx, dir, hw, row, start := s.now,
                   lane := selectedCore core dc.toInt dr.toInt, parts := [], bad := false, epoch := Sp.get 0 s.here.epoch s.cur.slot }
  let c := s.here.addGuard row true s.fresh s.cur.slot
  let c := { c with muxes := c.muxes ++ [captureMux s.fabric.beats s.now core m] }
  let s := s.setHere (if mx then { c with mux1 := s.now + n } else { c with mux0 := s.now + n })
  .next (((s.useEngine (if mx then 6 else 5) n).later n (.xselRowWrite core s.fresh) []).bump.postRow r)
/-- The row of the captured parts, the first in the low bytes (R175). -/
def partsRow (hw : Bool) (ps : List (BitVec 128)) : Row :=
  rowOfLanes (if hw then 64 else 128) (ps.map BitVec.toNat)
/-- A multiplexer's row is written whole and its guard clears; a beat of bad parity makes an XFAB record (R175, R364). -/
def execXselRowWrite (core mux : Nat) (s : State) : Res :=
  let c := s.core core
  match c.muxes.find? fun m => m.id = mux with
  | some m =>
    let x := s.ctx (ck core m.slot)
    let v := partsRow m.hw m.parts
    let d := (c.landRow ⟨m.slot, x.iss.tick, m.row, v, allOnes, m.epoch, .rope⟩).clearGuard m.row m.id true
    let s := s.setCore core { d with muxes := d.muxes.filter fun e => e.id ≠ mux }
    if m.bad then
      let p := x.place
      let s := s.fabricEvent (coreDie core) p.part 0x22 1 core 0 p.queue p.tree 0 (BitVec.ofNat 64 ((m.lane.map fun e => e.2.1 * 24 + e.2.2).getD 0))
        (BitVec.ofNat 64 (s.now - ((s.gang x).map fun g => g.knot.cycle0).getD 0))
      match s.gang x with
      | some g => .next (s.setGang p.part p.tree { g with knot := { g.knot with xfab := true } })
      | none => .next s
    else .next s
  | none => .next s

/-- One strip further: none when dropped at the footprint's edge, or at a boundary at full width (R171, R172). The flag
tells whether a die boundary is crossed, which takes 8 cycles more (R173). -/
def moveBeat (b : Beat) : Option (Beat × Bool) :=
  if b.dir then
    if b.strip ≤ b.lo then none
    else
      let cross := b.strip % 30 = 0
      if cross && b.full then none else some ({ b with strip := b.strip - 1, at_ := b.at_ + (if cross then 9 else 1) }, cross)
  else
    if b.hi ≤ b.strip then none
    else
      let cross := b.strip % 30 = 29
      if cross && b.full then none else some ({ b with strip := b.strip + 1, at_ := b.at_ + (if cross then 9 else 1) }, cross)
/-- Move the beats whose latch time has passed; beats that meet on a crossing channel become their OR (R171, R176). The
second list names the meetings: the two beats. -/
def moveBeats (now : Nat) : List Beat → List Beat → List (Beat × Beat) → List Beat × List (Beat × Beat)
  | [], acc, hits => (acc, hits)
  | b :: r, acc, hits =>
    if now ≤ b.at_ then moveBeats now r (acc ++ [b]) hits
    else
      match moveBeat b with
      | none => moveBeats now r acc hits
      | some (b', cross) =>
        let meets (e : Beat) : Bool := cross && e.dir == b'.dir && e.l = b'.l && e.strip = b'.strip && e.at_ = b'.at_
        match acc.find? meets with
        | some e =>
          let o := { e with bytes := e.bytes ||| b'.bytes, parity := e.parity && b'.parity }
          moveBeats now r (acc.map fun x => if meets x then o else x) (hits ++ [(e, b')])
        | none => moveBeats now r (acc ++ [b']) hits
/-- XFAB records of beats that met (R361, R364). -/
def reportHits : List (Beat × Beat) → State → State
  | [], s => s
  | (a, b) :: r, s =>
    let die := b.strip / 30
    let c0 := match ((s.part b.part).gangs.find? fun g => g.1 = b.tree) with
      | some g => g.2.knot.cycle0
      | none => 0
    let s := s.fabricEvent die b.part 0x22 0 (max a.core b.core) 0
      (((s.part b.part).gangs.find? fun g => g.1 = b.tree).map (fun g => g.2.queue) |>.getD 0) b.tree 0
      (BitVec.ofNat 64 b.l) (BitVec.ofNat 64 (s.now - c0))
    let mark (p t : Nat) (s : State) : State :=
      match ((s.part p).gangs.find? fun g => g.1 = t) with
      | some g => s.setGang p t { g.2 with knot := { g.2.knot with xfab := true } }
      | none => s
    reportHits r (mark b.part b.tree (mark a.part a.tree s))
/-- Capture on every core that has multiplexers running. -/
def captureAll (beats : List Beat) (now : Nat) (cores : Sp Core) : Sp Core :=
  cores.map fun e => (e.1, { e.2 with muxes := e.2.muxes.map (captureMux beats now e.1) })
/-- `rope beat`: every beat advances one strip per cycle, meetings are reported, multiplexers capture (R173, R175). -/
def execRopeBeat (s : State) : Res :=
  let (bs, hits) := moveBeats s.now s.fabric.beats [] []
  let s := { s with fabric := { s.fabric with beats := bs }, cores := captureAll bs s.now s.cores }
  .next (reportHits hits s)
/-- Whether the ropes have something to do in this cycle: beats to move or parts to capture. -/
def ropesDue (s : State) : Bool :=
  s.fabric.beats.any (fun b => b.at_ < s.now) ||
  s.cores.any fun e => e.2.muxes.any fun m => m.start + m.parts.length = s.now && m.parts.length < (if m.hw then 16 else 8)

end Sys2Proof.Machine
end

