-- ==== Sys2Proof/Machine/Scalar.lean ====
section
/-! DEFINITION. Scalar, predicate and control instructions (R127-R145). -/
namespace Sys2Proof.Machine
open Sys2Proof

/-- A two-source alu operation with its latency (R117, R130). -/
def alu (s : State) (o : AluOp) (lat : Nat) (f : Word64 → Word64 → Word64) : Res :=
  .next (s.resultW lat (.s o.d.toNat) (f (s.s o.a) (s.aluY o)))

/-- Signed and unsigned quotient, remainder (R131): division by 0 gives all ones and the dividend. -/
def divS (x y : Word64) : Word64 := if y = 0 then BitVec.allOnes 64 else BitVec.ofInt 64 (x.toInt.tdiv y.toInt)
def remS (x y : Word64) : Word64 := if y = 0 then x else BitVec.ofInt 64 (x.toInt.tmod y.toInt)
def divU (x y : Word64) : Word64 := if y = 0 then BitVec.allOnes 64 else BitVec.ofNat 64 (x.toNat / y.toNat)
def remU (x y : Word64) : Word64 := if y = 0 then x else BitVec.ofNat 64 (x.toNat % y.toNat)
/-- High halves of products (R130). -/
def mulHi (x y : Word64) : Word64 := BitVec.ofInt 64 ((x.toInt * y.toInt) / (2 ^ 64 : Nat))
def mulHiU (x y : Word64) : Word64 := BitVec.ofNat 64 (x.toNat * y.toNat / 2 ^ 64)
/-- Shifts by an unsigned 64-bit amount (R132). -/
def shl (x y : Word64) : Word64 := if 64 ≤ y.toNat then 0 else x <<< y.toNat
def shr (x y : Word64) : Word64 := if 64 ≤ y.toNat then 0 else x >>> y.toNat
def sra (x y : Word64) : Word64 := x.sshiftRight (min y.toNat 63)
def rotl (x y : Word64) : Word64 := x.rotateLeft (y.toNat % 64)
def clz (x : Word64) : Word64 := BitVec.ofNat 64 (64 - bitLen x.toNat)
def ctz (x : Word64) : Word64 := BitVec.ofNat 64 (ctzN 64 x.toNat)
def popc (x : Word64) : Word64 := BitVec.ofNat 64 (popN 64 x.toNat)
/-- The divider is busy for 12 ticks (R119). -/
def State.useDivider (s : State) : State := s.useEngine 0 12

/-- `sadd` (R130). -/
def execSadd (o : AluOp) (s : State) : Res := alu s o 1 (· + ·)
/-- `ssub` (R130). -/
def execSsub (o : AluOp) (s : State) : Res := alu s o 1 (· - ·)
/-- `smul` (R130). -/
def execSmul (o : AluOp) (s : State) : Res := alu s o 3 (· * ·)
/-- `smulh` (R130). -/
def execSmulh (o : AluOp) (s : State) : Res := alu s o 3 mulHi
/-- `smulhn` (R130). -/
def execSmulhn (o : AluOp) (s : State) : Res := alu s o 3 mulHiU
/-- `sdiv` (R130, R131). -/
def execSdiv (o : AluOp) (s : State) : Res := alu s.useDivider o 12 divS
/-- `sdivn` (R130, R131). -/
def execSdivn (o : AluOp) (s : State) : Res := alu s.useDivider o 12 divU
/-- `srem` (R130, R131). -/
def execSrem (o : AluOp) (s : State) : Res := alu s.useDivider o 12 remS
/-- `sremn` (R130, R131). -/
def execSremn (o : AluOp) (s : State) : Res := alu s.useDivider o 12 remU
/-- `sand` (R130). -/
def execSand (o : AluOp) (s : State) : Res := alu s o 1 (· &&& ·)
/-- `sor` (R130). -/
def execSor (o : AluOp) (s : State) : Res := alu s o 1 (· ||| ·)
/-- `sxor` (R130). -/
def execSxor (o : AluOp) (s : State) : Res := alu s o 1 (· ^^^ ·)
/-- `sandn` (R130). -/
def execSandn (o : AluOp) (s : State) : Res := alu s o 1 (fun x y => x &&& ~~~y)
/-- `sshl` (R130). -/
def execSshl (o : AluOp) (s : State) : Res := alu s o 1 shl
/-- `sshr` (R130). -/
def execSshr (o : AluOp) (s : State) : Res := alu s o 1 shr
/-- `ssra` (R130). -/
def execSsra (o : AluOp) (s : State) : Res := alu s o 1 sra
/-- `srot` (R130). -/
def execSrot (o : AluOp) (s : State) : Res := alu s o 1 rotl
/-- `sclz` (R130). -/
def execSclz (o : AluOp) (s : State) : Res := alu s o 1 (fun x _ => clz x)
/-- `sctz` (R130). -/
def execSctz (o : AluOp) (s : State) : Res := alu s o 1 (fun x _ => ctz x)
/-- `spop` (R130). -/
def execSpop (o : AluOp) (s : State) : Res := alu s o 1 (fun x _ => popc x)
/-- `smin` (R130). -/
def execSmin (o : AluOp) (s : State) : Res := alu s o 1 (fun x y => if x.slt y then x else y)
/-- `smax` (R130). -/
def execSmax (o : AluOp) (s : State) : Res := alu s o 1 (fun x y => if x.slt y then y else x)
/-- `sminn` (R130). -/
def execSminn (o : AluOp) (s : State) : Res := alu s o 1 (fun x y => if x.ult y then x else y)
/-- `smaxn` (R130). -/
def execSmaxn (o : AluOp) (s : State) : Res := alu s o 1 (fun x y => if x.ult y then y else x)
/-- `ssel` (R133). -/
def execSsel (o : SelOp) (s : State) : Res := .next (s.resultW 1 (.s o.d.toNat) (if s.p o.x then s.s o.a else s.selY o))
/-- `sli` (R133). -/
def execSli (d : BitVec 6) (imm : BitVec 32) (s : State) : Res := .next (s.resultW 1 (.s d.toNat) (imm.signExtend 64))
/-- `slih`: the low half of sd is read at issue (R133). -/
def execSlih (d : BitVec 6) (imm : BitVec 32) (s : State) : Res :=
  .next (s.resultW 1 (.s d.toNat) (imm ++ (s.s d).setWidth 32))
/-- `smov` by its kind (R133). -/
def execSmov (d a : BitVec 6) (kind idx : BitVec 3) (h : Bool) (s : State) : Res :=
  let g := s.me.regs
  let off := if h then 64 else 0
  match kind.toNat with
  | 0 => .next (s.resultW 1 (.s d.toNat) (s.s a))
  | 1 => .next (s.resultW 1 (.s d.toNat) ((s.k idx).extractLsb' off 64))
  | 2 => .next (s.result 1 (.k idx.toNat) ((s.s a).setWidth 1024 <<< off) (maskAt off 64) 0)
  | 3 => .next (s.resultW 1 (.s d.toNat) ((g.p ||| 1).setWidth 64))
  | 4 => .next (s.resultW 1 (.s d.toNat) ((Sp.get 0 g.lc idx.toNat).setWidth 64))
  | 5 => .next (s.resultW 1 (.s d.toNat) ((Sp.get 0 g.li idx.toNat).signExtend 64))
  | 6 => .next (s.resultW 1 (.lc idx.toNat) (s.s a))
  | _ => .next (s.resultW 1 (.li idx.toNat) (s.s a))
/-- A one-bit result for a predicate (R134, R135). -/
def State.resultP (s : State) (pd : Nat) (b : Bool) : State := s.result 1 (.p pd) (BitVec.ofNat 1024 (b2n b)) 1 0
/-- `scmp.cc` (R134). -/
def execScmp (o : SelOp) (s : State) : Res := .next (s.resultP (o.d.toNat % 16) (condS o.x.toNat (s.s o.a) (s.selY o)))
/-- `pand` (R135). -/
def execPand (pd pa pb : BitVec 4) (s : State) : Res := .next (s.resultP pd.toNat (s.p pa && s.p pb))
/-- `por` (R135). -/
def execPor (pd pa pb : BitVec 4) (s : State) : Res := .next (s.resultP pd.toNat (s.p pa || s.p pb))
/-- `pxor` (R135). -/
def execPxor (pd pa pb : BitVec 4) (s : State) : Res := .next (s.resultP pd.toNat (s.p pa != s.p pb))
/-- `pnot` (R135). -/
def execPnot (pd pa : BitVec 4) (s : State) : Res := .next (s.resultP pd.toNat (!s.p pa))
/-- `pmov` (R135). -/
def execPmov (pd : BitVec 4) (src : BitVec 6) (f : Bool) (s : State) : Res :=
  .next (s.resultP pd.toNat (if f then s.s src != 0 else s.p (src.setWidth 4)))

/-- A transfer is taken: its two delay bundles issue, then the target (R136). -/
def State.jump (s : State) (target : Word64) : State :=
  let c := s.me
  s.setMe { c with iss := { c.iss with target := some target } }
/-- `br` (R136). -/
def execBr (disp : BitVec 32) (s : State) : Res := .next (s.jump (s.cur.pc + disp.signExtend 64 <<< 3))
/-- `jmp` (R136). -/
def execJmp (tgt : BitVec 48) (s : State) : Res := .next (s.jump (tgt.setWidth 64 <<< 3))
/-- `call`: the link is the address after the second delay bundle (R136). -/
def execCall (d : BitVec 6) (disp : BitVec 32) (s : State) : Res :=
  .next ((s.jump (s.cur.pc + disp.signExtend 64 <<< 3)).resultW 1 (.s d.toNat) s.cur.link)
/-- `ret` (R136). -/
def execRet (a : BitVec 6) (s : State) : Res := .next (s.jump (s.s a))
/-- `jr` (R136). -/
def execJr (a : BitVec 6) (disp : BitVec 32) (s : State) : Res := .next (s.jump (s.s a + disp.signExtend 64 <<< 3))

/-- `loop` (R138). -/
def execLoop (lvl : BitVec 3) (ci : Bool) (a : BitVec 6) (stride : BitVec 16) (cnt : BitVec 25) (s : State) : Res :=
  let n := lvl.toNat
  let v : Word64 := if ci then cnt.setWidth 64 else (s.s a).extractLsb' 0 32 |>.setWidth 64
  .next ((((s.resultW 1 (.lc n) v).resultW 1 (.stride n) (stride.setWidth 64)).resultW 1 (.li n) 0).resultW 1 (.iter n) 0)

/-- Levels lo to hi. -/
def levels (lo hi : Nat) : List Nat := (List.range 6).filter fun k => lo ≤ k && k ≤ hi
/-- The address n stored bundles further on, by the lengths their head words give, and how many are left where a frame is not mapped (R103,
R139). -/
def State.passBundles (s : State) (part : Nat) (pc : Word64) : Nat → Word64 × Nat
  | 0 => (pc, 0)
  | n + 1 =>
    match s.readPart part pc.toNat with
    | some h => State.passBundles s part (pc + BitVec.ofNat 64 (8 * bundleWords h)) n
    | none => (pc, n + 1)
/-- Writes 0 to an index register and its iteration counter (R139). -/
def State.clearLevels (s : State) : List Nat → State
  | [] => s
  | k :: r => State.clearLevels ((s.resultW 1 (.li k) 0).resultW 1 (.iter k) 0) r
/-- Predicates p8 to p15 become 1, 0, ..., 0 (R139). -/
def State.stagePreds (s : State) : List Nat → State
  | [] => s
  | k :: r => State.stagePreds (s.resultP k (k = 8)) r
/-- `lbody` (R139): it stands in its group's last bundle (R112), so the body starts at the address after that group as it was fetched. The count
of bundles still to issue includes this one; with a zero count the body is skipped, and the group entry that follows passes over what lies in a
frame that is not mapped. -/
def execLbody (len : BitVec 6) (lo hi e : BitVec 3) (s : State) : Res :=
  let c := s.me
  let start := s.cur.link
  let n := len.toNat + 1
  if (levels lo.toNat hi.toNat).any fun k => Sp.get 0 c.regs.lc k = 0 then
    let (pc, left) := s.passBundles c.place.part start n
    let c := s.me
    .next ((s.setMe { c with iss := { c.iss with skip := left } }).jump pc)
  else
    let s := (s.clearLevels (levels lo.toNat hi.toNat)).stagePreds [8, 9, 10, 11, 12, 13, 14, 15]
    let lpc := pack [(63, 1), (59, e.toNat), (56, lo.toNat), (53, hi.toNat), (47, len.toNat), (3, fldN start 3 44)]
    let s := s.resultW 1 .lpc lpc
    let c := s.me
    .next (s.setMe { c with body := some ⟨start, n, n + 1, false, []⟩ })

/-- The value of a special register at the tick (R28, R52, R143). -/
def Ctx.special (c : Ctx) (core slot spec : Nat) : Word64 :=
  match spec with
  | 0 => BitVec.ofNat 64 c.iss.tick
  | 1 => c.place.phase.setWidth 64
  | 2 => pack [(32, c.place.group.toNat), (4, c.place.queue), (0, c.place.tree)]
  | 3 => BitVec.ofNat 64 slot
  | 4 => BitVec.ofNat 64 core
  | 5 => c.regs.vrb.setWidth 64
  | 6 => c.regs.fmt
  | 7 => c.regs.lpc
  | 8 => pack [(32, c.place.limit), (0, c.place.base)]
  | n => c.regs.ringOf (n - 16)
/-- `mfs` (R143). -/
def execMfs (d : BitVec 6) (spec : BitVec 6) (s : State) : Res :=
  .next (s.resultW 1 (.s d.toNat) (s.me.special s.cur.core s.cur.slot spec.toNat))
/-- The bits of `fmt` that are stored (R92): format part and flags. -/
def fmtLow : Nat := 0x0f303f3f
def fmtBits : Word64 := BitVec.ofNat 64 (0x3f0000000000 + fmtLow)
/-- `mts` (R55, R93, R143). -/
def execMts (a : BitVec 6) (spec : BitVec 6) (s : State) : Res :=
  let x := s.s a
  match spec.toNat with
  | 5 => .next (s.writes 1 .vrb (x.setWidth 1024) allOnes)
  | 6 => .next (s.writes 3 .fmt ((x &&& fmtBits).setWidth 1024) allOnes)
  | n => if 16 ≤ n && n < 24 then .next (s.writes 1 (.ring (n - 16)) ((x &&& BitVec.ofNat 64 0xffff000000000001).setWidth 1024) allOnes)
    else .next s
/-- `amov` (R144). -/
def execAmov (dir : Bool) (ar : BitVec 4) (sr : BitVec 6) (s : State) : Res :=
  if dir then .next (s.resultW 1 (.s sr.toNat) ((s.a ar).setWidth 64)) else .next (s.resultW 1 (.a ar.toNat) (s.s sr))
/-- `aadd` (R144). -/
def execAadd (ad aa : BitVec 4) (i : Bool) (b : BitVec 6) (imm : BitVec 24) (s : State) : Res :=
  let y : Word64 := if i then imm.signExtend 64 else s.s b
  .next (s.resultW 1 (.a ad.toNat) ((s.a aa).setWidth 64 + y))

end Sys2Proof.Machine
end

