-- ==== Sys2Proof/Machine/Sync.lean ====
section
/-! DEFINITION. Sync instructions and the synchronisation engines (R228-R243, R366). -/
namespace Sys2Proof.Machine
open Sys2Proof

/-! Superstep, issue and ordering (R229-R231). -/

/-- `snop` (R104, R229). -/
def execSnop (s : State) : Res := .next s
/-- `knot`: all hold states empty; the member arrives when R41 holds (R106, R229). -/
def execKnot (s : State) : Res :=
  let c := s.me
  .next (s.setMe { c with hold := [], iss := { c.iss with knot := true } })
/-- An operation that takes effect after its group, with what its record names (R112, R330). -/
def State.afterGroup (s : State) (op : Instr) : State :=
  let c := s.me
  let a : After := match c.grp with
    | some g => ⟨op, g.idx, g.start, g.tick0, ((g.bundles[g.idx]?).map fun b => b.2.2).getD []⟩
    | none => ⟨op, 0, s.cur.pc, s.tick, []⟩
  s.setMe { c with iss := { c.iss with after := c.iss.after ++ [a] } }
/-- `yield` takes effect after the group (R31, R112); none in an exchange superstep (R44). -/
def execYield (s : State) : Res := .next (s.afterGroup .yield)
/-- `drain`: the group has already waited at its entry (R113, R217, R229). -/
def execDrain (_ch : BitVec 2) (s : State) : Res := .next s
/-- Operations of a context not yet complete in the queues that a fence mask names (R230). DESIGN CHOICE: a `pl.q`, `cl.run`, `cl.arm` or `mlr` is
earlier only as a submission of its engine, not as a command of its channel, while a fence on that channel holds a later one back (log 79). -/
def State.earlier (s : State) (core slot : Nat) (mask : BitVec 7) : List Nat :=
  let c := s.ctx (Machine.ck core slot)
  let own (d : Cmd) : Bool := d.core = core && d.slot = slot && !d.done
  let copy (d : Cmd) : Bool := match d.op with
    | .plQ _ => mask.getLsbD 5
    | .clRun _ => mask.getLsbD 6
    | .clArm _ => mask.getLsbD 6
    | .mlr _ => mask.getLsbD 6
    | _ => mask.getLsbD d.ch
  (s.cmds.filter fun d => own d && copy d).map Cmd.id ++ (if mask.getLsbD 4 then c.matrix.queue.map MEntry.id else [])
/-- Put a fence on the named channels. -/
def fenceChans (mask : BitVec 7) (ids : List Nat) : List Nat → Sp Chan → Sp Chan
  | [], m => m
  | n :: r, m =>
    let ch := Sp.get Chan.reset m n
    fenceChans mask ids r (if mask.getLsbD n then Sp.put Chan.reset m n { ch with fence := ch.fence ++ ids } else m)
/-- `qfence` (R230). -/
def execQfence (mask : BitVec 7) (s : State) : Res :=
  let ids := s.earlier s.cur.core s.cur.slot mask
  let c := s.me
  let add (on : Bool) (l : List Nat) : List Nat := if on then l ++ ids else l
  .next (s.setMe { c with chan := fenceChans mask ids [0, 1, 2, 3] c.chan, fenceMx := add (mask.getLsbD 4) c.fenceMx,
                          fencePl := add (mask.getLsbD 5) c.fencePl, fenceCl := add (mask.getLsbD 6) c.fenceCl })
/-- `lfence`: later row writes of the context stay behind its earlier ones (R53). -/
def execLfence (s : State) : Res :=
  let c := s.here
  .next (s.setHere { c with epoch := Sp.put 0 c.epoch s.cur.slot (Sp.get 0 c.epoch s.cur.slot + 1) })
/-- `fmtset`: bits 31:0 from tick t + 3, flags kept (R92, R93). -/
def execFmtset (value : BitVec 32) (s : State) : Res :=
  .next (s.writes 3 .fmt ((value &&& BitVec.ofNat 32 0x0f303f3f).setWidth 1024) (maskAt 0 32))
/-- `tsys`: after the group (R231). -/
def execTsys (code : BitVec 16) (s : State) : Res := .next (s.afterGroup (.tsys code))
/-- `brk`: after the group (R231). -/
def execBrk (code : BitVec 16) (s : State) : Res := .next (s.afterGroup (.brk code))
/-- `halt`: the context stops issuing after the group; hold states empty (R39, R106). -/
def execHalt (s : State) : Res :=
  let c := s.me
  .next (s.setMe { c with hold := [], iss := { c.iss with halted := true } })

/-! Issue of an operation to an SE (R235-R237). -/

/-- The cycle in which an operation issued now reaches its SE: never before an earlier one of the same context to the
same SE (R237; log 4). -/
def State.seArrives (s : State) (die : Nat) : Nat :=
  s.seReqs.foldl (fun t r => if r.core = s.cur.core && r.slot = s.cur.slot && r.die = die then max t r.at_ else t)
    (s.now + 1 + Config.duration s.fresh)
/-- Send an operation to the SE of a die. -/
def State.seSend (s : State) (op : Instr) (die : Nat) (handle y z : Word64) : State :=
  let r : SeReq := { id := s.fresh, at_ := s.seArrives die, core := s.cur.core, slot := s.cur.slot,
                     place := s.me.place, op, handle, y, z, die, performed := false, reply := 0, refused := none }
  ({ s with seReqs := s.seReqs ++ [r] } : State).travels.bump
/-- A handle's die (R233). -/
def handleDie (h : Word64) : Nat := fldN h 56 2
/-- A returning operation: its result lands at t + n once the reply is there (R116, R236). -/
def State.seReturning (s : State) (op : Instr) (o : SeOp) (die : Nat) : State :=
  let c := s.me
  let e : Result := { due := c.iss.tick + o.land.toNat, dest := .s o.d.toNat, val := 0, mask := allOnes, flags := 0,
                      slot := true, arrived := false, id := s.fresh }
  (s.setMe { c with landing := c.landing ++ [e] }).seSend op die (s.s o.h) (s.s o.b) (s.s o.c)
/-- A posted operation. -/
def State.sePosted (s : State) (op : Instr) (o : SeOp) : State := s.seSend op (handleDie (s.s o.h)) (s.s o.h) (s.s o.b) (s.s o.c)
/-- A waiting operation: the next group entry waits for its grant (R240-R242). -/
def State.seWaiting (s : State) (op : Instr) (o : SeOp) : State :=
  let c := s.me
  (s.setMe { c with iss := { c.iss with grant := some s.fresh } }).sePosted op o

/-- `se.ld` (R235). -/
def execSeLd (o : SeOp) (s : State) : Res := .next (s.seReturning (.seLd o) o (handleDie (s.s o.h)))
/-- `se.st` (R235). -/
def execSeSt (o : SeOp) (s : State) : Res := .next (s.sePosted (.seSt o) o)
/-- `se.add` (R235). -/
def execSeAdd (o : SeOp) (s : State) : Res := .next (s.seReturning (.seAdd o) o (handleDie (s.s o.h)))
/-- `se.min` (R235). -/
def execSeMin (o : SeOp) (s : State) : Res := .next (s.seReturning (.seMin o) o (handleDie (s.s o.h)))
/-- `se.max` (R235). -/
def execSeMax (o : SeOp) (s : State) : Res := .next (s.seReturning (.seMax o) o (handleDie (s.s o.h)))
/-- `se.and` (R235). -/
def execSeAnd (o : SeOp) (s : State) : Res := .next (s.seReturning (.seAnd o) o (handleDie (s.s o.h)))
/-- `se.or` (R235). -/
def execSeOr (o : SeOp) (s : State) : Res := .next (s.seReturning (.seOr o) o (handleDie (s.s o.h)))
/-- `se.xor` (R235). -/
def execSeXor (o : SeOp) (s : State) : Res := .next (s.seReturning (.seXor o) o (handleDie (s.s o.h)))
/-- `se.swap` (R235). -/
def execSeSwap (o : SeOp) (s : State) : Res := .next (s.seReturning (.seSwap o) o (handleDie (s.s o.h)))
/-- `se.cas` (R235). -/
def execSeCas (o : SeOp) (s : State) : Res := .next (s.seReturning (.seCas o) o (handleDie (s.s o.h)))
/-- `se.arrive` (R239). -/
def execSeArrive (o : SeOp) (s : State) : Res := .next (s.seReturning (.seArrive o) o (handleDie (s.s o.h)))
/-- `se.await` (R240). -/
def execSeAwait (o : SeOp) (s : State) : Res := .next (s.seWaiting (.seAwait o) o)
/-- `se.semdown` (R241). -/
def execSeSemdown (o : SeOp) (s : State) : Res := .next (s.seWaiting (.seSemdown o) o)
/-- `se.semup` (R241). -/
def execSeSemup (o : SeOp) (s : State) : Res := .next (s.sePosted (.seSemup o) o)
/-- `se.alloc`: the SE of the issuing core's die (R234). -/
def execSeAlloc (o : SeOp) (s : State) : Res := .next (s.seReturning (.seAlloc o) o (coreDie s.cur.core))
/-- `se.free` (R234). -/
def execSeFree (o : SeOp) (s : State) : Res := .next (s.sePosted (.seFree o) o)

/-! At the SE. -/

/-- SRAM variables of an SE (R232). -/
def seCount : Nat := 786432
/-- Key of a variable within its die: SRAM index, or 2^40 plus the index in the overflow area. -/
def seKey (h : Word64) : Nat := if bit h 63 then 2 ^ 40 + fldN h 0 40 else fldN h 0 40
/-- The overflow area of a die: base and count (R232, R312). -/
def overflowArea (c : PartCfg) (die : Nat) : Nat × Nat :=
  match c.overflow.find? fun e => e.1 = die with
  | some (_, b, n) => (b, n)
  | none => (0, 0)
/-- Partition address of an overflow variable. -/
def seAddr (c : PartCfg) (h : Word64) : Nat := (overflowArea c (handleDie h)).1 + 16 * fldN h 0 40
/-- Whether an operation takes no handle. -/
def isAlloc : Instr → Bool
  | .seAlloc _ => true
  | _ => false
def isFree : Instr → Bool
  | .seFree _ => true
  | _ => false
/-- Why an SE refuses an operation (R366). DESIGN CHOICE: of several reasons the one with the lowest sub-code is recorded (log 79). -/
def State.seRefusal (s : State) (r : SeReq) (part : Nat) : Option Nat :=
  let h := r.handle
  let cfg := (s.part part).cfg
  let area := overflowArea cfg (handleDie h)
  if isAlloc r.op then none
  else if !cfg.dies.contains (handleDie h) then some 0
  else if fldN h 58 5 ≠ 0 || fldN h 40 16 ≠ 0 || (!bit h 63 && seCount ≤ fldN h 0 40) then some 1
  else if bit h 63 && (area.2 ≤ fldN h 0 40 ||
      (!isFree r.op && (s.s2 part (seAddr cfg h / 65536)).isNone && !s.s2deferred part (seAddr cfg h / 65536))) then some 2
  else if !bit h 63 && !isFree r.op && (s.die r.die).se.lost.contains (fldN h 0 40) then some 3
  else none
/-- The value of a variable. -/
def State.seRead (s : State) (part : Nat) (h : Word64) : BitVec 128 :=
  if bit h 63 then
    let a := seAddr (s.part part).cfg h
    ((s.readPart part (a + 8)).getD 0) ++ ((s.readPart part a).getD 0)
  else Sp.get 0 (s.die (handleDie h)).se.vars (fldN h 0 40)
/-- Write a variable whole. A deferred frame of the overflow area is first made valid (R384). -/
def State.seWrite (s : State) (part : Nat) (h : Word64) (v : BitVec 128) : State :=
  if bit h 63 then
    let a := seAddr (s.part part).cfg h
    s.writeParts part a [v.extractLsb' 0 64, v.extractLsb' 64 64]
  else
    let d := s.die (handleDie h)
    s.setDie (handleDie h) { d with se := { d.se with vars := Sp.put 0 d.se.vars (fldN h 0 40) v } }
/-- The two words of a variable, and a word replaced (R232). -/
def seWord (v : BitVec 128) (wd : Bool) : Word64 := if wd then v.extractLsb' 64 64 else v.extractLsb' 0 64
def seSetWord (v : BitVec 128) (wd : Bool) (x : Word64) : BitVec 128 :=
  if wd then x ++ v.extractLsb' 0 64 else v.extractLsb' 64 64 ++ x
/-- The new value of the word of a data operation, and whether it returns (R235). -/
def seData (i : Instr) (x y z : Word64) : Option (Bool × Bool × Word64) :=
  match i with
  | .seLd o => some (o.wd, true, x)
  | .seSt o => some (o.wd, false, y)
  | .seAdd o => some (o.wd, true, x + y)
  | .seMin o => some (o.wd, true, if y.slt x then y else x)
  | .seMax o => some (o.wd, true, if x.slt y then y else x)
  | .seAnd o => some (o.wd, true, x &&& y)
  | .seOr o => some (o.wd, true, x ||| y)
  | .seXor o => some (o.wd, true, x ^^^ y)
  | .seSwap o => some (o.wd, true, y)
  | .seCas o => some (o.wd, true, if x = z then y else x)
  | _ => none
/-- Which word a data operation selects. -/
def seWd (i : Instr) : Bool :=
  match seData i 0 0 0 with
  | some (w, _, _) => w
  | none => false

/-- A phase g is complete for a barrier open at phase p (R240). -/
def phaseDone (p g : Nat) : Bool := let d := (p + 256 - g) % 256; 1 ≤ d && d ≤ 128
/-- The barrier operation of R239: new variable, status word, whether a phase completed. -/
def barrier (v : BitVec 128) (y : Word64) : BitVec 128 × Word64 × Bool :=
  let g := fldN y 0 8
  let p := fldN v 0 8
  let arrived := fldN v 64 32
  let target := fldN v 96 32
  let ovf := fldN v 16 16
  let status (v : BitVec 128) (st : Nat) : Word64 := pack [(32, fldN v 64 32), (16, fldN v 0 8), (0, st)]
  if g = p then
    if target ≤ arrived + 1 then
      let w := setFld (setFld v 0 8 ((p + 1) % 256)) 64 32 0
      (w, status w 1, true)
    else
      let w := setFld v 64 32 (arrived + 1)
      (w, status w 0, false)
  else if g = (p + 255) % 256 then
    let w := setFld v 16 16 (min (ovf + 1) 65535)
    (w, status w 2, false)
  else (v, status v 3, false)

/-- Grant the waiters of a key from the front (R240, R241): those granted, those that stay, the count left. A request for
units that does not fit holds back later ones for units. -/
def grants (key : Nat) (p : Nat) : List Waiter → Bool → Word64 → List Waiter × List Waiter × Word64
  | [], _, n => ([], [], n)
  | w :: r, stuck, n =>
    if w.key ≠ key then let (g, l, m) := grants key p r stuck n; (g, w :: l, m)
    else match w.units with
      | none => if phaseDone p w.tag then let (g, l, m) := grants key p r stuck n; (w :: g, l, m)
                else let (g, l, m) := grants key p r stuck n; (g, w :: l, m)
      | some u => if !stuck && u ≤ n.toNat then let (g, l, m) := grants key p r false (n - BitVec.ofNat 64 u); (w :: g, l, m)
                  else let (g, l, m) := grants key p r true n; (g, w :: l, m)
/-- A grant sets out (R240, R241, R369). -/
def State.seGrant (s : State) (id : Nat) : State := s.travels.sometime (.seGrantArrival id) []
/-- Send grants to their contexts. -/
def State.sendGrants (s : State) : List Waiter → State
  | [] => s
  | w :: r => State.sendGrants (s.seGrant w.id) r
def State.setSe (s : State) (die : Nat) (e : Se) : State := s.setDie die { s.die die with se := e }
/-- Perform the frees whose waiters are gone (R234). -/
def Se.settle (e : Se) : Se :=
  let go := e.freeing.filter fun k => !e.waiters.any fun w => w.key = k
  { e with used := e.used.filter fun k => !go.contains k, lost := e.lost.filter fun k => !go.contains k,
           freeing := e.freeing.filter fun k => !go.contains k }
/-- Serve the waiters of a variable that are now due; `se.arrive` releases awaiters, `se.semup` those for units, nothing else any (R243). -/
def State.serve (s : State) (die part : Nat) (h : Word64) (arrive : Bool) : State :=
  let key := seKey h
  let v := s.seRead part h
  let e := (s.die die).se
  let mine := e.waiters.filter fun w => w.key = key && w.units.isNone = arrive
  let (g, _, n) := grants key (fldN v 0 8) mine false (seWord v false)
  let s := if arrive then s else s.seWrite part h (seSetWord v false n)
  let e := (s.die die).se
  let s := s.setSe die ({ e with waiters := e.waiters.filter fun w => !g.contains w }).settle
  s.sendGrants g
/-- The first variable at or after i that is neither handed out nor lost, in at most n tries. -/
def freeVar (e : Se) : Nat → Nat → Option Nat
  | _, 0 => none
  | i, n + 1 => if e.used.contains i || e.lost.contains i then freeVar e ((i + 1) % seCount) n else some i
/-- Send a reply of a returning operation (R236, R369). -/
def State.seReply (s : State) (id : Nat) (v : Word64) : State :=
  let put (r : SeReq) : SeReq := if r.id = id then { r with performed := true, reply := v } else r
  ({ s with seReqs := s.seReqs.map put } : State).travels.sometime (.resultArrival id) []
/-- A request that needs no reply is gone. -/
def State.seDone (s : State) (id : Nat) : State := { s with seReqs := s.seReqs.filter fun r => r.id ≠ id }
/-- What an operation does on its variable (R234, R235, R239-R241, R243). -/
def State.sePerform (s : State) (r : SeReq) (part : Nat) : State :=
  let h := r.handle
  let die := r.die
  let s := if bit h 63 && !isFree r.op && !isAlloc r.op then s.validate part (seAddr (s.part part).cfg h / 65536) else s
  let v := s.seRead part h
  match r.op with
  | .seAlloc _ =>
    let e := (s.die die).se
    match freeVar e (Config.index s.fresh % seCount) (min seCount (e.used.length + e.lost.length + 1)) with
    | some i =>
      ((s.setSe die { e with used := i :: e.used, vars := Sp.del e.vars i }).bump).seReply r.id (pack [(56, die), (0, i)])
    | none => s.seReply r.id (BitVec.allOnes 64)
  | .seFree _ =>
    let e := (s.die die).se
    if bit h 63 then s.seDone r.id
    else if e.used.contains (seKey h) || e.lost.contains (seKey h) then (s.setSe die ({ e with freeing := seKey h :: e.freeing }).settle).seDone r.id
    else s.seDone r.id
  | .seArrive _ =>
    let (w, st, completed) := barrier v r.y
    let s := (s.seWrite part h w).seReply r.id st
    if completed then s.serve die part h true else s
  | .seAwait _ =>
    let g := fldN r.y 0 8
    if phaseDone (fldN v 0 8) g then (s.seDone r.id).seGrant r.id
    else
      let e := (s.die die).se
      (s.setSe die { e with waiters := e.waiters ++ [⟨r.id, r.core, r.slot, seKey h, g, none⟩] }).seDone r.id
  | .seSemdown _ =>
    let e := (s.die die).se
    let n := seWord v false
    if r.y.toNat ≤ n.toNat && !e.waiters.any fun w => w.key = seKey h && w.units.isSome then
      ((s.seWrite part h (seSetWord v false (n - r.y))).seDone r.id).seGrant r.id
    else (s.setSe die { e with waiters := e.waiters ++ [⟨r.id, r.core, r.slot, seKey h, 0, some r.y.toNat⟩] }).seDone r.id
  | .seSemup _ => ((s.seWrite part h (seSetWord v false (seWord v false + r.y))).seDone r.id).serve die part h false
  | op =>
    let x := seWord v (seWd op)
    match seData op x r.y r.z with
    | some (wd, ret, n) =>
      let s := s.seWrite part h (seSetWord v wd n)
      if ret then s.seReply r.id x else s.seDone r.id
    | none => s.seDone r.id
/-- A refused operation performs nothing: all ones returned, a wait granted, a posted operation dropped (R366). -/
def State.seRefuse (s : State) (r : SeReq) (sub : Nat) : State :=
  let p := r.place
  let s := s.fabricEvent r.die p.part 0x23 sub r.core 0 p.queue p.tree 0 r.handle 0
  let s := s.refusalStatus p.part p.queue p.tree s.fresh 0xa3
  match r.op with
  | .seAwait _ => (s.seDone r.id).seGrant r.id
  | .seSemdown _ => (s.seDone r.id).seGrant r.id
  | .seSt _ => s.seDone r.id
  | .seSemup _ => s.seDone r.id
  | .seFree _ => s.seDone r.id
  | _ => s.seReply r.id (BitVec.allOnes 64)
/-- SE OPERATION PERFORM: an arriving operation is performed atomically on its variable, or refused (R237, R366). -/
def execSeOperationPerform (op : Nat) (s : State) : Res :=
  match s.seReqs.find? fun r => r.id = op && !r.performed with
  | some r =>
    match s.seRefusal r r.place.part with
    | some sub => .next (s.seRefuse r sub)
    | none => .next (s.sePerform r r.place.part)
  | none => .next s
/-- Whether operation a is taken before b: earlier arrival, then lower core, then lower slot, then issue order (R237). -/
def seBefore (a b : SeReq) : Bool :=
  a.at_ < b.at_ || (a.at_ = b.at_ && (a.core < b.core || (a.core = b.core && (a.slot < b.slot || (a.slot = b.slot && a.id < b.id)))))
/-- The operation that an SE performs next, once it has arrived. -/
def State.seDue (s : State) : Option Instr :=
  let due := s.seReqs.filter fun r => !r.performed && r.at_ ≤ s.now
  (due.foldl (fun (b : Option SeReq) r => match b with
    | none => some r
    | some x => if seBefore r x then some r else some x) none).map fun r => .seOperationPerform r.id
/-- RESULT ARRIVAL: the reply waits in its landing slot (R33, R116, R236). -/
def execResultArrival (op : Nat) (s : State) : Res :=
  match s.seReqs.find? fun r => r.id = op && r.performed with
  | some r =>
    let k := ck r.core r.slot
    let c := s.ctx k
    let put (e : Result) : Result := if e.id = op && !e.arrived then { e with arrived := true, val := r.reply.setWidth 1024 } else e
    .next ((s.setCtx k { c with landing := c.landing.map put }).seDone op)
  | none => .next s
/-- The context that waits for a grant. -/
def State.waiting (s : State) (op : Nat) : Option Nat := (s.ctxs.find? fun e => e.2.iss.grant == some op).map Prod.fst
/-- SE GRANT ARRIVAL: the wait is over (R240, R241). -/
def execSeGrantArrival (op : Nat) (s : State) : Res :=
  match s.waiting op with
  | some k =>
    let c := s.ctx k
    .next (s.setCtx k { c with iss := { c.iss with grant := none } })
  | none => .next s

end Sys2Proof.Machine
end

