-- ==== Sys2Proof/Machine/Uses.lean ====
section
/-! DEFINITION. What a syllable reads, writes and occupies, as the group-entry checks see it (R111, R117, R119, R120, R187,
R207, R213, R274, R252, R328, R333). -/
namespace Sys2Proof
namespace Machine

/-- A register by its file, numbered as in R333, and its name field; a vector register by its encoded name. -/
abbrev Reg := Nat × Nat
/-- Registers read and written, vector names read through the budgeted ports in field order, latencies of the results that hold a
landing slot (R58). -/
structure Use where
  reads : List Reg
  writes : List Reg
  ports : List Nat
  lats : List Nat
  deriving DecidableEq, Repr
def Use.none : Use := ⟨[], [], [], []⟩

def rgS {n : Nat} (x : BitVec n) : Reg := (0, x.toNat)
def rgA {n : Nat} (x : BitVec n) : Reg := (1, x.toNat)
def rgP {n : Nat} (x : BitVec n) : Reg := (2, x.toNat)
def rgK {n : Nat} (x : BitVec n) : Reg := (3, x.toNat)
def rgV {n : Nat} (x : BitVec n) : Reg := (4, x.toNat)
def rgSpec (n : Nat) : Reg := (10, n)
/-- Registers 0 to n - 1 of a file. -/
def rgAll (file n : Nat) : List Reg := (List.range n).map fun i => (file, i)
/-- A result of one tick holds no slot (R58). -/
def slotLat (n : Nat) : List Nat := if 2 ≤ n then [n] else []
/-- Register lists with a result of latency 1. -/
def use1 (reads writes : List Reg) : Use := ⟨reads, writes, [], []⟩
/-- Vector sources, a mask when it counts, one vector destination. -/
def useVec (d : BitVec 10) (src : List (BitVec 10)) (ke : Bool) (km : BitVec 3) (lat : Nat) : Use :=
  ⟨src.map rgV ++ (if ke then [rgK km] else []), [rgV d], src.map BitVec.toNat, slotLat (vLat d.toNat lat)⟩
/-- A destination pair d, d + 1. -/
def Use.pair (u : Use) (d : BitVec 10) (lat : Nat) : Use :=
  { u with writes := u.writes ++ [(4, d.toNat + 1)], lats := u.lats ++ slotLat (vLat (d.toNat + 1) lat) }

end Machine
open Machine

def AluOp.use (o : AluOp) (unary : Bool) (lat : Nat) : Use :=
  ⟨rgS o.a :: (if o.i || unary then [] else [rgS o.b]), [rgS o.d], [], slotLat lat⟩
def SelOp.ys (o : SelOp) : List Reg := rgS o.a :: (if o.i then [] else [rgS o.b])
def VecOp.use1 (o : VecOp) (lat : Nat) : Use := useVec o.d [o.a] o.ke o.km lat
def VecOp.use2 (o : VecOp) (lat : Nat) : Use := useVec o.d [o.a, o.b] o.ke o.km lat
def VecOp.use3 (o : VecOp) (lat : Nat) : Use := useVec o.d [o.a, o.b, o.c] o.ke o.km lat
def VecOp.useShift (o : VecOp) : Use := if o.x.getLsbD 0 then o.use1 2 else o.use2 2
def CvtOp.use (o : CvtOp) (two : Bool) : Use := useVec o.d (if two then [o.a, o.b] else [o.a]) o.ke o.km 4
def SeOp.use (o : SeOp) (ret h b c : Bool) : Use :=
  let on (x : Bool) (r : BitVec 6) : List Reg := if x then [rgS r] else []
  ⟨on h o.h ++ on b o.b ++ on c o.c, on ret o.d, [], if ret then [o.land.toNat] else []⟩

namespace Machine

/-- A row operand: its address register, written when post-modified. -/
def useRow (r : RowRef) : Use := ⟨[rgA r.an], if r.pm then [rgA r.an] else [], [], []⟩
def Use.dest (u : Use) (r : Reg) (lat : Nat) : Use := { u with writes := r :: u.writes, lats := slotLat lat ++ u.lats }
def Use.src (u : Use) (v : BitVec 10) : Use := { u with reads := u.reads ++ [rgV v], ports := u.ports ++ [v.toNat] }
/-- A copy-slot row operand in a transfer layout, absent for a ring destination. -/
def useAddr (an : BitVec 4) (pm : Bool) : Use := ⟨[rgA an], if pm then [rgA an] else [], [], []⟩
end Machine
/-- A transfer command: slots, address and box registers (the linked li registers follow from the record, R207). -/
def CopyOp.use (o : CopyOp) (rows : Bool) : Use :=
  let u := if o.rg || !rows then Use.none else useAddr o.an o.pm
  { u with reads := (11, o.td.toNat) :: rgA o.ab :: u.reads ++ (if o.rg then [rgSpec (16 + o.ring.toNat)] else []) }
namespace Machine
/-- The state that `mcall` captures (R187). -/
def captured : List Reg := rgAll 7 8 ++ rgAll 8 4 ++ rgAll 9 4 ++ [(12, 0), rgSpec 6] ++ rgAll 13 16 ++ rgAll 6 6

/-- What an instruction reads and writes (R111). -/
def uses : Instr → Use
  | .fmtset _ => ⟨[], [rgSpec 6], [], []⟩
  | .seLd o => o.use true true false false
  | .seArrive o => o.use true true true false
  | .seSt o | .seAwait o | .seSemdown o | .seSemup o => o.use false true true false
  | .seAdd o | .seMin o | .seMax o | .seAnd o | .seOr o | .seXor o | .seSwap o => o.use true true true false
  | .seCas o => o.use true true true true
  | .seAlloc o => o.use true false false false
  | .seFree o => o.use false true false false
  | .sadd o | .ssub o | .sand o | .sor o | .sxor o | .sandn o | .sshl o | .sshr o | .ssra o | .srot o | .smin o | .smax o
  | .sminn o | .smaxn o => o.use false 1
  | .smul o | .smulh o | .smulhn o => o.use false 3
  | .sdiv o | .sdivn o | .srem o | .sremn o => o.use false 12
  | .sclz o | .sctz o | .spop o => o.use true 1
  | .ssel o => use1 (rgP o.x :: o.ys) [rgS o.d]
  | .sli d _ => use1 [] [rgS d]
  | .slih d _ => use1 [rgS d] [rgS d]
  | .smov d a kind idx _ =>
    match kind.toNat with
    | 0 => use1 [rgS a] [rgS d]
    | 1 => use1 [rgK idx] [rgS d]
    | 2 => use1 [rgS a] [rgK idx]
    | 3 => use1 (rgAll 2 16) [rgS d]
    | 4 => use1 [(5, idx.toNat)] [rgS d]
    | 5 => use1 [(6, idx.toNat)] [rgS d]
    | 6 => use1 [rgS a] [(5, idx.toNat)]
    | _ => use1 [rgS a] [(6, idx.toNat)]
  | .scmp o => use1 o.ys [(2, o.d.toNat % 16)]
  | .pand pd pa pb | .por pd pa pb | .pxor pd pa pb => use1 [rgP pa, rgP pb] [rgP pd]
  | .pnot pd pa => use1 [rgP pa] [rgP pd]
  | .pmov pd src f => use1 [if f then rgS src else (2, src.toNat % 16)] [rgP pd]
  | .br _ | .jmp _ => Use.none
  | .call d _ => use1 [] [rgS d]
  | .ret a | .jr a _ => ⟨[rgS a], [], [], []⟩
  | .loop lvl ci a _ _ => use1 (if ci then [] else [rgS a]) [(5, lvl.toNat), (6, lvl.toNat)]
  | .lbody _ lo hi _ =>
    let l := (List.range 6).filter fun k => lo.toNat ≤ k && k ≤ hi.toNat
    use1 (l.map fun k => (5, k)) (rgSpec 7 :: l.map (fun k => (6, k)) ++ (rgAll 2 16).drop 8)
  | .mfs d spec => use1 [rgSpec spec.toNat] [rgS d]
  | .mts a spec => ⟨[rgS a], [rgSpec spec.toNat], [], []⟩
  | .amov dir ar sr => if dir then use1 [rgA ar] [rgS sr] else use1 [rgS sr] [rgA ar]
  | .aadd ad aa i b _ => use1 (rgA aa :: if i then [] else [rgS b]) [rgA ad]
  | .vadd o | .vsub o | .vmul o | .vmin o | .vmax o => o.use2 o.latFI
  | .vfma o | .vfms o | .vfnma o => o.use3 4
  | .vabs o | .vneg o => o.use1 o.latFI
  | .vrcp o | .vrsqrt o | .vexp2 o | .vlog2 o => o.use1 6
  | .vrnd o => o.use1 4
  | .vtsum o => (useVec o.d [o.a, o.d, o.d + 1] o.ke o.km 5).pair o.d 5
  | .vcmp o => ⟨rgV o.a :: rgV o.b :: (if o.ke then [rgK o.km] else []), [(3, o.d.toNat % 8)], [o.a.toNat, o.b.toNat], [2]⟩
  | .vsel o => useVec o.d [o.a, o.b] true o.km 2
  | .vmulh o | .vsadd o | .vssub o | .vand o | .vor o | .vxor o | .vandn o => o.use2 2
  | .vshl o | .vshr o | .vsra o => o.useShift
  | .vpopc o | .vmov o => o.use1 2
  | .vcvt o | .vunpk o => o.use false
  | .vquant o | .vdeq o | .vpack o => o.use true
  | .vperm o | .vslide o => o.use2 3
  | .vrotm d a b i sr _ => let u := useVec d [a, b] false 0 3; { u with reads := u.reads ++ if i then [] else [rgS sr] }
  | .vbcast o => o.use1 3
  | .vshuf o => if o.x.toNat = 4 then o.use1 3 else o.use2 3
  | .vredsum o | .vredmax o | .vredmin o | .vscan o => o.use1 6
  | .vtopk o => (o.use1 8).pair o.d 8
  | .vsplat o => let u := useVec o.d [] o.ke o.km 2; { u with reads := u.reads ++ if o.i then [] else [rgS o.sr] }
  | .vext o => ⟨[rgV o.a], [(0, o.d.toNat % 64)], [o.a.toNat], [2]⟩
  | .vins o => let u := useVec o.d [] o.ke o.km 2; { u with reads := u.reads ++ [rgS o.sr] }
  | .vidx o => useVec o.d [] o.ke o.km 2
  | .kand kd ka kb | .kor kd ka kb | .kxor kd ka kb => ⟨[rgK ka, rgK kb], [rgK kd], [], [2]⟩
  | .kinv kd ka | .kmov kd ka => ⟨[rgK ka], [rgK kd], [], [2]⟩
  | .kpop sd ka => ⟨[rgK ka], [rgS sd], [], [2]⟩
  | .ldRow v r | .ldLane v r _ _ => (useRow r).dest (rgV v) (vLat v.toNat 3)
  | .ldK kd r _ => (useRow r).dest (rgK kd) 3
  | .ldPeek v ring _ => ⟨[rgSpec (16 + ring.toNat)], [rgV v], [], slotLat (vLat v.toNat 3)⟩
  | .xsel r _ _ _ _ _ => useRow r
  | .stRow v r | .stLane v r _ _ => (useRow r).src v
  | .stRowk v r km _ => let u := (useRow r).src v; { u with reads := u.reads ++ [rgK km] }
  | .stFill sf r _ => let u := useRow r; { u with reads := u.reads ++ [rgS sf] }
  | .stRing v ring => (⟨[rgSpec (16 + ring.toNat)], [], [], []⟩ : Use).src v
  | .xsend v r sk _ _ => if sk then Use.none.src v else useRow r
  | .mcall _ _ _ _ => ⟨captured, [], [], []⟩
  | .mset kind idx sa => use1 [rgS sa] [if kind then (8, idx.toNat) else (7, idx.toNat)]
  | .mring _ _ => use1 [] [(12, 0)]
  | .mread vd _ _ mode => ⟨if mode = 0 then [rgSpec 6] else [], [rgV vd], [], slotLat (vLat vd.toNat 6)⟩
  | .mwrite vh vl _ _ _ => ⟨[rgV vh, rgV vl], [], [], []⟩
  | .mroute nb sa => use1 [rgS sa] [(9, nb.toNat)]
  | .mfmt ent sa => use1 [rgS sa] [(13, ent.toNat)]
  | .cpDesc _ td an pm _ _ => let u := useAddr an pm; { u with writes := (11, td.toNat) :: u.writes }
  | .cpIn o | .cpOut o | .cpAcc o | .cpGat o | .cpSca o => o.use true
  | .cpSl o => let u := o.use false; { u with reads := (11, fldN o.x 9 4) :: u.reads }
  | .cpXf o => ⟨[rgA o.an, rgA o.ad, rgS o.sa], [], [], []⟩
  | .cpRep o => let u := o.use false; { u with reads := u.reads ++ if fldN o.x 11 2 = 2 then [(0, fldN o.x 5 6)] else [] }
  | .cpCurSet _ td sa => ⟨[rgS sa, (11, td.toNat)], [(11, td.toNat)], [], []⟩
  | .cpCurSave _ td an pm _ _ => let u := useAddr an pm; { u with reads := (11, td.toNat) :: u.reads }
  | .cpCurStatus _ an pm _ _ => useAddr an pm
  | .rcast o => ⟨(11, o.td.toNat) :: if o.all then [] else [rgA o.ab], [], [], []⟩
  | .plQ o => ⟨[rgA o.aq, rgA o.ac, rgA o.ar], [], [], []⟩
  | .clRun o | .clArm o | .mlr o => ⟨[rgA o.ar, rgA o.as], [], [], []⟩
  | _ => Use.none

/-- Rows of a posting-list query by its header (R273, R274): record rows, candidate rows, result rows. -/
def State.queryRows (s : State) (o : QueryOp) : List Nat × List Nat × List Nat :=
  let q := s.rowAt o.aq o.qoff.toNat
  let h := s.snapRow q
  let n (x : Nat) : Nat := (x + 15) / 16
  (rowsFrom q (1 + n (fldN h 53 7)), rowsFrom (s.rowAt o.ac o.coff.toNat) (n (fldN h 40 13)),
    rowsFrom (s.rowAt o.ar o.roff.toNat) (1 + (fldN h 30 10 + 1 + 7) / 8))
/-- The td slots that a collective record or a query header names (R247, R273). -/
def State.slotsNamed (s : State) (i : Instr) : List Nat :=
  match i with
  | .plQ o => let h := s.snapRow (s.rowAt o.aq o.qoff.toNat); [fldN h 16 4, fldN h 12 4, fldN h 8 4]
  | .clRun o | .clArm o | .mlr o => let h := s.snapRow (s.rowAt o.ar o.roff.toNat); [fldN h 49 4, fldN h 45 4]
  | _ => []

/-- What a syllable occupies: engines with beats, channel with beats, the record row that decides the rest, rows read and
written, rings with rows to reserve and rows to find landed. -/
structure Touch where
  engine : List (Nat × Nat)
  chan : Option (Nat × Nat)
  box : Option Nat
  rowsR : List Nat
  rowsW : List Nat
  ring : List (Nat × Nat × Nat)
  deriving DecidableEq, Repr
def Touch.none : Touch := ⟨[], .none, .none, [], [], []⟩
def CopyPlan.touch (p : CopyPlan) (o : CopyOp) : Touch :=
  { Touch.none with chan := some (o.ch.toNat, p.beats), box := p.boxRow, rowsR := p.src ++ p.idx, rowsW := p.dest,
                    ring := match p.ring with
                      | some (n, k) => [(n, k, 0)]
                      | .none => [] }
/-- A one-beat command of a channel on rows. -/
def touchCp (ch : BitVec 2) (r w : List Nat) : Touch := { Touch.none with chan := some (ch.toNat, 1), rowsR := r, rowsW := w }
/-- A collective submission's rows: record, status (R252). -/
def State.touchColl (s : State) (o : CollOp) : Touch := touchCp o.ch [s.rowAt o.ar o.roff.toNat] [s.rowAt o.as o.soff.toNat]
/-- Beats of an entry in the matrix queue's engine (R188). -/
def repBeats (rep : Option (BitVec 8)) : Nat := (rep.map BitVec.toNat).getD 0 + 1
/-- What an operation occupies at the tick in hand. -/
def State.touch (s : State) (i : Instr) : Touch :=
  let g := s.me.regs
  match i with
  | .sdiv _ | .sdivn _ | .srem _ | .sremn _ => { Touch.none with engine := [(0, 12)] }
  | .ldRow _ r | .ldLane _ r _ _ | .ldK _ r _ => { Touch.none with rowsR := [s.rowOf r] }
  | .ldPeek _ n j =>
    let d := g.ringOf n.toNat
    { Touch.none with rowsR := [ringRow d (ringHead d + j.toNat)], ring := [(n.toNat, 0, j.toNat + 1)] }
  | .xsel r mx _ hw _ _ => { Touch.none with rowsW := [s.rowOf r], engine := [(if mx then 6 else 5, if hw then 16 else 8)] }
  | .stRow _ r | .stRowk _ r _ _ | .stLane _ r _ _ => { Touch.none with rowsW := [s.rowOf r], engine := [(1, 1)] }
  | .stFill _ r cnt => { Touch.none with rowsW := rowsFrom (s.rowOf r) (cnt.toNat + 1), engine := [(1, cnt.toNat + 1)] }
  | .stRing _ n =>
    let d := g.ringOf n.toNat
    { Touch.none with rowsW := [ringRow d (ringResv d)], engine := [(1, 1)], ring := [(n.toNat, 1, 0)] }
  | .xsend _ r sk dir hw =>
    { Touch.none with rowsR := if sk then [] else [s.rowOf r], engine := [(1, 1), (if dir then 4 else 3, if hw then 16 else 8)] }
  | .mcall _ _ _ rep =>
    { Touch.none with engine := [(2, repBeats rep)], ring := [(g.ringA.toNat, 0, 0), (g.ringB.toNat, 0, 0)] }
  | .macz _ rep | .mwrite _ _ _ _ rep => { Touch.none with engine := [(2, repBeats rep)] }
  | .mset _ _ _ | .mring _ _ | .mread _ _ _ _ | .mroute _ _ | .mwait _ _ _ _ | .mfmt _ _ => { Touch.none with engine := [(2, 1)] }
  | .cpDesc ch _ an pm off _ => touchCp ch [rowAddr (s.a an) pm off.toInt] []
  | .cpIn o | .cpOut o | .cpAcc o | .cpGat o | .cpSca o | .cpSl o | .cpRep o =>
    let t := (s.planTransfer i o).touch o
    let d := g.ringOf o.ring.toNat
    { t with rowsW := t.rowsW ++ match t.ring with
        | (_, n, _) :: _ => (counters (ringResv d) n).map (ringRow d)
        | [] => [] }
  | .cpXf o =>
    { Touch.none with chan := some (o.ch.toNat, o.icnt.toNat + 1),
                      rowsR := rowsFrom (rowAddr (s.a o.an) false o.off.toInt) (o.icnt.toNat + 1),
                      rowsW := rowsFrom (rowAddr (s.a o.ad) false o.doff.toInt) (o.ocnt.toNat + 1) }
  | .cpCurSet ch _ _ => touchCp ch [] []
  | .cpCurSave ch td an pm off _ => touchCp ch [] (if noRows (s.tdSlot td.toNat) then [] else [rowAddr (s.a an) pm off.toInt])
  | .cpCurStatus ch an pm off _ => touchCp ch [] [rowAddr (s.a an) pm off.toInt]
  | .rcast o => { touchCp o.ch [] [] with box := if o.all then .none else some (s.rowAt o.ab o.boff.toNat) }
  | .plQ o =>
    let (q, c, r) := s.queryRows o
    { touchCp o.ch (q ++ c) r with box := q.head? }
  | .clRun o | .clArm o | .mlr o => s.touchColl o
  | _ => Touch.none
/-- The linked li registers of a box record, and the td slots that a record names, which the command reads (R207, R252). -/
def State.recordReads (s : State) (i : Instr) : List Reg :=
  let links (o : CopyOp) (two : Bool) : List Reg :=
    let r := s.snapRow (s.rowAt o.ab o.boff.toNat)
    (bLinks (halfOf r o.bh) ++ if two then bLinks (halfOf r (!o.bh)) else []).map fun l => (6, l)
  match i with
  | .cpIn o | .cpOut o | .cpAcc o | .cpGat o | .cpSca o | .cpRep o => links o false
  | .cpSl o => links o true
  | _ => (s.slotsNamed i).map fun t => (11, t)

end Machine
end Sys2Proof
end

