-- ==== Sys2Proof/Machine/Entry.lean ====
section
/-! DEFINITION. Group entry and its six checks, held re-issues, landing, the end of a loop pass, freezing at a group boundary
(R29, R30, R105, R106, R110-R120, R140, R328-R336). -/
namespace Sys2Proof.Machine
open Sys2Proof

/-! The context's own tick: landings, fills, hold states. -/

/-- What a bundle's tick brings before the bundle reads anything: results that land at it, ring rows appended two ticks before
(R114, R170). -/
def State.beginTick (s : State) (core slot : Nat) : State :=
  let k := Machine.ck core slot
  let c := s.ctx k
  let t := c.iss.tick
  (s.setCtx k (c.landAt t)).landRingRows core slot fun d => d.due ≤ t
/-- LANDING (R114): every result due by the context's tick is written to its register. -/
def execLanding (core slot : Nat) (s : State) : Res := .next (s.beginTick core slot)
/-- Whether a row of the context's fill falls due at its tick (R169). -/
def State.fillDue (s : State) (core slot : Nat) : Bool :=
  (s.core core).fills.any fun f => f.slot = slot && f.tick + f.done ≤ (s.ctx (Machine.ck core slot)).iss.tick
/-- The fill row of the tick in hand is written. -/
def State.fillTick (s : State) (core slot : Nat) : State :=
  if s.fillDue core slot then
    match execFillRowWrite core slot s with
    | .next t => t
    | _ => s
  else s
/-- The hold state of a slot after a bundle in which the slot is present (R106). -/
def Ctx.setHold (c : Ctx) (l : Lane) (y : Syl) : Ctx :=
  let h := c.hold.filter fun e => e.1 ≠ l
  { c with hold := if y.hold then h ++ [(l, y)] else h }
/-- The held syllable of a slot. -/
def Ctx.held (c : Ctx) (l : Lane) : Option Syl := (c.hold.find? fun e => e.1 = l).map Prod.snd
/-- Whether a syllable's predicate lets it perform (R105). -/
def Ctx.performs (c : Ctx) (y : Syl) : Bool := c.regs.readP y.pred.toNat != y.pn
/-- HELD RE-ISSUE (R106): the held syllable of an absent slot performs again, with its predicate read at the tick. Group entry
has decided that it re-issues; the operation itself follows in the same bundle (`State.redo`). -/
def execHeldReissue (lane : Lane) (s : State) : Res :=
  match s.me.held lane with
  | some y => if s.me.performs y then .next { s with redo := some y.op, cur := { s.cur with lane := lane, held := true } } else .next s
  | none => .next s

/-- Whether an operation is a control transfer with delay bundles (R112). -/
def isTransfer : Instr → Bool
  | .br _ => true
  | .jmp _ => true
  | .call _ _ => true
  | .ret _ => true
  | .jr _ _ => true
  | _ => false
/-- Operations that stand in a group's last bundle (R112, R242). -/
def standsLast : Instr → Bool
  | .knot => true
  | .halt => true
  | .yield => true
  | .seAwait _ => true
  | .seSemdown _ => true
  | .lbody _ _ _ _ => true
  | _ => false
/-- Operations that only an exchange superstep performs (R122, R125). -/
def exchangeOnly : Instr → Bool
  | .xsend _ _ _ _ _ => true
  | .xsel _ _ _ _ _ _ => true
  | _ => false
def setsNest : Instr → Bool
  | .loop _ _ _ _ _ => true
  | .lbody _ _ _ _ => true
  | _ => false
def endsFills : Instr → Bool
  | .knot => true
  | .halt => true
  | _ => false
/-- Tiles that a matrix entry works on, none for an operation that makes no entry (R189, R191). -/
def tilesOf : Instr → List Bool
  | .mcall _ acc alt rep => if alt && 1 < repBeats rep then [acc, !acc] else [acc]
  | .macz acc _ => [acc]
  | .mwrite _ _ acc _ _ => [acc]
  | _ => []
/-- The fence bit of the queue that a queued operation enters (R230). -/
def queueBit (i : Instr) (t : Touch) : Option Nat :=
  match i with
  | .plQ _ => some 5
  | .clRun _ => some 6
  | .clArm _ => some 6
  | .mlr _ => some 6
  | _ => if (tilesOf i).isEmpty then t.chan.map Prod.fst else some 4

/-! The walk over a group's bundles. -/

/-- A syllable of the group. -/
structure Item where
  bidx : Nat
  lane : Lane
  held : Bool
  tick : Nat
  op : Instr
  perf : Bool
  vrb : Nat
  reads : List Reg
  writes : List Reg
  use : Use
  touch : Touch
  deriving DecidableEq, Repr
/-- Where an event points (R329). -/
structure Loc where
  bidx : Nat
  lane : Lane
  held : Bool
  deriving DecidableEq, Repr
def Item.loc (i : Item) : Loc := ⟨i.bidx, i.lane, i.held⟩
/-- A scheduling violation (R333). -/
structure Viol where
  loc : Loc
  sub : Nat
  info : Word64
  aux : Word64
  deriving DecidableEq, Repr
/-- What the walk has gathered: the state as the context will see it, syllables, violations, waits, re-issues; channels used in the
group (channel, first free tick, tick of use); channels fenced in the group, with the tick of a command of the group that the
fence waits for; `ahead` whether a busy channel counts at the cycle of its own bundle (R203), else now; rows guarded and rows stored by earlier bundles of the group, with the bundle; tiles with an entry. -/
structure Walk where
  view : State
  items : List Item
  viols : List Viol
  waits : List (Cond × Loc)
  again : List (Nat × Lane)
  chans : List (Nat × Nat × Nat)
  fenced : List (Nat × Option Nat)
  guarded : List (Nat × Nat)
  stored : List (Nat × Nat)
  tiles : List Bool
  ahead : Bool
  deriving DecidableEq, Repr

/-- The context's own view after a syllable that performs, before the next bundle (R328): address registers, the rotation base (R142),
ring reservations, engines, and the rows of store-slot writes. -/
def State.viewAfter (s : State) (i : Instr) (t : Touch) : State :=
  let next (r : Res) : State := match r with
    | .next u => u
    | _ => s
  let s' := match i with
    | .ldRow _ r | .ldLane _ r _ _ | .ldK _ r _ | .xsel r _ _ _ _ _ | .xsend _ r _ _ _ => s.postRow r
    | .stRow v r => next (execStRow v r s)
    | .stRowk v r km ty => next (execStRowk v r km ty s)
    | .stLane v r lane ty => next (execStLane v r lane ty s)
    | .stFill sf r cnt => next (execStFill sf r cnt s)
    | .stRing v n => next (execStRing v n s)
    | .mts a spec => if spec = 5 then next (execMts a spec s) else s
    | .cpIn o | .cpOut o | .cpAcc o | .cpGat o | .cpSca o =>
      match o.rg, t.ring with
      | true, (n, k, _) :: _ => s.setMe (s.me.reserve n k).2
      | true, [] => s
      | false, _ => s.postMod o.an o.pm o.off.toInt
    | .cpDesc _ _ an pm off _ | .cpCurSave _ _ an pm off _ | .cpCurStatus _ an pm off _ => s.postMod an pm off.toInt
    | _ => s
  t.engine.foldl (fun u e => u.useEngine e.1 e.2) s'
/-- Whether commands issued before the group keep a channel busy i cycles from now, or a fence holds it (R203, R230). -/
def State.chanBusy (s : State) (core slot ch i : Nat) : Bool :=
  let h := Sp.get Chan.reset (s.ctx (Machine.ck core slot)).chan ch
  s.now + i < h.free || h.fence.any (s.inProgress core slot)
/-- Rows that a fill of the context has still to fill at tick t or later (R169). -/
def Core.toFill (c : Core) (slot t row : Nat) : Bool :=
  c.fills.any fun f => f.slot = slot && f.base + f.done ≤ row && row < f.base + f.count && t ≤ f.tick + (row - f.base)
/-- The violations of one performing syllable that come from engines, phase, rows and loops (R333 sub 4 to 7). -/
def Walk.itemViols (w : Walk) (s : State) (x : Item) (busy : Option (Nat × Nat × Nat)) : List Viol :=
  let v (sub : Nat) (info aux : Nat) : Viol := ⟨x.loc, sub, BitVec.ofNat 64 info, BitVec.ofNat 64 aux⟩
  let on (b : Bool) (l : Viol) : List Viol := if b then [l] else []
  let ch := x.touch.chan.map Prod.fst
  let used := w.chans.find? fun e => ch == some e.1 && x.tick < e.2.1
  let fence := w.fenced.find? fun e => ch == some e.1 && e.2.isSome
  let rows := x.touch.rowsR ++ x.touch.rowsW ++ x.touch.box.toList
  let boxed : Bool := match x.op with
    | .plQ _ => false
    | _ => true
  let late := x.lane = .cp || exchangeOnly x.op
  on (exchangeOnly x.op && !(s.me.place.phase.getLsbD 0)) (v 4 0 0) ++
  (match busy with
    | some (e, _, t) => [v 5 e t]
    | none => []) ++
  (match used, fence with
    | some (c, _, t), _ => [v 5 (8 + c) t]
    | none, some (c, some t) => [v 5 (8 + c) t]
    | none, _ => []) ++
  on (boxed && w.stored.any fun e => x.touch.box == some e.1 && e.2 < x.bidx) (v 6 0 0) ++
  on (w.guarded.any fun e => rows.contains e.1 && e.2 < x.bidx) (v 6 0 0) ++
  on (late && x.touch.rowsW.any (s.here.toFill s.cur.slot x.tick)) (v 6 0 0) ++
  on (setsNest x.op && bit s.me.regs.lpc 63) (v 7 0 0)
/-- The predicate of a syllable, where its value decides: with pred = 0 it is not read (R105). -/
def predReads (y : Syl) : List Reg := if y.pred = 0 then [] else [(2, y.pred.toNat)]
/-- One syllable of bundle i: a held one that meets a busy engine or channel does not re-issue (R106, R328). -/
def Walk.visit (w : Walk) (i : Nat) (lane : Lane) (held : Bool) (y : Syl) : Walk :=
  let s := w.view
  let c := s.me
  let core := s.cur.core
  let slot := s.cur.slot
  let t := c.iss.tick
  let touch := s.touch y.op
  let ch := touch.chan.map Prod.fst
  let busy := c.busy.find? fun e => touch.engine.any (fun u => u.1 = e.1) && t < e.2.1
  let used := w.chans.any fun e => ch == some e.1 && t < e.2.1
  let fenced := w.fenced.any fun e => ch == some e.1
  let out := match ch with
    | some n => s.chanBusy core slot n (if w.ahead || held then i else 0)
    | none => false
  if held && (busy.isSome || used || fenced || out) then w
  else
    let perf := lane = .sync || c.performs y
    let u := uses y.op
    let rings := touch.ring.map fun r => rgSpec (16 + r.1)
    let reads := predReads y ++ u.reads ++ s.recordReads y.op ++ rings
    let x : Item := { bidx := i, lane, held, tick := t, op := y.op, perf, vrb := c.regs.vrb.toNat, reads,
                      writes := u.writes, use := u, touch }
    let again := if held then w.again ++ [(i, lane)] else w.again
    let mreads : List Viol := match y.op with
      | .mread _ acc _ _ => if w.tiles.contains acc then [⟨x.loc, 6, 0, 0⟩] else []
      | _ => []
    let w := { w with items := w.items ++ [x], again := again, viols := w.viols ++ mreads, tiles := w.tiles ++ tilesOf y.op }
    if !perf then w
    else
      let fence := w.fenced.any fun e => ch == some e.1 && e.2.isNone
      let waits := if (out || fence) && !held then w.waits ++ [(Cond.channel, x.loc)] else w.waits
      let w := { w with viols := w.viols ++ w.itemViols s x busy, waits := waits }
      let chans := match touch.chan with
        | some (n, b) => (n, t + b, t) :: w.chans
        | none => w.chans
      let guarded := if lane = .cp then w.guarded ++ (touch.rowsR ++ touch.rowsW).map fun r => (r, i) else w.guarded
      let stored := if lane = .st then w.stored ++ touch.rowsW.map fun r => (r, i) else w.stored
      let fenced := match y.op with
        | .qfence m =>
          let mine := w.items.find? fun z => z.perf && z.bidx < i &&
            (match queueBit z.op z.touch with
              | some b => m.getLsbD b
              | none => false)
          let before := !(s.earlier core slot m).isEmpty
          let on := (List.range 4).filter fun n => m.getLsbD n
          w.fenced ++ (match mine with
            | some z => on.map fun n => (n, some z.tick)
            | none => if before then on.map fun n => (n, none) else [])
        | _ => w.fenced
      { w with view := s.viewAfter y.op touch, chans := chans, guarded := guarded, stored := stored, fenced := fenced }
/-- The slots of a bundle in order: present ones set the hold state, absent ones re-issue what is held (R106). -/
def Walk.slots (i : Nat) (b : Bundle) : List Lane → Walk → Walk
  | [], w => w
  | l :: r, w =>
    match (b.slots.find? fun e => e.1 = l).map Prod.snd, w.view.me.held l with
    | some y, _ =>
      let w := w.visit i l false y
      Walk.slots i b r { w with view := w.view.setMe (w.view.me.setHold l y) }
    | none, some y => Walk.slots i b r (w.visit i l true y)
    | none, none => Walk.slots i b r w
/-- The walk over the bundles: each at its tick, with what has landed by it (R328). -/
def Walk.bundles (core slot : Nat) : List Bundle → Nat → Walk → Walk
  | [], _, w => w
  | b :: r, i, w =>
    let w := { w with view := w.view.beginTick core slot }
    let w := Walk.slots i b Lane.slots (w.visit i .sync false ⟨false, false, 0, b.sync⟩)
    let v := w.view.fillTick core slot
    let c := v.me
    Walk.bundles core slot r (i + 1) { w with view := v.setMe { c with iss := { c.iss with tick := c.iss.tick + 1 } } }

/-! Check 1 and 2: fetch and decoding. -/

/-- A stored bundle: address, head word, syllables. -/
structure Fetched where
  addr : Word64
  head : Word64
  syls : List Word64
  deriving DecidableEq, Repr
/-- What a context's loop buffer holds (R139). -/
def Ctx.loopBuffer (c : Ctx) : Sp Word64 :=
  match c.body with
  | some b => b.buf
  | none => []
/-- The instruction cache's copy of the line of an address (R21). -/
def Core.lineAt (h : Core) (part line : Nat) : Option Line := h.icache.find? fun l => l.part = part && l.at_ = line
/-- A word of a bundle: from the loop buffer once a pass has filled it (R139), else from memory, or from the core's instruction cache where
that holds the line and serves it (R21; log 32). The frame must be mapped (R113). -/
def State.fetchWord (s : State) (core : Nat) (buf : Sp Word64) (part : Nat) (a : Word64) : Option Word64 :=
  match Sp.find buf a.toNat with
  | some w => some w
  | none =>
    match s.readPart part a.toNat, (s.core core).lineAt part (a.toNat / 64) with
    | some w, some l => some (if Config.cached s.fresh (a.toNat / 64) then l.words.getD (a.toNat % 64 / 8) 0 else w)
    | some w, none => some w
    | none, _ => none
/-- n words from a partition address, or the first address that cannot be read. -/
def State.fetchWords (s : State) (core : Nat) (buf : Sp Word64) (part : Nat) (a : Word64) : Nat → List Word64 ⊕ Word64
  | 0 => .inl []
  | n + 1 =>
    match s.fetchWord core buf part a, s.fetchWords core buf part (a + 8) n with
    | some w, .inl r => .inl (w :: r)
    | some _, .inr x => .inr x
    | none, _ => .inr a
/-- Fetch a group: up to n bundles, to the first with its stop bit (R110); the miss is the first byte not fetched. -/
def State.fetchGroup (s : State) (core : Nat) (buf : Sp Word64) (part : Nat) : Nat → Word64 → List Fetched × Option Word64
  | 0, _ => ([], none)
  | n + 1, a =>
    match s.fetchWord core buf part a with
    | none => ([], some a)
    | some h =>
      match s.fetchWords core buf part (a + 8) (presentLanes h).length with
      | .inr x => ([], some x)
      | .inl ws =>
        let f : Fetched := ⟨a, h, ws⟩
        if bit h 7 then ([f], none)
        else
          let (r, m) := s.fetchGroup core buf part n (a + BitVec.ofNat 64 (8 * bundleWords h))
          (f :: r, m)
/-- The loop buffer takes the bundles of a group of its body as they issue (R139). -/
def Ctx.fillLoop (c : Ctx) (fs : List Fetched) : Ctx :=
  match c.body with
  | some b => { c with body := some { b with buf := fs.foldl (fun m f => (f.head :: f.syls).zipIdx.foldl (fun m w =>
      if (Sp.find m (f.addr.toNat + 8 * w.2)).isSome then m else Sp.ins m (f.addr.toNat + 8 * w.2) w.1) m) b.buf } }
  | none => c
/-- The line of an address as the instruction cache holds it after a fetch: 384 lines of 64 bytes, one replaced when they are full. -/
def State.cacheLine (s : State) (core part line : Nat) : State :=
  let h := s.core core
  if (h.lineAt part line).isSome && Config.cached s.fresh line then s
  else match s.readParts part (64 * line) 8 with
    | some ws =>
      let l := h.icache.filter fun x => !(x.part = part && x.at_ = line)
      let l := if l.length < 384 then l else l.eraseIdx (Config.index s.fresh % 384)
      s.setCore core { h with icache := l ++ [⟨part, line, ws⟩] }
    | none => s
/-- The lines that a fetched group was read from stay in the core's instruction cache (R21; log 32). -/
def State.cacheLines (s : State) (core part : Nat) (buf : Sp Word64) (fs : List Fetched) : State :=
  let addrs := fs.flatMap fun f => (List.range (1 + f.syls.length)).map fun i => f.addr.toNat + 8 * i
  let lines := ((addrs.filter fun a => (Sp.find buf a).isNone).map (· / 64)).eraseDups
  (lines.foldl (fun t l => t.cacheLine core part l) s).bump
/-- Decode in order; the first illegal bundle (R332). -/
def decodeGroup : List Fetched → Nat → List Bundle ⊕ (Nat × Fetched × Lane × FieldErr)
  | [], _ => .inl []
  | f :: r, i =>
    match decodeBundle f.head f.syls with
    | .bad l e => .inr (i, f, l, e)
    | .ok b =>
      match decodeGroup r (i + 1) with
      | .inl bs => .inl (b :: bs)
      | .inr x => .inr x

/-! Check 3: scheduling (R333). -/

/-- A register as the machine tells it apart: rotating names by their physical register (R142). -/
def Item.key (x : Item) (r : Reg) : Reg := if r.1 = 4 then (4, physical x.vrb r.2) else r
def isFmtset : Instr → Bool
  | .fmtset _ => true
  | _ => false
def isMtsFmt : Instr → Bool
  | .mts _ spec => spec = 6
  | _ => false
def isMcall : Instr → Bool
  | .mcall _ _ _ _ => true
  | _ => false
def isCpDesc : Instr → Bool
  | .cpDesc _ _ _ _ _ _ => true
  | _ => false
/-- Whether a clash of two syllables on a register is one of what one of them captures (R187, R213, R333 sub 6). -/
def captureClash (x y : Item) (r : Reg) : Bool :=
  ((isMcall x.op || isMcall y.op) && captured.contains r) || (r.1 = 11 && (isCpDesc x.op || isCpDesc y.op))
/-- The clash of syllable n with syllable m (R111): a register that n reads and m writes, or that both write when n comes first. -/
def clash (n m : Nat) (x y : Item) : List Viol :=
  let ws := y.writes.map y.key
  let both := x.bidx = y.bidx && ((isFmtset x.op && isMtsFmt y.op) || (isMtsFmt x.op && isFmtset y.op))
  let own := if n < m then x.writes.filter fun r => !(both && r = rgSpec 6) else []
  match (x.reads ++ own).find? fun r => ws.contains (x.key r) with
  | some r =>
    if captureClash x y r then [⟨x.loc, 6, 0, 0⟩]
    else [⟨x.loc, 1, BitVec.ofNat 64 (r.1 * 4096 + r.2), BitVec.ofNat 64 y.tick⟩]
  | none => []
/-- A row that an operation of the group writes and a fill of the group, in the same bundle or a later one, has yet to fill (R169, R333 sub
6). -/
def fillClash (x y : Item) : List Viol :=
  match y.op with
  | .stFill _ _ _ =>
    if (x.lane = .cp || exchangeOnly x.op) && x.bidx ≤ y.bidx && x.touch.rowsW.any y.touch.rowsW.contains && x.lane ≠ .st then [⟨x.loc, 6, 0, 0⟩] else []
  | _ => []
def fillClashes (l : List Item) : List Viol := l.flatMap fun x => l.flatMap (fillClash x)
/-- Register rule over every pair (R111). -/
def clashes (l : List Item) : List Viol :=
  let z := l.zipIdx
  z.flatMap fun a => z.flatMap fun b => if a.2 = b.2 then [] else clash a.2 b.2 a.1 b.1
/-- Positions (R112, R242). -/
def positions (n : Nat) (stop : Bool) (l : List Item) : List Viol :=
  l.flatMap fun x =>
    let last := stop && x.bidx + 1 = n
    let delay := isTransfer x.op && (!(stop && x.bidx + 3 = n) ||
      l.any fun y => isTransfer y.op && (y.bidx + 1 = x.bidx || y.bidx + 2 = x.bidx))
    if (standsLast x.op && !last) || delay then [⟨x.loc, 2, 0, 0⟩] else []
/-- The first name over a budget of four, in reading order. -/
def overBudget (lo hi : Nat) (names : List Nat) : Option Nat := ((names.filter fun n => lo ≤ n && n < hi).eraseDups)[4]?
/-- Port budgets (R120). -/
def ports (n : Nat) (l : List Item) : List Viol :=
  (List.range n).flatMap fun i =>
    let of (a : Lane) : List Nat := (l.filter fun x => x.bidx = i && x.lane = a && x.perf).flatMap fun x => x.use.ports
    let names := of .va ++ of .vb ++ of .st
    ([overBudget 0 512 names, overBudget 512 608 names].filterMap id).map fun v =>
      ⟨⟨i, .sync, false⟩, 3, BitVec.ofNat 64 (0x4000 + v), 0⟩
/-- Fills that have not ended at a `knot` or `halt`, results in flight beyond a `knot` (R41, R169). R333 does not say which syllable sub-code 8
names when such a fill stands in the group of the `knot` or `halt`: the model names the `knot` or `halt` (DESIGN CHOICE, log 79). -/
def endings (c : Ctx) (fills : List Fill) (l : List Item) : List Viol :=
  l.flatMap fun x =>
    let late := fills.any fun f => f.tick ≤ x.tick && x.tick ≤ f.tick + f.count - 1
    let own := (c.landing.filter fun r => !isFmt r && x.tick + 1 < r.due).map Result.due
    let grp := (l.filter fun y => y.perf && y.tick ≤ x.tick).flatMap fun y => (y.use.lats.map (y.tick + ·)).filter (x.tick + 1 < ·)
    (if endsFills x.op && late then [⟨x.loc, 8, 0, 0⟩] else []) ++
    match x.op, own ++ grp with
    | .knot, d :: ds => [⟨⟨x.bidx, .sync, false⟩, 9, BitVec.ofNat 64 (ds.foldl max d), BitVec.ofNat 64 x.tick⟩]
    | _, _ => []
/-- The body rule (R139, R333 sub 7), at the bundle that is the body's bundle n - 1. -/
def bodyViol (c : Ctx) (fs : List Fetched) : List Viol :=
  match c.body with
  | some b =>
    match if b.left = 0 then none else fs[b.left - 1]? with
    | some f =>
      if bit f.head 7 && (f.addr + BitVec.ofNat 64 (8 * bundleWords f.head) - b.start).toNat ≤ 1024 then []
      else [⟨⟨b.left - 1, .sync, false⟩, 7, 0, 0⟩]
    | none => []
  | none => []
/-- Whether violation a is named before b: bundle, slot (R329), and of one syllable the lower sub-code (log 69). -/
def Viol.before (a b : Viol) : Bool :=
  let k (v : Viol) : Nat := (v.loc.bidx * 8 + v.loc.lane.num) * 16 + v.sub
  k a < k b
def firstViol : List Viol → Option Viol
  | [] => none
  | v :: r => match firstViol r with
    | some u => if u.before v then some u else some v
    | none => some v

/-! Check 4: windows (R52, R55). -/

/-- Whether the rows that a command touches are not known before its box record is (R207): the row is still pending. -/
def State.boxPending (s : State) (core slot : Nat) (t : Touch) : Bool :=
  match t.box with
  | some r => (s.core core).pending slot r
  | none => false
/-- What check 4 finds for a performing syllable: sub-code and info. -/
def State.windowErr (s : State) (core slot : Nat) (x : Item) : Option (Nat × Nat) :=
  let c := s.ctx (Machine.ck core slot)
  let ringErr (n : Nat) : Option (Nat × Nat) :=
    let g := c.regs.ringOf n
    let b := ringBase g
    if !ringValid g then some (2, n)
    else if 11 < ringLsize g || !c.inWindow b || !c.inWindow (b + 2 ^ ringLsize g - 1) then
      some (1, if c.inWindow b then c.place.limit + 1 else b)
    else none
  match (x.touch.ring.map Prod.fst).findSome? ringErr with
  | some e => some e
  | none =>
    let rows := x.touch.box.toList ++ if s.boxPending core slot x.touch then [] else x.touch.rowsR ++ x.touch.rowsW
    (rows.find? fun r => !c.inWindow r).map fun r => (0, r)

/-! Check 5: landing slots (R334). -/

/-- Results in flight at tick u. -/
def inFlight (c : Ctx) (l : List Item) (u : Nat) : Nat :=
  (c.landing.filter fun r => r.slot && u < r.due).length +
    ((l.filter fun x => x.tick ≤ u).flatMap fun x => x.use.lats.filter fun n => u < x.tick + n).length
/-- The first tick over 64, and the worst tick with its excess. -/
def landingErr (c : Ctx) (l : List Item) (n : Nat) : Option (Nat × Nat × Nat) :=
  let us := (List.range n).map fun i => (i, inFlight c l (c.iss.tick + i))
  match us.find? fun e => 64 < e.2 with
  | some (i, _) =>
    let w := us.foldl (fun (b : Nat × Nat) e => if b.2 < e.2 then e else b) (0, 0)
    some (i, w.2 - 64, c.iss.tick + w.1)
  | none => none

/-! Check 6: engine conditions (R29, R54-R56, R188, R194, R195). -/

/-- Whether the condition that a `mwait` mask names does not hold yet (R195). -/
def Matrix.waits (m : Matrix) (all w0 w1 snd : Bool) : Bool :=
  (all && !m.queue.isEmpty) || (w0 && m.queue.any fun e => e.writes false) || (w1 && m.queue.any fun e => e.writes true) ||
    (snd && match m.run with
      | some r => !r.sends.isEmpty
      | none => false)
/-- The conditions of one performing syllable, beside its channel. -/
def State.itemConds (s : State) (core slot : Nat) (x : Item) : List Cond :=
  let c := s.ctx (Machine.ck core slot)
  let h := s.core core
  let on (b : Bool) (k : Cond) : List Cond := if b then [k] else []
  let own (d : Cmd) : Bool := d.core = core && d.slot = slot && !d.done
  let t := x.touch
  let box := s.boxPending core slot t
  let rows := if box then false else t.rowsR.any (h.pending slot) || t.rowsW.any (fun r => h.pending slot r || h.held r)
  on (box || rows) .guarded ++
  match x.op with
  | .drain ch => on (s.cmds.any fun d => own d && d.ch = ch.toNat) .channel
  | .mwait all w0 w1 snd => on (c.matrix.waits all w0 w1 snd) .mwait
  | .mread _ acc _ _ => on (c.matrix.queue.any fun e => e.writes acc) .mwait
  | .mts _ spec =>
    let n := spec.toNat - 16
    if 16 ≤ spec.toNat && spec.toNat < 24 then
      on (c.owed.any fun o => o.1 = n) .guarded ++
      on (c.matrix.queue.any fun e => isMcall e.op && (e.ringA = n || e.ringB = n)) .mwait
    else []
  | _ => []
/-- Rings short of rows (R56): the first syllable that uses one. -/
def ringShort (c : Ctx) (l : List Item) : List (Cond × Loc) :=
  let uses (n : Nat) : List (Nat × Nat × Nat) := (l.flatMap fun x => x.touch.ring).filter fun r => r.1 = n
  let short (n : Nat) : Bool :=
    let g := c.regs.ringOf n
    ringRoom g < sumN ((uses n).map fun r => r.2.1) || ringCount g < ((uses n).map fun r => r.2.2).foldl max 0
  l.flatMap fun x => if x.touch.ring.any fun r => short r.1 then [(.ringShort, x.loc)] else []
/-- Every condition that the group waits on. -/
def State.groupConds (s : State) (core slot n : Nat) (w : Walk) : List (Cond × Loc) :=
  let c := s.ctx (Machine.ck core slot)
  let perf := w.items.filter Item.perf
  let zero : Loc := ⟨0, .sync, false⟩
  let entries := w.items.filter fun x => !(tilesOf x.op).isEmpty
  let full := 8 < c.matrix.queue.length + entries.length
  w.waits ++ perf.flatMap (fun x => (s.itemConds core slot x).map fun k => (k, x.loc)) ++ ringShort c perf ++
  (if c.landing.any fun r => !r.arrived && r.due < c.iss.tick + n then [(.unlanded, zero)] else []) ++
  (if c.iss.grant.isSome then [(.seWait, zero)] else []) ++
  (match entries with
    | x :: _ => if full then [(.mwait, x.loc)] else []
    | [] => [])

/-! The six checks in order (R113). -/

/-- What group entry decides. -/
inductive Entry
  | event (code sub bidx lane : Nat) (held : Bool) (info aux : Word64) (bundle : List Word64)
  | waits (l : List (Cond × Loc))
  | go (g : InGroup)
  deriving DecidableEq, Repr

/-- The head word of a bundle (R103). -/
def headOf (b : Bundle) : Word64 :=
  let form := b.slots.any fun e => repeats e.2.op
  (((encodeSync b.sync).getD 0).setWidth 64 <<< 16) |||
    pack ([(8, b2n form), (7, b2n b.stop)] ++ b.slots.map fun e => (e.1.bit, 1))
/-- The issued form of bundle i of a group (R108): the head word and the syllables that perform. -/
def issuedForm (b : Bundle) (holds : Lane → Option Syl) (l : List Item) (i : Nat) : List Word64 :=
  headOf b :: Lane.slots.map fun n =>
    if l.any fun x => x.bidx = i && x.lane = n && x.perf then
      let y := match (b.slots.find? fun e => e.1 = n).map Prod.snd with
        | some y => some y
        | none => holds n
      (y.bind encodeSyl).getD 0
    else 0
/-- The hold states as they stand before bundle i. -/
def holdsBefore (c : Ctx) (bs : List Bundle) (i : Nat) : Ctx :=
  (bs.take i).foldl (fun c b => b.slots.foldl (fun c e => c.setHold e.1 e.2) c) c
def issuedForms (c : Ctx) (bs : List Bundle) (l : List Item) : List (List Word64) :=
  bs.zipIdx.map fun (b, i) => issuedForm b (holdsBefore c bs i).held l i
/-- The order in which conditions are reported: by place (R329), and at one place by the rows of R29's table (log 69). -/
def firstCond (l : List (Cond × Loc)) : Option (Cond × Loc) :=
  let k (e : Cond × Loc) : Nat := (e.2.bidx * 8 + e.2.lane.num) * 8 + e.1.num
  l.foldl (fun (b : Option (Cond × Loc)) e => match b with
    | some x => if k e < k x then some e else some x
    | none => some e) none
/-- The walk over the bundles of a context's group. -/
def State.walk0 (s : State) (core slot : Nat) (bs : List Bundle) (ahead : Bool) : Walk :=
  let v : State := { s with cur := { core, slot, lane := .sync, pc := (s.ctx (Machine.ck core slot)).iss.pc, link := 0, held := false } }
  Walk.bundles core slot bs 0
    { view := v, items := [], viols := [], waits := [], again := [], chans := [], fenced := [], guarded := [], stored := [], tiles := [], ahead }
/-- Whether the predicate of a stored syllable lets it perform; a repeated operation has none (R105, R107). -/
def Ctx.performsWord (c : Ctx) (form : Bool) (l : Lane) (w : Word64) : Bool :=
  (form && l == .mx) || (c.regs.readP (fldN w 51 4) != bit w 55)
/-- The issued form of a bundle that breaks its encoding (R108): stored syllables and held ones that perform. -/
def rawForm (core slot i : Nat) (f : Fetched) (w : Walk) : List Word64 :=
  let w := { w with view := w.view.beginTick core slot }
  let c := w.view.me
  f.head :: Lane.slots.map fun l =>
    match (((presentLanes f.head).zip f.syls).find? fun e => e.1 = l).map Prod.snd, c.held l with
    | some x, _ => if c.performsWord (bit f.head 8) l x then x else 0
    | none, some y => if (w.visit i l true y).items.any fun x => x.bidx = i && x.lane = l && x.perf then (encodeSyl y).getD 0 else 0
    | none, none => 0
/-- The issued form of bundle i of a fetched group whose bundles before it decode (R108). -/
def State.formOf (s : State) (core slot : Nat) (fs : List Fetched) (i : Nat) : List Word64 :=
  let s := s.beginTick core slot
  let form (bs : List Bundle) : List Word64 := (issuedForms (s.ctx (Machine.ck core slot)) bs (s.walk0 core slot bs true).items).getD i []
  match decodeGroup (fs.take (i + 1)) 0, decodeGroup (fs.take i) 0, fs[i]? with
  | .inl bs, _, _ => form bs
  | .inr _, .inl bs, some f => rawForm core slot i f (s.walk0 core slot bs true)
  | .inr _, _, _ => []
/-- Checks 3 to 6 on a decoded group, with everything landed that lands at the tick of its first bundle (R114, R170); `ahead` whether it
would issue now. -/
def State.checkGroup (s : State) (core slot : Nat) (fs : List Fetched) (bs : List Bundle) (ahead : Bool) : Entry :=
  let k := Machine.ck core slot
  let s := s.beginTick core slot
  let c := s.ctx k
  let n := bs.length
  let stop := match bs.getLast? with
    | some b => b.stop
    | none => false
  let w := s.walk0 core slot bs ahead
  let perf := w.items.filter Item.perf
  let forms := issuedForms c bs w.items
  let ev (code sub : Nat) (l : Loc) (info aux : Word64) : Entry :=
    .event code sub l.bidx l.lane.num l.held info aux (forms.getD l.bidx [])
  let fills := (s.core core).fills.filter (fun f => f.slot = slot) ++ perf.filterMap fun x => match x.op with
    | .stFill _ _ cnt => some ⟨0, slot, x.tick, 0, cnt.toNat + 1, 0, 0, 0⟩
    | _ => none
  let viols := w.viols ++ clashes w.items ++ fillClashes perf ++ positions n stop w.items ++ ports n w.items ++ endings c fills w.items ++
    bodyViol c fs ++ if stop then [] else [⟨⟨7, .sync, false⟩, 8, 0, 0⟩]
  match firstViol viols with
  | some x => ev 3 x.sub x.loc x.info x.aux
  | none =>
    match perf.findSome? fun x => (s.windowErr core slot x).map fun e => (x, e) with
    | some (x, sub, info) => ev 4 sub x.loc (BitVec.ofNat 64 info) c.win
    | none =>
      match landingErr c w.items n with
      | some (i, ovf, t) => ev 5 0 ⟨i, .sync, false⟩ (BitVec.ofNat 64 ovf) (BitVec.ofNat 64 t)
      | none =>
        let conds := s.groupConds core slot n w
        match firstCond conds with
        | some (cond, l) => if c.place.phase.getLsbD 0 then ev 6 cond.num l 0 0 else .waits conds
        | none =>
          let next := match fs.getLast? with
            | some f => f.addr + BitVec.ofNat 64 (8 * bundleWords f.head)
            | none => c.iss.pc
          .go { start := c.iss.pc, tick0 := c.iss.tick, idx := 0,
                bundles := (fs.map Fetched.addr).zip (bs.zip forms), next, again := w.again }
/-- Group entry of a context: the first check that fails, the conditions it waits on, or the group (R113). -/
def State.entryCheck (s : State) (core slot : Nat) (ahead : Bool) : Entry :=
  let c := s.ctx (Machine.ck core slot)
  let part := c.place.part
  let pc := c.iss.pc
  let unread (a : Word64) : Nat := if s.s2inside part (a.toNat / 65536) && !s.s2reads part (a.toNat / 65536) then 2 else 0
  if pc.toNat % 8 ≠ 0 then .event 1 1 0 0 false pc 0 []
  else if c.iss.skip ≠ 0 then .event 1 (unread pc) 0 0 false pc 0 []
  else
    match s.fetchGroup core c.loopBuffer part 8 pc with
    | (fs, some a) => .event 1 (unread a) fs.length 0 false a 0 []
    | (fs, none) =>
      match decodeGroup fs 0 with
      | .inr (i, _, l, e) => .event 2 e.sub i l.num false (BitVec.ofNat 64 e.off) (BitVec.ofNat 64 e.val) (s.formOf core slot fs i)
      | .inl bs => s.checkGroup core slot fs bs ahead
/-- The context blocks at group entry (R29, R31). -/
def State.block (s : State) (core slot : Nat) (c : Cond) : State :=
  let k := Machine.ck core slot
  let x := s.ctx k
  (s.setCtx k { x with iss := { x.iss with blocked := some c } }).stops core slot
/-- The bundles of a skipped body that were not mapped when it was skipped are passed over (R139). -/
def State.passOver (s : State) (core slot : Nat) : State :=
  let k := Machine.ck core slot
  let c := s.ctx k
  if c.iss.skip = 0 then s
  else
    let (pc, left) := s.passBundles c.place.part c.iss.pc c.iss.skip
    s.setCtx k { c with iss := { c.iss with pc, skip := left } }
/-- GROUP ENTRY of a core's issuing context (R113): a deferred event first (R335), then the six checks; the group is entered, the
context blocks, or the event is taken before anything of the group has an effect. -/
def execGroupEntry (core : Nat) (s : State) : Res :=
  match (s.core core).issuing with
  | none => .next s
  | some slot =>
    let k := Machine.ck core slot
    let c := s.ctx k
    match c.iss.routineEvent with
    | some (sub, rt, addr) =>
      let s := s.setCtx k { c with iss := { c.iss with routineEvent := none } }
      .next (s.takeEvent core slot 9 sub 0 0 false true c.iss.pc c.iss.tick (BitVec.ofNat 64 rt) (BitVec.ofNat 64 addr) [] true)
    | none =>
      let s := s.passOver core slot
      let c := s.ctx k
      match s.entryCheck core slot true with
      | .event code sub bidx lane held info aux b =>
        .next (s.takeEvent core slot code sub bidx lane held false c.iss.pc c.iss.tick info aux b true)
      | .waits l =>
        match firstCond l with
        | some (cond, _) => .next (s.block core slot cond)
        | none => .next s
      | .go g =>
        let fs := (s.fetchGroup core c.loopBuffer c.place.part 8 c.iss.pc).1
        let d := c.fillLoop fs
        .next ((s.setCtx k { d with grp := some g, iss := { c.iss with target := none, after := [] } }).cacheLines core c.place.part c.loopBuffer fs)
/-- Whether the condition that a context is blocked on has cleared (R29): a channel's when its beats have expired; ring rows that the context
appended itself land while it waits (log 18). -/
def State.condCleared (s : State) (core slot : Nat) : Bool :=
  let s := s.landWaiting core slot
  let c := s.ctx (Machine.ck core slot)
  match c.iss.blocked with
  | some .knotWait => false
  | some k =>
    c.iss.freeze.isNone && match s.entryCheck core slot false with
      | .waits l => !l.any fun e => e.1 == k
      | _ => true
  | none => false
/-- CONDITION CLEARS (R29, R32): the context is ready from the next cycle; a gated core ungates, and its selector chooses then. -/
def execConditionClears (core slot : Nat) (s : State) : Res :=
  if s.condCleared core slot then
    let k := Machine.ck core slot
    let s := s.landWaiting core slot
    let c := s.ctx k
    .next ((s.setCtx k { c with iss := { c.iss with blocked := none, ready := s.now + 1 } }).setCore core { s.core core with gated := false })
  else .next s

/-! The end of a pass of a captured body (R140). -/

/-- The update of one level: index, iteration counter, carry. -/
def Regs.stepLevel (g : Regs) (k : Nat) : Regs × Bool :=
  let it := Sp.get 0 g.iter k + 1
  let li := Sp.get 0 g.li k + (Sp.get 0 g.stride k).signExtend 32
  if it.ult (Sp.get 0 g.lc k) then ({ g with iter := Sp.put 0 g.iter k it, li := Sp.put 0 g.li k li }, false)
  else ({ g with iter := Sp.put 0 g.iter k 0, li := Sp.put 0 g.li k 0 }, true)
/-- The levels from the innermost outward while the carry lasts. -/
def Regs.stepNest (g : Regs) : List Nat → Regs × Bool
  | [] => (g, true)
  | k :: r => match g.stepLevel k with
    | (g, true) => Regs.stepNest g r
    | (g, false) => (g, false)
/-- The update of R140 and where the context goes on. -/
def Ctx.passEnd (c : Ctx) (b : Body) : Ctx :=
  let g := { c.regs with vrb := c.regs.vrb + 1 }
  let l := g.lpc
  let erem := fldN l 59 3
  let (g, carry) := if bit l 62 then (g, true) else g.stepNest (levels (fldN l 56 3) (fldN l 53 3)).reverse
  let newp := !carry
  let again := newp || 0 < erem
  let l := if newp then l else if 0 < erem then setFld (setFld l 62 1 1) 59 3 (erem - 1) else setFld l 62 2 0
  let p := setFld g.p 8 8 (fldN g.p 8 7 * 2 + b2n newp)
  let g := { g with lpc := l, p }
  if again then { c with regs := g, body := some { b with left := b.len, ended := false }, iss := { c.iss with pc := b.start } }
  else { c with regs := g, body := none }
/-- LOOP PASS END: at the tick of the bundle after the body's last, before that tick's results land (R140). -/
def execLoopPassEnd (core slot : Nat) (s : State) : Res :=
  let k := Machine.ck core slot
  let c := s.ctx k
  match c.body with
  | some b => if b.ended then .next (s.setCtx k (c.passEnd b)) else .next s
  | none => .next s
/-- A taken transfer ends the replay of a body (R141). -/
def Ctx.leaveBody (c : Ctx) : Ctx :=
  match c.body with
  | some _ => { c with body := none, regs := { c.regs with lpc := setFld c.regs.lpc 62 2 0 } }
  | none => c

/-- A freeze at the group boundary where a context stands, when it is in no group (R112, R336): the record shows the first bundle of the group
at pc, zeros where it cannot be fetched (R330). -/
def State.freezeHere (s : State) (core slot sub : Nat) : State :=
  let c := s.ctx (Machine.ck core slot)
  let form := s.formOf core slot (s.fetchGroup core c.loopBuffer c.place.part 1 c.iss.pc).1 0
  s.takeEvent core slot 0x0a sub 0 0 false false c.iss.pc c.iss.tick 0 0 form true
/-- A ROUTINE event of a context that has halted is recorded at once, of a frozen one when firmware resumes it (R335). -/
def State.settleRoutine (s : State) (core slot : Nat) : State :=
  let k := Machine.ck core slot
  let c := s.ctx k
  match if c.iss.halted && c.iss.freeze.isNone && c.grp.isNone then c.iss.routineEvent else none with
  | some (sub, rt, addr) =>
    (s.setCtx k { c with iss := { c.iss with routineEvent := none } }).takeEvent core slot 9 sub 0 0 false true c.iss.pc c.iss.tick
      (BitVec.ofNat 64 rt) (BitVec.ofNat 64 addr) [] true
  | none => s
/-- What takes effect after a group, in bundle order, until one freezes the context (R31, R44, R112, R231, R336). -/
def State.runAfter (s : State) (core slot : Nat) : List After → State
  | [] => s
  | a :: r =>
    let k := Machine.ck core slot
    let c := s.ctx k
    let asked := match a.op with
      | .freeze => none
      | _ => c.iss.freezeAsked
    let s := s.setCtx k { c with iss := { c.iss with after := r, freezeAsked := asked } }
    let take (s : State) (code sub info : Nat) : State :=
      s.takeEvent core slot code sub a.bidx 0 false false a.pc a.tick (BitVec.ofNat 64 info) 0 a.form false
    match a.op with
    | .tsys code => take s 7 0 code.toNat
    | .brk code => take s 8 0 code.toNat
    | .freeze => take s 0x0a (c.iss.freezeAsked.getD 1) 0
    | _ => State.runAfter (if c.place.phase.getLsbD 0 then s else s.stops core slot) core slot r
/-- Firmware or a debugger asks for a freeze: taken at the next group boundary, or at once outside a group (R336). -/
def State.askFreeze (s : State) (core slot sub : Nat) : State :=
  let k := Machine.ck core slot
  let c := s.ctx k
  if c.iss.freeze.isSome || c.iss.halted then s
  else if c.grp.isSome then s.setCtx k { c with iss := { c.iss with freezeAsked := some sub } }
  else s.freezeHere core slot sub

end Sys2Proof.Machine
end

