-- ==== Sys2Proof/Machine/Knots.lean ====
section
/-! DEFINITION. Knots, exchange grants, pre-emption, termination and completion of gangs (R38-R50, R310, R311, R336, R363-R365). -/
namespace Sys2Proof.Machine
open Sys2Proof

/-! Gangs. -/

/-- Whether a member has halted; frozen after its `halt`, it holds its gang's knots (R335, R336). -/
def State.haltedAt (s : State) (g : Gang) (core : Nat) : Bool :=
  let c := s.ctx (Machine.ck core g.slot)
  c.iss.halted && c.iss.freeze.isNone
/-- Equalised tree delay by the number of dies (R42). -/
def treeDelay (p : Part) : Nat :=
  match p.cfg.dies.length with
  | 1 => 20
  | 2 => 32
  | _ => 56
/-- Whether every member has arrived or halted, and one has not halted (R39, R42). -/
def State.knotFull (s : State) (g : Gang) : Bool :=
  g.cores.all (fun c => g.knot.arrived.contains c || s.haltedAt g c) && g.cores.any fun c => !s.haltedAt g c
/-- The phase of a gang, which all its members share. -/
def State.phaseOf (s : State) (g : Gang) : Word32 :=
  match g.keys with
  | k :: _ => (s.ctx k).place.phase
  | [] => 0
/-- Whether the next release leads into an exchange superstep (R40). -/
def State.toExchange (s : State) (g : Gang) : Bool := g.xbit && !(s.phaseOf g).getLsbD 0

/-! Arrival (R39, R41). -/

/-- Whether a member's knot conditions hold (R41). A frozen member holds its gang's knot (R336). -/
def State.arrives (s : State) (core slot : Nat) : Bool :=
  let c := s.ctx (Machine.ck core slot)
  let h := s.core core
  let exch := c.place.phase.getLsbD 0
  c.iss.placed && c.grp.isNone && c.iss.freeze.isNone && !c.iss.arrived &&
  (c.iss.halted ||
    (c.iss.knot && c.landing.all (fun r => r.arrived || isFmt r) && c.matrix.queue.isEmpty && c.matrix.run.isNone &&
      (!exch || (h.laneE ≤ s.now + 1 && h.laneW ≤ s.now + 1 && !h.muxes.any fun m => m.slot = slot))))
/-- A gang's tree takes an arrival, the first of a superstep with its cycle; after the last one the announcement follows D - 2 cycles later,
unless every member has halted (R39, R42, R43, R363). -/
def State.takeArrival (s : State) (part tree core : Nat) (g : Gang) : State :=
  let timer := g.knot.first.isNone
  let k := { g.knot with arrived := core :: g.knot.arrived.filter (· ≠ core), first := if timer then some s.now else g.knot.first }
  let g := { g with knot := k }
  let s := if timer then s.later (s.part part).cfg.ktime .knotTimeout [part, tree, s.now] else s
  if g.cores.all (fun c => g.knot.arrived.contains c || s.haltedAt g c) && g.knot.last.isNone && g.ending.isNone then
    let t := s.setGang part tree { g with knot := { g.knot with last := some s.now } }
    if s.knotFull g then t.later (treeDelay (s.part part) - 2) (.knotAnnouncement part tree) [] else t
  else s.setGang part tree g
/-- KNOT ARRIVAL (R41): what is owed is written, the context's invalidation markers are acknowledged (R218), and the member waits
for its release; a halted member counts as arrived at every later knot (R39). -/
def execKnotArrival (core slot : Nat) (s : State) : Res :=
  if s.arrives core slot then
    let k := Machine.ck core slot
    let c := s.ctx k
    let c := match c.body with
      | some b => if b.ended then c.passEnd b else c
      | none => c
    let s := (s.setCtx k c).beginTick core slot
    let s := s.setCore core ((s.core core).ropesSeen slot)
    let c := s.ctx k
    let s := (s.ackMarkers c.markers).setCtx k { c with markers := [], iss := { c.iss with arrived := true, blocked := if c.iss.halted then none else some .knotWait } }
    match s.gangAt c.place.part c.place.tree with
    | some g => .next (s.takeArrival c.place.part c.place.tree core g)
    | none => .next s
  else .next s

/-! Termination (R336, R364). -/

/-- Members are frozen one by one at their next group boundary (R336). -/
def State.freezeAll (s : State) (slot : Nat) : List Nat → State
  | [] => s
  | c :: r => State.freezeAll (s.askFreeze c slot 1) slot r
/-- The group ends with a status; the first termination counts (R336, R368). -/
def State.terminateGang (s : State) (part tree status : Nat) : State :=
  match s.gangAt part tree with
  | some g =>
    if g.ending.isSome then s
    else
      let s := s.setGang part tree { g with ending := some (status, s.now) }
      (s.freezeAll g.slot g.cores).later (2 ^ 26) .terminationTimeout [part, tree, s.now]
  | none => s

/-! Announcement, grant and release (R42-R45, R48). -/

/-- Ungate the cores of a gang (R43). -/
def State.ungate (s : State) (g : Gang) : State := s.mapCores (fun _ c => { c with gated := false }) g.cores
/-- KNOT ANNOUNCEMENT, two cycles before the release or the request (R43, R45, R48, R364): the control core withholds the release of
a victim, and of an exchange in which beats failed, whose group it ends with status 0xa2. -/
def execKnotAnnouncement (part tree : Nat) (s : State) : Res :=
  match s.gangAt part tree with
  | none => .next s
  | some g =>
    let early := g.knot.last.any fun m => s.now + 2 < m + treeDelay (s.part part)
    if g.knot.last.isNone || early || g.knot.announced || g.knot.withheld || g.ending.isSome then .next s
    else
      let put (k : Knot) : State := s.setGang part tree { g with knot := k }
      if g.knot.xfab then .next ((put { g.knot with withheld := true }).terminateGang part tree 0xa2)
      else if g.victim then .next (put { g.knot with withheld := true })
      else if s.toExchange g then .next (put { g.knot with announced := true, request := some (s.now + 2) })
      else .next (((put { g.knot with announced := true }).ungate g).later 2 (.knotRelease part tree) [])
/-- The core stops exchanging by a cycle: it exchanges for nobody, or for a gang whose closing release is announced for then. -/
def State.freeBy (s : State) (e core slot : Nat) : Bool :=
  match (s.core core).exchanging with
  | none => true
  | some k => k = slot || s.pending.any fun d => d.at_ ≤ e && match d.work with
    | .event (.knotRelease p t) => (match s.gangAt p t with
      | some g => g.slot = k && g.cores.contains core && g.knot.exchanging
      | none => false)
    | _ => false
/-- Whether some gang that asked earlier, or in the same cycle with a lower number, waits for a core of this one (R45). -/
def State.behindRequest (s : State) (part tree req : Nat) (g : Gang) : Bool :=
  (s.part part).gangs.any fun e => e.1 ≠ tree && e.2.knot.grant.isNone && e.2.cores.any g.cores.contains &&
    match e.2.knot.request with
    | some r => r < req || (r = req && e.1 < tree)
    | none => false
/-- Whether a gang may be granted with e two cycles from now (R45). -/
def State.grantReady (s : State) (part tree : Nat) : Bool :=
  match s.gangAt part tree with
  | some g =>
    match g.knot.request, g.knot.grant with
    | some r, none => r ≤ s.now + 2 && g.ending.isNone && !s.behindRequest part tree r g &&
        g.cores.all fun c => (s.core c).reserved.isNone && s.freeBy (s.now + 2) c g.slot
    | _, _ => false
  | none => false
/-- The cycle after the group in progress on a core, when it is another context's; a core that has had its turn issues the next bundle in the
next cycle (R45, R110). -/
def State.groupEnds (s : State) (core slot : Nat) : Nat :=
  match (s.core core).issuing with
  | some k =>
    match if k = slot then none else (s.ctx (Machine.ck core k)).grp with
    | some r => s.now + (r.bundles.length - r.idx) + (if s.turn.contains core then 0 else 1)
    | none => 0
  | none => 0
/-- EXCHANGE GRANT at e - 2 (R45): the footprint is reserved, and the release cycle is known: e, or the first cycle after it in which
no group of another context is in progress. -/
def execExchangeGrant (part tree : Nat) (s : State) : Res :=
  if s.grantReady part tree then
    match s.gangAt part tree with
    | some g =>
      let at_ := (g.cores.map fun c => s.groupEnds c g.slot).foldl max (s.now + 2)
      let s := s.mapCores (fun _ c => { c with reserved := some (part, tree) }) g.cores
      let s := s.setGang part tree { g with knot := { g.knot with grant := some at_ } }
      .next ((if at_ = s.now + 2 then s.ungate g else s).later (at_ - s.now) (.knotRelease part tree) [])
    | none => .next s
  else .next s
/-- A member's state at a release (R40, R43). -/
def Ctx.released (c : Ctx) (step : Word32) (now : Nat) : Ctx :=
  if c.iss.halted then { c with place := { c.place with phase := c.place.phase + step } }
  else { c with place := { c.place with phase := c.place.phase + step },
                iss := { c.iss with knot := false, arrived := false, blocked := none, ready := now } }
/-- Distance of a slot in the rotation from the slot that stopped last (R31). -/
def rank (last slot : Nat) : Nat := (slot + 3 - last % 4) % 4
/-- A core in the cycle of a release into a compute superstep (R43): the member issues at once when no other context is issuing;
of members released together the first in rotation does. A core that has stopped exchanging in this cycle chooses in its turn (R44). -/
def State.releaseCore (s : State) (slot : Nat) : List Nat → State
  | [] => s
  | c :: r =>
    let h := s.core c
    let mine := s.isReady (s.ctx (Machine.ck c slot))
    let takes := match h.issuing with
      | none => h.choose != some s.now
      | some k => h.choose = some s.now && (s.ctx (Machine.ck c k)).iss.ready = s.now && rank h.last slot < rank h.last k
    State.releaseCore (if mine && takes && h.exchanging.isNone then
      s.setCore c { h with issuing := some slot, gated := false, choose := some s.now } else s) slot r
/-- A core in the cycle of a closing release (R44): it stops exchanging, and in its turn, after every release of the cycle, chooses among the
contexts ready now, the member last. -/
def State.closeCore (s : State) (slot : Nat) : List Nat → State
  | [] => s
  | c :: r =>
    let h := s.core c
    let s := if h.exchanging = some slot then
        s.setCore c { h with exchanging := none, last := slot, issuing := none, gated := false, choose := some s.now }
      else s
    State.closeCore s slot r
/-- KNOT RELEASE (R40, R42-R45): the phase advances in every member in one cycle; into an exchange superstep it is cycle 0. Halted members
have arrived at the next knot with the release (R39, R363; log 73). -/
def execKnotRelease (part tree : Nat) (s : State) : Res :=
  match s.gangAt part tree with
  | none => .next s
  | some g =>
    if !g.knot.announced || g.knot.withheld || g.ending.isSome || (s.toExchange g && g.knot.grant ≠ some s.now) then .next s
    else
      let into := s.toExchange g
      let closing := g.knot.exchanging
      let step : Word32 := if g.xbit then 1 else 2
      let s := s.mapKeys (fun c => c.released step s.now) g.keys
      let halted := g.cores.filter (s.haltedAt g)
      let first := if halted.isEmpty then none else some s.now
      let s := s.setGang part tree { g with knot := { Knot.reset with arrived := halted, first, exchanging := into, cycle0 := s.now } }
      let s := if halted.isEmpty then s else s.later (s.part part).cfg.ktime .knotTimeout [part, tree, s.now]
      if into then
        let enter (c : Nat) (h : Core) : Core :=
          { h with exchanging := some g.slot, reserved := none, gated := false, choose := some s.now,
                   issuing := if s.haltedAt g c then none else some g.slot }
        .next (s.mapCores enter g.cores)
      else if closing then
        let (mine, others) := g.cores.partition fun c => (s.core c).exchanging = some g.slot
        .next ((s.closeCore g.slot mine).releaseCore g.slot others)
      else .next (s.releaseCore g.slot g.cores)

/-! Pre-emption (R48, R49, R310, R311). -/

/-- Whether a member has work of its engines outstanding: copy channels, submissions (R48). -/
def State.cmdsLeft (s : State) (g : Gang) : Bool := s.cmds.any fun d => d.slot = g.slot && g.cores.contains d.core && !d.done
/-- Whether a withheld victim can be saved now. -/
def State.saveReady (s : State) (part tree : Nat) : Bool :=
  match s.gangAt part tree with
  | some g => g.victim && g.knot.withheld && g.ending.isNone && !s.cmdsLeft g &&
      (match g.knot.last with
        | some m => m + treeDelay (s.part part) ≤ s.now
        | none => false)
  | none => false
/-- Whether firmware's save of a gang goes on now: it begins, or the time that it takes is over (R48, R397; log 4). -/
def State.saveDue (s : State) (part tree : Nat) : Bool :=
  s.saveReady part tree && (match s.gangAt part tree with
    | some g => g.saving.all fun t => t ≤ s.now
    | none => false)
/-- Rows of a gang's windows, by core. -/
def windowRows (s : State) (g : Gang) : List (Nat × Nat × Row) :=
  g.base.flatMap fun (c, b) => (List.range g.window).map fun i => (c, b + i, (s.core c).row (b + i))
/-- Work that falls due for one context only. -/
def Due.ofCtx (d : Due) (core slot : Nat) : Bool :=
  match d.work with
  | .micro c k => c = core && k = slot
  | .event (.entryRetire c k) => c = core && k = slot
  | .event (.kblockRetire c k) => c = core && k = slot
  | _ => false
/-- A gang's slots, tree and cores are free again (R48, R336); no BRK record names its contexts any more (R315), and no invalidation marker
reaches them (R218). -/
def State.vacate (s : State) (part tree : Nat) (g : Gang) : State :=
  let s := (s.mapKeys (fun _ => Ctx.reset) g.keys).dropDue fun c => c.2 = g.slot && g.cores.contains c.1
  let p := s.part part
  let s := s.setPart part { p with gangs := p.gangs.filter fun e => e.1 ≠ tree, ring := g.cores.foldl (fun r c => r.forget c g.slot) p.ring }
  let free (h : Core) : Core :=
    { h with exchanging := if h.exchanging = some g.slot then none else h.exchanging,
             reserved := if h.reserved = some (part, tree) then none else h.reserved,
             issuing := if h.issuing = some g.slot then none else h.issuing,
             choose := if h.issuing = some g.slot then none else h.choose,
             guards := h.guards.filter fun e => e.own ≠ g.slot, fills := h.fills.filter fun f => f.slot ≠ g.slot,
             shadow := h.shadow.filter fun e => e.slot ≠ g.slot, muxes := h.muxes.filter fun m => m.slot ≠ g.slot,
             epoch := Sp.del h.epoch g.slot }
  let s := s.mapCores (fun _ h => free h) g.cores
  { s with pending := s.pending.filter fun d => !g.cores.any fun c => d.ofCtx c g.slot }
/-- Frames of the save area whose bytes a save may write. -/
def State.saveFrames (s : State) (part : Nat) : List Nat := (s.part part).cfg.saveArea.filter s.frameOk
/-- A save writes the save area in a layout that firmware chooses: every byte of it takes a free value (R48, R310; log 27). -/
def State.writeSave (s : State) : List Nat → State
  | [] => s
  | f :: r =>
    let bytes := (List.range 65536).map fun i => Config.saveByte (s.fresh + i)
    State.writeSave { s with mem := s.mem.writeN (f * 65536) bytes, fresh := s.fresh + 65536 } r
/-- Make every logged write of a core visible, in order. -/
def Core.commitAll (h : Core) : Core := h.log.foldl (fun h _ => h.commitAt 0) h
/-- What a save keeps of a gang: contexts, rows, what its own reads still see of rows just written, the guards of its own ring rows, which
have not landed for it (R48, R54, R118, R293). -/
def State.savedGang (s : State) (tree : Nat) (g : Gang) : Saved :=
  let shadow := g.cores.flatMap fun c => ((s.core c).shadow.filter fun e => e.slot = g.slot).map fun e => (c, e)
  let guards := g.cores.flatMap fun c => ((s.core c).guards.filter fun e => e.own = g.slot).map fun e => (c, e)
  { tree, gang := { g with victim := false, saving := none }, ctxs := g.keys.map fun k => (k, s.ctx k), rows := windowRows s g, shadow, guards,
    since := s.now, back := none }
/-- PREEMPT SAVE (R48): the members' state and window rows go to the save area, the slots and the tree are freed, once firmware's save has
taken its time (R397; log 4). The state that the restore puts back is kept as such in `Part.saved` (log 27). -/
def execPreemptSave (part tree : Nat) (s : State) : Res :=
  if s.saveDue part tree then
    match s.gangAt part tree with
    | some g =>
      if g.saving.isNone then .next (s.setGang part tree { g with saving := some (s.now + 1 + Config.duration s.fresh) }).bump
      else
        let s := s.mapCores (fun _ h => h.commitAll) g.cores
        let v := s.savedGang tree g
        let s := (s.vacate part tree g).writeSave (s.saveFrames part)
        let p := s.part part
        .next (s.setPart part { p with saved := p.saved ++ [v] })
    | none => .next s
  else .next s

/-! Routines of an image (R301). -/

def overlaps (a n b m : Nat) : Bool := a < b + m && b < a + n
/-- Words of an entry of a core's routine table. -/
def Core.routineWords (c : Core) (ix : Nat) : Option (List Word64) :=
  match Sp.get none c.routines ix, c.loaded.find? fun e => e.1 = ix with
  | some a, some (_, _, n) => some ((List.range n).map fun i => Sp.get 0 c.store (a + i))
  | _, _ => none
/-- A routine as it stands in the store from a start address: each `wjump` target moved (R301). The 11 bits of the target keep the low bits of
a sum beyond 2,047, which no rule gives (DESIGN CHOICE, log 50). -/
def placeWords (start : Nat) (ws : List Word64) : List Word64 :=
  ws.map fun w => if fldN w 60 4 = 0xa then setFld w 45 11 (fldN w 45 11 + start) else w
/-- The lowest free run of the microprogram store beyond the standard routines (R201, R301); the runs of the entries in `keep` are taken. -/
def Core.storeRun (c : Core) (keep : List Nat) (n : Nat) : Option Nat :=
  let taken := (0, standardStore.length) :: (c.loaded.filter fun e => keep.contains e.1).map fun e => (e.2.1, e.2.2)
  let ok (a : Nat) : Bool := a + n ≤ 2048 && !taken.any fun e => overlaps e.1 e.2 a n
  ((taken.map fun e => e.1 + e.2).filter ok).foldl (fun (b : Option Nat) a => match b with
    | some x => some (min x a)
    | none => some a) none
/-- Entries become invalid. -/
def Core.dropEntries (c : Core) (gone : List Nat) : Core :=
  { c with routines := gone.foldl (fun m ix => Sp.put none m ix none) c.routines, loaded := c.loaded.filter fun e => !gone.contains e.1 }
/-- Whether an entry holds a routine's microwords. -/
def Core.holdsRoutine (c : Core) (ix : Nat) (ws : List Word64) : Bool :=
  match Sp.get none c.routines ix with
  | some a => c.routineWords ix == some (placeWords a ws)
  | none => false
/-- A routine in its run of the store, with its entry; an entry whose run it takes becomes invalid. -/
def Core.putRoutine (c : Core) (ix a : Nat) (ws : List Word64) : Core :=
  let c := c.dropEntries ((c.loaded.filter fun e => overlaps e.2.1 e.2.2 a ws.length).map Prod.fst)
  { c with store := (placeWords a ws).zipIdx.foldl (fun m e => Sp.put 0 m (a + e.2) e.1) c.store,
           routines := Sp.put none c.routines ix (some a), loaded := c.loaded ++ [(ix, a, ws.length)] }
/-- Load routines into a core; none when it cannot take them (R301); `carried` the indices that images of gangs placed on it carry, `keep` the
entries whose runs stay. R301 keeps an entry valid while such a gang is placed and does not say what becomes of it then: the model leaves it valid
until another routine takes its run or its index (DESIGN CHOICE, log 66). -/
def Core.loadRoutines (carried : List Nat) : List Nat → List (Nat × List Word64) → Core → Option Core
  | _, [], c => some c
  | keep, (ix, ws) :: r, c =>
    if c.holdsRoutine ix ws then Core.loadRoutines carried (ix :: keep) r c
    else if carried.contains ix && (Sp.get none c.routines ix).isSome then none
    else
      let c := c.dropEntries [ix]
      match c.storeRun keep ws.length with
      | none => none
      | some a => Core.loadRoutines carried (ix :: keep) r (c.putRoutine ix a ws)
/-- The routines of firmware's own configuration, at those of the entries 8-31 that no placed gang's image carries (R201; log 66). -/
def Core.loadOwn (carried keep : List Nat) : List (Nat × List Word64) → Core → Core
  | [], c => c
  | (ix, ws) :: r, c =>
    if carried.contains ix || ix < 8 || 31 < ix then Core.loadOwn carried keep r c
    else Core.loadOwn carried keep r ((c.loadRoutines carried keep [(ix, ws)]).getD c)
/-- Indices carried by the gangs placed on a core. -/
def State.carried (s : State) (core : Nat) : List Nat :=
  [0, 1, 2, 3].flatMap fun (p : Nat) => (s.part p).gangs.flatMap fun e => if e.2.cores.contains core then e.2.routines.map Prod.fst else []
/-- A core as firmware loads it for a group whose image carries routines: those, and its own (R201, R301); none when it cannot take them. -/
def State.loadOn (s : State) (core : Nat) (rs : List (Nat × List Word64)) : Option Core :=
  let carried := s.carried core
  let keep := carried ++ s.control.mroutines.map Prod.fst
  let new := rs.map Prod.fst
  ((s.core core).loadRoutines carried keep rs).map (Core.loadOwn (carried ++ new) (keep ++ new) s.control.mroutines)
/-- A core's instruction cache without the lines of a partition (log 32). -/
def Core.dropLines (c : Core) (part : Nat) : Core := { c with icache := c.icache.filter fun l => l.part ≠ part }

/-! Restore (R49, R311). -/

/-- Rows that a gang's windows take on a core: base and count (R305). -/
def State.taken (s : State) (core : Nat) : List (Nat × Nat) :=
  [0, 1, 2, 3].flatMap fun (p : Nat) => (s.part p).gangs.flatMap fun e => (e.2.base.filter fun b => b.1 = core).map fun b => (b.2, e.2.window)
/-- Whether a saved gang's own cores, slot, rows and tree are all free (R311), and its routines can stand in its cores again (R301). -/
def State.restoreReady (s : State) (part : Nat) (v : Saved) : Bool :=
  (s.gangAt part v.tree).isNone &&
  v.gang.cores.all (fun c => !(s.ctx (Machine.ck c v.gang.slot)).iss.placed) &&
  v.gang.base.all (fun (c, b) => !(s.taken c).any fun e => overlaps e.1 e.2 b v.gang.window) &&
  v.gang.cores.all fun c => (s.loadOn c v.gang.routines).isSome
/-- Whether the withheld release of a saved gang leads into an exchange superstep (R40). -/
def Saved.toExchange (v : Saved) : Bool := v.gang.xbit && v.ctxs.any fun e => !e.2.place.phase.getLsbD 0
/-- Whether firmware's restore of a saved gang goes on now: it begins, or the time that it takes is over (R397; log 4). The restore cycle is
the request cycle of a gang that goes on with an exchange (R49): while a gang that it meets is announced to ask in this cycle or later, the
grant would be that gang's, so firmware waits (R45). -/
def State.restoreDue (s : State) (part : Nat) (v : Saved) : Bool :=
  s.restoreReady part v && v.back.all (fun t => t ≤ s.now) &&
  !(v.back.isSome && v.toExchange && (s.part part).gangs.any fun e => e.2.cores.any v.gang.cores.contains && e.2.knot.request.any fun r => s.now ≤ r)
/-- Put rows back. -/
def State.putRows (s : State) : List (Nat × Nat × Row) → State
  | [] => s
  | (c, r, v) :: l => State.putRows (s.setCore c ((s.core c).writeRow r v)) l
/-- Put contexts back. -/
def State.putCtxs (s : State) : List (Nat × Ctx) → State
  | [] => s
  | (k, c) :: l => State.putCtxs (s.setCtx k c) l
/-- A core takes the routines of a restored gang's image again. -/
def State.reload (s : State) (g : Gang) (core : Nat) (h : Core) : Core := (s.loadOn core g.routines).getD h
/-- What a restore puts back on a core beside rows: what the gang's own reads see of rows just written, and its guards. -/
def Saved.giveBack (v : Saved) (part core : Nat) (h : Core) : Core :=
  { h.dropLines part with shadow := h.shadow ++ (v.shadow.filter fun e => e.1 = core).map Prod.snd,
                          guards := h.guards ++ (v.guards.filter fun e => e.1 = core).map Prod.snd }
/-- GANG RESTORE (R49): once firmware's restore has taken its time (R397; log 4), everything is as it was, on the same resources, the routines
of its image among them; a release into an exchange superstep requests its grant now. The cores of a withheld closing release do not
exchange for the gang again (log 34). -/
def execGangRestore (part tree : Nat) (s : State) : Res :=
  let p := s.part part
  match p.saved.find? fun v => v.tree = tree && s.restoreDue part v with
  | none => .next s
  | some v =>
    if v.back.isNone then
      let begun : Saved := { v with back := some (s.now + 1 + Config.duration s.fresh) }
      .next (s.setPart part { p with saved := p.saved.map fun e => if e = v then begun else e }).bump
    else
    let k := { v.gang.knot with announced := false }
    let s := s.mapCores (s.reload v.gang) v.gang.cores
    let s := s.setPart part { p with saved := p.saved.erase v, gangs := p.gangs ++ [(tree, { v.gang with knot := k })] }
    let s := (s.putCtxs v.ctxs).putRows v.rows
    let s := s.mapCores (v.giveBack part) v.gang.cores
    if s.toExchange v.gang then
      .next (s.setGang part tree { v.gang with knot := { k with withheld := false, announced := true, request := some s.now } })
    else .next (s.sometime (.withheldRelease part tree) [])
/-- WITHHELD RELEASE (R49): the release is announced, and follows two cycles later. -/
def execWithheldRelease (part tree : Nat) (s : State) : Res :=
  match s.gangAt part tree with
  | none => .next s
  | some g =>
    if !g.knot.withheld || g.victim || g.ending.isSome || g.knot.last.isNone then .next s
    else if s.toExchange g then
      .next (s.setGang part tree { g with knot := { g.knot with withheld := false, announced := true, request := some s.now } })
    else
      .next (((s.setGang part tree { g with knot := { g.knot with withheld := false, announced := true } }).ungate g).later 2 (.knotRelease part tree) [])

/-! Time-outs (R363, R368). -/

/-- Cores of the members that count as not arrived: a member frozen on an event does not (R363). -/
def State.missing (s : State) (g : Gang) : List Nat :=
  g.cores.filter fun c => !g.knot.arrived.contains c && !s.haltedAt g c && (s.ctx (Machine.ck c g.slot)).iss.freeze.isNone
/-- The KNOT record of a gang (R361, R363). -/
def State.knotRecord (s : State) (part tree sub first : Nat) (g : Gang) : State :=
  let m := s.missing g
  let low := match m with
    | c :: r => r.foldl min c
    | [] => 0
  s.fabricEvent (s.part part).cfg.first part 0x21 sub low 0 g.queue tree 0 (BitVec.ofNat 64 m.length) (BitVec.ofNat 64 first)
/-- KNOT TIMEOUT on a partition, tree and first arrival (R363). -/
def execKnotTimeout (s : State) : Res :=
  let part := s.subj 0
  let tree := s.subj 1
  match s.gangAt part tree with
  | some g =>
    if g.knot.first = some (s.subj 2) && g.knot.last.isNone && g.ending.isNone then
      .next ((s.knotRecord part tree 0 (s.subj 2) g).later (s.part part).cfg.ktime .knotSecondTimeout [part, tree, s.subj 2])
    else .next s
  | none => .next s
/-- KNOT SECOND TIMEOUT (R363): the group ends with status 0xa1. -/
def execKnotSecondTimeout (s : State) : Res :=
  let part := s.subj 0
  let tree := s.subj 1
  match s.gangAt part tree with
  | some g =>
    if g.knot.first = some (s.subj 2) && g.knot.last.isNone && g.ending.isNone then
      .next ((s.knotRecord part tree 1 (s.subj 2) g).terminateGang part tree 0xa1)
    else .next s
  | none => .next s

/-! Completion (R39, R336, R347). -/

/-- Whether everything that the members posted has been performed; a terminated group does not wait for its matrix entries (R336). -/
def State.postedDone (s : State) (g : Gang) : Bool :=
  let mine (core slot : Nat) : Bool := slot = g.slot && g.cores.contains core
  !s.cmdsLeft g && !s.seReqs.any (fun r => mine r.core r.slot && !r.performed) &&
  !s.fabric.msgs.any (fun m => match m.pkt with
    | .routed _ _ _ core slot _ _ _ _ _ _ _ _ _ => mine core slot
    | _ => false) &&
  (g.ending.isSome || g.keys.all fun k => (s.ctx k).matrix.queue.isEmpty && (s.ctx k).matrix.run.isNone)
/-- Whether a group can complete now: every member halted and none frozen, or a termination whose members all stand. -/
def State.gangDone (s : State) (part tree : Nat) : Bool :=
  match s.gangAt part tree with
  | some g =>
    let stands (c : Ctx) : Bool := if g.ending.isSome then c.iss.halted || c.iss.freeze.isSome else c.iss.halted && c.iss.freeze.isNone
    g.keys.all (fun k => stands (s.ctx k) && (s.ctx k).grp.isNone) && s.postedDone g
  | none => false
/-- GROUP COMPLETE (R39, R336, R347): the slots, the window and the tree are free, and the group's status is known. -/
def execGroupComplete (part tree : Nat) (s : State) : Res :=
  if s.gangDone part tree then
    match s.gangAt part tree with
    | some g =>
      let s := s.vacate part tree g
      let p := s.part part
      let q := Sp.get Queue.reset p.queues g.queue
      let status (e : Grp) : Nat := match g.ending, e.refusal with
        | some (st, _), _ => st
        | none, some (_, st) => st
        | none, none => 0
      let put (e : Grp) : Grp := if e.lseq = g.lseq && e.group = g.group then { e with done := some (status e) } else e
      let at_ := s.now + 1 + Config.duration s.fresh
      .next (s.setPart part { p with queues := Sp.put Queue.reset p.queues g.queue { q with grps := q.grps.map put, recordAt := max q.recordAt at_ } }).bump
    | none => .next s
  else .next s

/-- DUTY FRAME BOUNDARY, on a partition and tree (R317): at cycle d of each 16-cycle frame the members of a gang of duty d stop counting
as ready, and at the frame's end they count again. -/
def execDutyFrameBoundary (s : State) : Res :=
  match s.gangAt (s.subj 0) (s.subj 1) with
  | some g =>
    let off := decide (g.duty ≤ s.now % 16)
    .next (s.mapKeys (fun c => { c with iss := { c.iss with throttled := off } }) g.keys)
  | none => .next s
/-- Whether a gang's members are not yet throttled, or released, as the cycle asks. -/
def State.dutyDue (s : State) (g : Gang) : Bool :=
  g.keys.any fun k => (s.ctx k).iss.throttled != decide (g.duty ≤ s.now % 16)

end Sys2Proof.Machine
end

