-- ==== Sys2Proof/Machine/Firmware.lean ====
section
/-! DEFINITION. Firmware services and the actions that end an event; communicator entries; invalidation markers (R218, R231,
R244, R245, R263, R336-R338, R360, R365). -/
namespace Sys2Proof.Machine
open Sys2Proof

/-! Return from an event (R336). -/

/-- Whether an action can still be taken on a context: its group has not been ended. -/
def State.live (s : State) (core slot : Nat) : Bool :=
  match s.gang (s.ctx (Machine.ck core slot)) with
  | some g => g.ending.isNone
  | none => false
/-- The code of the event on which a context is frozen. -/
def Ctx.frozenOn (c : Ctx) : Option Nat := c.iss.freeze.map Freeze.code
/-- Go on after an event: retry the group at pc, or what else takes effect after the group and the group that follows; a ROUTINE event of a
halted context that waited is recorded (R335). -/
def State.goOn (s : State) (core slot : Nat) : State :=
  let s := s.resume core slot
  (s.runAfter core slot (s.ctx (Machine.ck core slot)).iss.after).settleRoutine core slot
/-- RETRY, on a core and slot (R336): the context enters the group at pc again, with its tick unchanged; a frame that the retry names is made valid
first (R384). -/
def execRetry (s : State) : Res :=
  let core := s.subj 0
  let slot := s.subj 1
  let s := match s.subj 2 with
    | 0 => s
    | f + 1 => s.validate (s.ctx (ck core slot)).place.part f
  match (s.ctx (ck core slot)).iss.freeze with
  | some f => if f.inGroup && s.live core slot then .next (s.goOn core slot) else .next s
  | none => .next s
/-- CONTINUE, on a core and slot (R336): the context goes on after the group that it has issued. -/
def execCont (s : State) : Res :=
  let core := s.subj 0
  let slot := s.subj 1
  match (s.ctx (ck core slot)).iss.freeze with
  | some f => if !f.inGroup && s.live core slot then .next (s.goOn core slot) else .next s
  | none => .next s
/-- TERMINATE, on a core and slot (R336): the group ends with status 0x80 + the code of the event. -/
def execTerminate (s : State) : Res :=
  let c := s.ctx (ck (s.subj 0) (s.subj 1))
  match c.frozenOn with
  | some code => .next (s.terminateGang c.place.part c.place.tree (0x80 + code))
  | none => .next s
/-- FREEZE, on a core, a slot and a sub-code (R331, R336): the control core asks, and the context freezes at its next group
boundary, or where it stands when it is in no group. -/
def execFreeze (s : State) : Res :=
  if (s.ctx (ck (s.subj 0) (s.subj 1))).iss.placed then .next (s.askFreeze (s.subj 0) (s.subj 1) (s.subj 2)) else .next s

/-! Services of `tsys` (R231, R337). -/

/-- Scalar registers that a service writes. -/
def Regs.putS (g : Regs) : List (Nat × Word64) → Regs
  | [] => g
  | (n, v) :: r => Regs.putS { g with s := Sp.put 0 g.s n v } r
/-- A service ends: s1-s7 as it leaves them, and the context continues. -/
def State.served (s : State) (core slot : Nat) (vals : List (Nat × Word64)) : State :=
  let k := Machine.ck core slot
  let c := s.ctx k
  (s.setCtx k { c with regs := c.regs.putS vals }).goOn core slot
/-- Run a service for a context that is frozen on a `tsys`. -/
def State.service (s : State) (f : Nat → Nat → Ctx → State) : Res :=
  let core := s.subj 0
  let slot := s.subj 1
  let c := s.ctx (Machine.ck core slot)
  if c.frozenOn = some 7 && s.live core slot then .next (f core slot c) else .next s
/-- TSYS NULL, on a core, a slot and a code: 0 sets s1 to 0; another code is served by the runtime's firmware extension, or not at all,
and then s1 is 2 (R231, R337; log 13). -/
def execTsysNull (s : State) : Res :=
  s.service fun core slot _ =>
    if s.subj 2 = 0 then s.served core slot [(1, 0)]
    else match if 0x8000 ≤ s.subj 2 then Config.extensionService (s.subj 2) s.fresh else none with
      | some f => s.bump.served core slot ((1, f 1 &&& 1) :: [2, 3, 4, 5, 6, 7].map fun n => (n, f n))
      | none => s.bump.served core slot [(1, 2)]
/-- CYCLE COUNT: s2 is the wall-clock cycle counter (R337). -/
def execCycleCount (s : State) : Res :=
  s.service fun core slot _ => s.served core slot [(1, 0), (2, BitVec.ofNat 64 s.now)]
/-- OVERFLOW AREA QUERY: base and count of a die's SE overflow area; refused outside the caller's partition (R312, R337). -/
def execOverflowAreaQuery (s : State) : Res :=
  s.service fun core slot c =>
    let cfg := (s.part c.place.part).cfg
    let d := (c.regs.readS 2).toNat
    if cfg.dies.contains d then
      let a := overflowArea cfg d
      s.served core slot [(1, 0), (2, BitVec.ofNat 64 a.1), (3, BitVec.ofNat 64 a.2)]
    else s.served core slot [(1, 1)]

/-! Communicator entries (R244, R245). -/

def cV (e : BitVec 128) : Bool := bit e 127
def cPri (e : BitVec 128) : Bool := bit e 126
def cVc (e : BitVec 128) : Nat := fldN e 122 4
def cOwner (e : BitVec 128) : Nat := fldN e 116 6
def cEpoch (e : BitVec 128) : Nat := fldN e 100 16
def cSlots (e : BitVec 128) : Nat := fldN e 80 20
def cP (e : BitVec 128) : Nat := fldN e 60 20
def cSg (e : BitVec 128) : Nat := fldN e 44 16
def cSgv (e : BitVec 128) : Bool := bit e 43
def cMtab (e : BitVec 128) : Nat := fldN e 0 43 * 2
/-- The partition of the owner gang, whose memory holds the membership table (R61, R244). -/
def cPart (e : BitVec 128) : Nat := cOwner e / 16
/-- Key of a communicator at a die's engine. -/
def comKey (die comm : Nat) : Nat := die * 64 + comm
def State.comm (s : State) (die comm : Nat) : Comm := Sp.get Comm.reset s.fabric.comms (comKey die comm)
def State.setComm (s : State) (die comm : Nat) (c : Comm) : State :=
  { s with fabric := { s.fabric with comms := Sp.put Comm.reset s.fabric.comms (comKey die comm) c } }
def State.cle (s : State) (die comm : Nat) : Cle := Sp.get Cle.reset s.fabric.cles (comKey die comm)
def State.setCle (s : State) (die comm : Nat) (c : Cle) : State :=
  { s with fabric := { s.fabric with cles := Sp.put Cle.reset s.fabric.cles (comKey die comm) c } }
/-- Slot i of a membership table, which may lie in two frames: 0, not live, where it cannot be read (R65, R245). -/
def State.slotWord (s : State) (part mtab i : Nat) : Word32 :=
  match s.readBytes part (mtab + 4 * i) 4 with
  | some l => BitVec.ofNat 32 (ofBytesLE l)
  | none => 0
/-- The first frame of an entry's membership table that is only deferred (R384). -/
def State.tableDeferred (s : State) (e : BitVec 128) : Option Nat := s.firstDeferred (cPart e) (cMtab e) (4 * max 1 (cSlots e))
/-- Live members by rank: slot, chip, die (R245). -/
def State.liveSlots (s : State) (e : BitVec 128) : List (Nat × Nat × Nat) :=
  (List.range (cSlots e)).filterMap fun i =>
    let w := s.slotWord (cPart e) (cMtab e) i
    if bit w 31 then some (i, fldN w 2 18, fldN w 0 2) else none
/-- Members of a switch address group, in rank order (R259): chip x 4 + die. -/
def memberIds (l : List (Nat × Nat × Nat)) : List Nat := l.map fun m => m.2.1 * 4 + m.2.2
/-- Firmware loads the switch address group of an entry, next (R259, R337); it makes the deferred frames of the membership table valid to read
it (R384). -/
def State.loadsGroup (s : State) (e : BitVec 128) : State :=
  if cSgv e then
    let s := s.validateRange (cPart e) (cMtab e) (4 * max 1 (cSlots e))
    { s with redo := some (.switchGroupLoad (cSg e) (cEpoch e) (memberIds (s.liveSlots e))) }
  else s
/-- A time-out that firmware sets, within its bounds; the default where it sets none (R372, R373; log 24). -/
def waitWithin (lo hi dflt : Nat) (x : Option Nat) : Nat := min (max (x.getD dflt) (2 ^ lo)) (2 ^ hi)
/-- The entry's copies at the four dies (R244), with the communicator's time-outs (R372, R373). -/
def State.putComm (s : State) (comm : Nat) (e : BitVec 128) : List Nat → State
  | [] => s
  | d :: r =>
    let c : Comm := { entry := e, tj := waitWithin 16 28 (2 ^ 22) (Config.joinWait s.fresh), tc := waitWithin 20 30 (2 ^ 24) (Config.transferWait s.fresh) }
    State.putComm (s.setComm d comm c) comm e r
/-- A change is handed to every die's engine (R263). -/
def State.putChange (s : State) (comm : Nat) (c : Change) : List Nat → State
  | [] => s
  | d :: r => let l := s.cle d comm; State.putChange (s.setCle d comm { l with change := l.change ++ [c] }) comm c r
/-- Whether a communicator exists: at a die, or with a change that a die has yet to apply (R244; log 77). -/
def State.commExists (s : State) (n : Nat) : Bool := [0, 1, 2, 3].any fun (d : Nat) => cV (s.comm d n).entry || !(s.cle d n).change.isEmpty
/-- COMMUNICATOR CREATE (R244, R337): refused when the communicator exists, or the caller is not of the gang that the entry names. -/
def execCommunicatorCreate (s : State) : Res :=
  s.service fun core slot c =>
    let n := (c.regs.readS 2).toNat
    let e : BitVec 128 := setFld (c.regs.readS 3 ++ c.regs.readS 4) 100 16 0
    let gang := c.place.part * 16 + c.place.tree
    if 64 ≤ n || s.commExists n || cOwner e ≠ gang then s.served core slot [(1, 1)]
    else ((s.putComm n e [0, 1, 2, 3]).bump.served core slot [(1, 0)]).loadsGroup e
/-- Whether the caller is of the owner gang of communicator n, which exists (R244). -/
def State.ownsComm (s : State) (core n : Nat) (c : Ctx) : Bool :=
  let e := (s.comm (coreDie core) n).entry
  n < 64 && cV e && cOwner e = c.place.part * 16 + c.place.tree
/-- MEMBERSHIP CHANGE (R263, R337): handed to the engines, which apply it after the submission in progress; s2 is the new epoch. -/
def execMembershipChange (s : State) : Res :=
  s.service fun core slot c =>
    let n := (c.regs.readS 2).toNat
    if s.ownsComm core n c then
      let e := (s.comm (coreDie core) n).entry
      let waiting := ((s.cle (coreDie core) n).change.filter fun x => !x.delete).length
      let epoch := (cEpoch e + waiting + 1) % 2 ^ 16
      let x : Change := { slot := (c.regs.readS 3).toNat, entry := (c.regs.readS 4).setWidth 32, epoch, delete := false }
      (s.putChange n x [0, 1, 2, 3]).served core slot [(1, 0), (2, BitVec.ofNat 64 epoch)]
    else s.served core slot [(1, 1)]
/-- COMMUNICATOR DELETE (R337): v is 0 after the submission in progress. -/
def execCommunicatorDelete (s : State) : Res :=
  s.service fun core slot c =>
    let n := (c.regs.readS 2).toNat
    if s.ownsComm core n c then
      (s.putChange n { slot := 0, entry := 0, epoch := 0, delete := true } [0, 1, 2, 3]).served core slot [(1, 0)]
    else s.served core slot [(1, 1)]

/-! BRK records for the host (R315, R338). -/

/-- Whether BRK RECORD WRITE has something to write: the ring takes it, and its cycle has come (R397; log 4). -/
def State.brkDue (s : State) (part : Nat) : Bool :=
  let e := (s.part part).ring
  !e.waiting.isEmpty && s.ringTakes part && e.brkAt ≤ s.now
/-- BRK RECORD WRITE, on a partition (R315, R338): the oldest record that firmware keeps goes to the ring, which then has room, and
vector 63 announces it; its entry number can now be named in `ebrk`. -/
def execBrkRecordWrite (s : State) : Res :=
  let part := s.subj 0
  let e := (s.part part).ring
  match e.waiting with
  | [] => .next s
  | (r, held) :: rest =>
    if s.brkDue part then
      let n := e.etail.toNat % 2 ^ 48
      let s := s.putEvent part 0 r
      let p := s.part part
      let brks := p.ring.brks ++ held.toList.map fun c => (n, c)
      .next ((s.setPart part { p with ring := { p.ring with waiting := rest, brks, brkAt := s.now + 1 + Config.duration s.fresh } }).msix 63).bump
    else .next s

/-! Invalidation markers (R218, R360). -/

/-- What the first marker of an invalidation carries (R218): 1, the partition, the entry and the device frame + 1 that the translation had, and the
keys of the other contexts that its markers go to. Without it the old translation is what the units have cached. -/
def State.givenOld (s : State) (handle tile : Nat) : List Cached :=
  if s.subj 0 = 1 then [⟨0, s.subj 1, handle, tile, BitVec.ofNat 64 (s.subj 2), if s.subj 3 = 0 then none else some (s.subj 3 - 1)⟩] else []
/-- A marker arrives at a context: every command already issued keeps the old translation; the watchdog starts (R218, R360). -/
def State.marked (s : State) (core slot : Nat) (old : List Cached) : State :=
  let k := Machine.ck core slot
  let c := s.ctx k
  let keep (d : Cmd) : Cmd := if d.core = core && d.slot = slot && !d.done then { d with old := d.old ++ old } else d
  let s : State := { s with cmds := s.cmds.map keep }
  ((s.setCtx k { c with markers := c.markers ++ [s.fresh] }).later (2 ^ 22) (.markerWatchdog core slot) [s.fresh]).bump
/-- The other markers of an invalidation set out; each is a later one, and says so by a 2 (R218, R397). -/
def State.sendMarkers (s : State) (handle tile : Nat) : List (Nat × Nat) → State
  | [] => s
  | (core, slot) :: r => State.sendMarkers (s.sometime (.invalidationMarker core slot handle tile) [2]) handle tile r
/-- INVALIDATION MARKER (R218). The first of an invalidation makes the units drop the cached entries that it names, and sends the others. A
command issued before a marker reaches its context keeps the old translation, until the last marker has come and has been acknowledged. -/
def execInvalidationMarker (core slot handle tile : Nat) (s : State) : Res :=
  let placed := (s.ctx (ck core slot)).iss.placed
  let id := s.fresh
  let owes (u : Unmap) : Bool := u.handle = handle && u.tile = tile && u.due.contains (core, slot)
  match s.fabric.unmaps.reverse.find? owes with
  | some u =>
    let took : Unmap := { u with due := u.due.filter (· ≠ (core, slot)), waits := if placed then u.waits ++ [id] else u.waits }
    let t := s.setUnmaps (s.fabric.unmaps.map fun x => if x = u then took else x)
    .next (if placed then t.marked core slot u.old else t)
  | none =>
    if s.subj 0 = 2 then .next s
    else
      let names (x : Cached) : Bool := x.handle = handle && x.tile = tile
      let old := s.givenOld handle tile ++ s.fabric.cache.filter names
      let due := ((s.subject.drop 4).map fun k => (k / 4, k % 4)).filter fun c => c ≠ (core, slot) && (s.ctx (ck c.1 c.2)).iss.placed
      let t := s.setCache (s.fabric.cache.filter fun x => !names x)
      let t := t.setUnmaps (⟨handle, tile, old, if placed then [id] else [], due⟩ :: t.fabric.unmaps)
      .next ((if placed then t.marked core slot old else t).sendMarkers handle tile due)
/-- MARKER WATCHDOG, on a context and the marker that the state names (R360): unless a knot has acknowledged it, firmware freezes the
context, waits for every command ahead of the marker, acknowledges, and resumes it. -/
def execMarkerWatchdog (core slot : Nat) (s : State) : Res :=
  let id := s.subj 0
  let k := ck core slot
  let c := s.ctx k
  if !c.markers.contains id || !s.live core slot then .next s
  else if c.iss.freeze.isNone && !c.iss.halted then
    .next ((if c.iss.freezeAsked.isSome then s else s.askFreeze core slot 1).later 1 (.markerWatchdog core slot) [id])
  else if s.cmds.any fun d => d.core = core && d.slot = slot && d.id < id && !d.done then
    .next (s.later 1 (.markerWatchdog core slot) [id])
  else
    let s := (s.setCtx k { c with markers := c.markers.filter (· ≠ id) }).ackMarkers [id]
    .next (if c.frozenOn = some 0x0a then s.goOn core slot else s)

end Sys2Proof.Machine
end

