-- ==== Sys2Proof/Machine/Sha.lean ====
section
/-! DEFINITION. SHA-256 and SHA-384 (R264, R322, R323): the manual names them, FIPS 180-4 defines them (log 10). -/
namespace Sys2Proof.Machine
open Sys2Proof

/-- The first 80 primes. -/
def shaPrimes : List Nat :=
  (List.range 410).filter fun n => 2 ≤ n && (List.range 21).all fun d => d < 2 || n ≤ d || n % d ≠ 0
/-- The k-th root of x rounded down, found bit by bit from 2^n down. -/
def rootFrom (k x : Nat) : Nat → Nat → Nat
  | 0, r => r
  | n + 1, r => rootFrom k x n (if (r + 2 ^ n) ^ k ≤ x then r + 2 ^ n else r)
/-- The first w bits of the fractional part of the k-th root of a prime: where FIPS 180-4 takes its constants from. -/
def rootBits (k w p : Nat) : Nat := rootFrom k (p * 2 ^ (k * w)) (w + 5) 0 % 2 ^ w
/-- A hash of the family: word width, constants, first chaining value, rotations and shifts of its four functions. -/
structure Sha where
  w : Nat
  k : List Nat
  init : List Nat
  big0 : Nat × Nat × Nat
  big1 : Nat × Nat × Nat
  small0 : Nat × Nat × Nat
  small1 : Nat × Nat × Nat
  deriving DecidableEq, Repr
/-- SHA-256 takes square roots of the first eight primes and cube roots of the first 64, SHA-384 square roots of the next eight and all 80. -/
def sha256Of : Sha :=
  { w := 32, k := (shaPrimes.take 64).map (rootBits 3 32), init := (shaPrimes.take 8).map (rootBits 2 32)
    big0 := (2, 13, 22), big1 := (6, 11, 25), small0 := (7, 18, 3), small1 := (17, 19, 10) }
def sha384Of : Sha :=
  { w := 64, k := shaPrimes.map (rootBits 3 64), init := ((shaPrimes.drop 8).take 8).map (rootBits 2 64)
    big0 := (28, 34, 39), big1 := (14, 18, 41), small0 := (1, 8, 7), small1 := (19, 61, 6) }
def Sha.rotr (h : Sha) (n x : Nat) : Nat := ((x >>> n) ||| (x <<< (h.w - n))) % 2 ^ h.w
def Sha.big (h : Sha) (r : Nat × Nat × Nat) (x : Nat) : Nat := h.rotr r.1 x ^^^ h.rotr r.2.1 x ^^^ h.rotr r.2.2 x
def Sha.small (h : Sha) (r : Nat × Nat × Nat) (x : Nat) : Nat := h.rotr r.1 x ^^^ h.rotr r.2.1 x ^^^ (x >>> r.2.2)
/-- The bits of f where e is set, else those of g. -/
def pickBits (e f g : Nat) : Nat := g ^^^ (e &&& (f ^^^ g))
/-- One round over the window of the next 16 schedule words and the eight chaining words: every chaining word moves one place on, the fourth
and the last of them take the new sums, and the window slides by one word. -/
def Sha.round (h : Sha) (st : List Nat × List Nat) (k : Nat) : List Nat × List Nat :=
  let word (n : Nat) : Nat := st.1.getD n 0
  let v (n : Nat) : Nat := st.2.getD n 0
  let sum (l : List Nat) : Nat := l.foldl Nat.add 0 % 2 ^ h.w
  let up := sum [v 7, h.big h.big1 (v 4), pickBits (v 4) (v 5) (v 6), k, word 0]
  let most := pickBits (v 0 ^^^ v 1) (v 2) (v 0)
  let mixed (n x : Nat) : Nat := match n with
    | 0 => sum [up, h.big h.big0 (v 0), most]
    | 4 => sum [up, v 3]
    | _ => x
  (st.1.drop 1 ++ [sum [word 0, h.small h.small0 (word 1), word 9, h.small h.small1 (word 14)]],
    (List.range 8).map fun n => mixed n (v (n - 1)))
/-- A big-endian number of n bytes. -/
def bytesBE (n v : Nat) : List Byte := (bytesLE n v).reverse
def ofBytesBE (l : List Byte) : Nat := ofBytesLE l.reverse
/-- The chaining value after a block of 16 words. -/
def Sha.block (h : Sha) (v : List Nat) (b : List Byte) : List Nat :=
  let n := h.w / 8
  let ws := (List.range 16).map fun i => ofBytesBE ((b.drop (n * i)).take n)
  (v.zip (h.k.foldl h.round (ws, v)).2).map fun (x, y) => (x + y) % 2 ^ h.w
/-- A message padded to whole blocks: a bit 1, zeros, the length in bits. -/
def Sha.pad (h : Sha) (m : List Byte) : List Byte :=
  let n := 2 * h.w
  let used := m.length + 1 + h.w / 4
  m ++ [0x80#8] ++ List.replicate ((n - used % n) % n) 0#8 ++ bytesBE (h.w / 4) (8 * m.length)
/-- The digest: the words of the last chaining value. -/
def Sha.digest (h : Sha) (m : List Byte) : List Byte :=
  let p := h.pad m
  let n := 2 * h.w
  ((List.range (p.length / n)).foldl (fun v i => h.block v ((p.drop (n * i)).take n)) h.init).flatMap (bytesBE (h.w / 8))
def sha256 (m : List Byte) : List Byte := sha256Of.digest m
def sha384 (m : List Byte) : List Byte := (sha384Of.digest m).take 48

end Sys2Proof.Machine
end

