-- ==== Sys2Proof/Machine/Collect.lean ====
section
/-! DEFINITION. Collective engines: submissions, join rounds, transfers, reduction in the switch, routed rows, membership (R244-R266,
R372-R376, R385-R387). What members on other chips send is free (log 24). -/
namespace Sys2Proof.Machine
open Sys2Proof

/-! The collective record (R247, R248). -/

def kComm (w : List Word64) : Nat := fldN (w.getD 0 0) 58 6
def kKind (w : List Word64) : Nat := fldN (w.getD 0 0) 56 2
def kLevels (w : List Word64) : Nat := fldN (w.getD 0 0) 53 3
def kX (w : List Word64) : Bool := bit (w.getD 0 0) 44
/-- Elements of a chunk. -/
def kE (w : List Word64) : Nat := fldN (w.getD 1 0) 32 13 + 1
/-- Chunks, for P live members. -/
def kC (w : List Word64) (p : Nat) : Nat := let c := fldN (w.getD 1 0) 0 20; if c = 0 then p else c
def kSbase (w : List Word64) : Nat := fldN (w.getD 2 0) 0 48
def kDbase (w : List Word64) : Nat := fldN (w.getD 3 0) 0 48
/-- A level: bound for P members, peer coefficient, chunk coefficient. -/
def kLevel (w : List Word64) (p k : Nat) : Nat × Int × Int :=
  let x := w.getD (5 + k) 0
  let b := fldN x 40 24
  (if b = 0 then p else if b = 0xffffff then p - 1 else b, signed 20 (fldN x 20 20), signed 20 (fldN x 0 20))
/-- Transfers of the loop nest, level 0 outermost (R248). -/
def walkNest (c p : Nat) : List (Nat × Int × Int) → Int → Int → List Transfer
  | [], ch, pe => [⟨(ch % (c : Int)).toNat, (pe % (p : Int)).toNat⟩]
  | (n, a, k) :: r, ch, pe => (List.range n).flatMap fun (i : Nat) => walkNest c p r (ch + k * (i : Int)) (pe + a * (i : Int))
/-- Transfers that the loop walker of rank r emits (R248). -/
def walkRecord (w : List Word64) (p r : Nat) : List Transfer :=
  let x := w.getD 4 0
  let own (b : Bool) : Int := if b then r else 0
  walkNest (kC w p) p ((List.range (kLevels w)).map (kLevel w p)) (signed 20 (fldN x 23 20) + own (bit x 22))
    (signed 20 (fldN x 44 20) + own (bit x 43))
def isArm : Instr → Bool
  | .clArm _ => true
  | _ => false
def isMlr : Instr → Bool
  | .mlr _ => true
  | _ => false
/-- A record that breaks R247 or does not suit its command (R266, R375); a switch reduce with a peer field (R260). -/
def recordBreaks (w : List Word64) (op : Instr) : Bool :=
  let z (i off len : Nat) : Bool := fldN (w.getD i 0) off len ≠ 0
  let n := kLevels w
  kKind w = 3 || ((kKind w = 2) != isMlr op) || n = 0 || 4 < n || z 0 0 44 || z 1 45 19 || z 1 20 12 || z 2 48 16 || z 3 48 16 || z 4 0 22 ||
  (List.range 4).any (fun k => n ≤ k && w.getD (5 + k) 0 ≠ 0) || (w.drop 9).any (· ≠ 0) ||
  (isMlr op && (z 4 44 20 || z 4 43 1 || (List.range n).any fun k => z (5 + k) 20 20))
/-- Descriptors that break R247, or name a compressed tensor, which only the codec-path copy commands reach (R78). -/
def recordDescs (tds tdd : Option (BitVec 512)) : Bool :=
  let float (d : Desc) : Bool := dEfmt d = 0 || dEfmt d = 2
  match tds, tdd with
  | some a, some b => !float a || !float b || dCmp a || dCmp b || !(dRole a = roleI || dRole a = roleO) || dRole b ≠ roleO
  | _, _ => true

/-! Submission (R246, R251, R252). -/

/-- The event in which a packet arrives. -/
def arrivalOf (p : Packet) (id : Nat) : Instr :=
  match p with
  | .query _ _ _ _ _ => .presenceQuery id
  | .pair _ _ _ _ _ _ _ _ => .chainPairArrival id
  | .chunk _ _ _ _ _ _ _ => .copyChunkArrival id
  | .routed _ _ _ _ _ _ _ _ _ _ _ _ _ _ => .routedRowArrival id
  | _ => .joinArrival id
/-- The die and the communicator whose engine a packet goes to. -/
def Packet.at_ : Packet → Nat × Nat
  | .join c d _ _ _ _ _ _ => (d, c)
  | .decided c d _ _ _ _ => (d, c)
  | .query c d _ _ _ => (d, c)
  | .pair c d _ _ _ _ _ _ => (d, c)
  | .chunk c d _ _ _ _ _ => (d, c)
  | .routed c _ _ _ _ _ _ _ _ _ _ d _ _ => (d, c)
/-- A packet sets out for an engine of this chip, from a die here or from another chip, and arrives after a time that no rule fixes (log 4). -/
def State.postFrom (s : State) (from_ : Option Nat) (p : Packet) : State :=
  let id := s.fresh
  let s : State := { s with fabric := { s.fabric with msgs := s.fabric.msgs ++ [⟨id, cPart (s.comm p.at_.1 p.at_.2).entry, p, from_⟩] } }
  s.travels.bump.sometime (arrivalOf p id) []
/-- A packet leaves a die for an engine of this chip. -/
def State.post (s : State) (p : Packet) : State := s.postFrom none p
/-- The routed rows that members on other chips send to an armed record (R255): how many of those that it needs, from which chip, with what
data and to which of its elements is free (log 24). The core number of their sender is that of no core. -/
def State.farRows (die comm : Nat) (chips : List Nat) : Nat → State → State
  | 0, s => s
  | n + 1, s =>
    match if s.chooses then chips[Config.index s.fresh % chips.length]? else none with
    | none => s.bump
    | some chip =>
      let at_ := Config.index (s.fresh + 1) % (2 ^ 37 + 2 ^ 10)
      let (s, vs) := ({ s with fresh := s.fresh + 2 } : State).freeValues 32 32
      let p : Packet := .routed comm 0 false 2304 0 0 0 at_ (rowOfLanes 32 vs) 0 2 die (cEpoch (s.comm die comm).entry) 0
      State.farRows die comm chips n (s.postFrom (some chip) p)
/-- The other chips with a live member of an entry's communicator that a port reaches (R245, R385). -/
def State.farChips (s : State) (e : BitVec 128) : List Nat :=
  if cV e then (((s.liveSlots e).map fun m => m.2.1).filter fun c => c ≠ s.control.chip && !s.noPath c).eraseDups else []
/-- Issue a collective command: it captures its record and descriptor slots, guards its rows and joins its engine's list. -/
def State.submit (s : State) (op : Instr) (o : CollOp) : State :=
  let row := s.rowAt o.ar o.roff.toNat
  let st := s.rowAt o.as o.soff.toNat
  let w := (List.range 16).map (rowWord (s.snapRow row))
  let core := s.cur.core
  let slot := s.cur.slot
  let id := s.fresh
  let tds := s.tdSlot (fldN (w.getD 0 0) 49 4)
  let tdd := s.tdSlot (fldN (w.getD 0 0) 45 4)
  let c := { s.newCmd op o.ch.toNat 1 with td := tds, td2 := tdd, base := row, dest := [st] }
  let me := s.me
  let sub : Submission :=
    { cmd := id, core, slot, kind := op, record := w, tds, tdd, need := if isArm op then o.cnt.toNat + 1 else 0, count := 0,
      after := me.fenceCl.filter (s.inProgress core slot), owner := me.place.part * 16 + me.place.tree, who := me.who 3 core slot o.ch.toNat s.tick,
      bad := false }
  let s := ((s.guardRows [row] false id).guardRows [st] true id).launch c
  let die := coreDie core
  let l := s.cle die (kComm w)
  let s := s.setCle die (kComm w) { l with subs := l.subs ++ [sub] }
  State.farRows die (kComm w) (s.farChips (s.comm die (kComm w)).entry) sub.need s
/-- `cl.run` (R251, R252). -/
def execClRun (o : CollOp) (s : State) : Res := .next (s.submit (.clRun o) o)
/-- `cl.arm` (R251, R252, R255). -/
def execClArm (o : CollOp) (s : State) : Res := .next (s.submit (.clArm o) o)
/-- `mlr` (R251, R252, R260). -/
def execMlr (o : CollOp) (s : State) : Res := .next (s.submit (.mlr o) o)

/-! Members and packets. -/

abbrev Live := List (Nat × Nat × Nat)
def rankOf (chip die : Nat) (l : Live) : Option Nat := l.findIdx? fun m => m.2.1 = chip && m.2.2 = die
def Coll.chipOf (c : Coll) (r : Nat) : Nat := ((c.live[r]?).map fun m => m.2.1).getD 0
def Coll.dieOf (c : Coll) (r : Nat) : Nat := ((c.live[r]?).map fun m => m.2.2).getD 0
def State.near (s : State) (c : Coll) (r : Nat) : Bool := c.chipOf r = s.control.chip
/-- Ranks of this chip but the member's own, and ranks of other chips. -/
def State.mates (s : State) (c : Coll) : List Nat := (List.range c.p).filter fun r => r ≠ c.rank && s.near c r
def State.far (s : State) (c : Coll) : List Nat := (List.range c.p).filter fun r => !s.near c r
/-- Whether a rank lies on a chip that no port reaches (R370, R385). -/
def State.cutOff (s : State) (c : Coll) (r : Nat) : Bool := !s.near c r && s.noPath (c.chipOf r)
def State.setCur (s : State) (die comm : Nat) (c : Option Coll) : State := s.setCle die comm { s.cle die comm with cur := c }
def State.packet (s : State) (id : Nat) : Option Packet := (s.fabric.msgs.find? fun m => m.id = id).map Msg.pkt
def State.unpost (s : State) (id : Nat) : State :=
  { s with fabric := { s.fabric with msgs := s.fabric.msgs.filter fun m => m.id ≠ id } }
/-- A packet arrives: those of one communicator from one chip in the order in which they were sent (R262), so one waits for those before it. -/
def State.inTurn (s : State) (msg : Nat) (i : Instr) (f : State → Res) : Res :=
  match s.fabric.msgs.find? fun m => m.id = msg && m.from_.isSome with
  | none => f s
  | some m =>
    if (s.fabric.msgs.takeWhile fun x => x.id ≠ msg).any fun x => x.from_ = m.from_ && x.pkt.at_.2 = m.pkt.at_.2 then .next (s.later 1 i [])
    else f { s with fabric := { s.fabric with msgs := s.fabric.msgs.map fun x => if x.id = msg then { x with from_ := none } else x } }
/-- Whether a packet goes to a die's engine of a communicator. -/
def Packet.goesTo (p : Packet) (die comm : Nat) : Bool :=
  match p with
  | .join c d _ _ _ _ _ _ => c = comm && d = die
  | .decided c d _ _ _ _ => c = comm && d = die
  | .pair c d _ _ _ _ _ _ => c = comm && d = die
  | .chunk c d _ _ _ _ _ => c = comm && d = die
  | _ => false
/-- Packets that the engine has held are looked at again (R386). -/
def State.lookAgain (s : State) (die comm : Nat) : State :=
  (s.fabric.msgs.filter fun m => m.pkt.goesTo die comm).foldl (fun t m => t.later 0 (arrivalOf m.pkt m.id) []) s
/-- The answer to an arrival of an earlier epoch (R386), to a member of this chip that is still in a collective of that epoch. -/
def State.answerEarlier (s : State) (src comm epoch : Nat) : State :=
  if src = 0 then s
  else match (s.cle (src - 1) comm).cur with
    | some c => if c.epoch = epoch then s.sometime .earlierEpochAnswer [src - 1, comm, c.began] else s
    | none => s
/-- What a member sent to another chip may come back with the answer of an engine of a later epoch (R386; log 24). -/
def State.farAnswer (s : State) (die comm : Nat) (c : Coll) : State :=
  if s.chooses then s.bump.sometime .earlierEpochAnswer [die, comm, c.began] else s.bump
/-- EARLIER EPOCH ANSWER, at a die and communicator (R386): the member ends its collective with code 2. -/
def execEarlierEpochAnswer (s : State) : Res :=
  match (s.cle (s.subj 0) (s.subj 1)).cur with
  | some c => if c.began = s.subj 2 && c.code = 0 then .next (s.setCur (s.subj 0) (s.subj 1) (some { c with code := 2, todo := [] })) else .next s
  | none => .next s

/-! Aborts (R373). -/

/-- A member stops with code 5; every other member of this chip is told. -/
def State.abort (s : State) (die comm : Nat) (c : Coll) (chip : Nat) : State :=
  if c.code ≠ 0 then s
  else
    let s := s.setCur die comm (some { c with code := 5, todo := [], fault := chip })
    (s.mates c).foldl (fun t r => match (t.cle (c.dieOf r) comm).cur with
      | some m => if m.epoch = c.epoch && m.round = c.round then t.sometime (.collectiveAbort (c.dieOf r) comm) [m.began] else t
      | none => t) s
/-- The other members of this chip cannot complete before the abort of a member whose routed rows were refused reaches them (R255). -/
def State.spoil (s : State) (comm : Nat) (c : Coll) : State :=
  (s.mates c).foldl (fun t r => match (t.cle (c.dieOf r) comm).cur with
    | some m => if m.epoch = c.epoch && m.round = c.round then t.setCur (c.dieOf r) comm (some { m with sub := { m.sub with bad := true } }) else t
    | none => t) s
/-- COLLECTIVE ABORT (R373): a member that receives one stops with code 5. -/
def execCollectiveAbort (die comm : Nat) (s : State) : Res :=
  match (s.cle die comm).cur with
  | some c => if c.began = s.subj 0 then .next (s.abort die comm c 0) else .next s
  | none => .next s

/-! Chains and copies (R249, R250). -/

/-- The chain of chunk c: ranks owner(c) + 1 to owner(c), without those of X. -/
def chainOf (p c : Nat) (x : List Nat) : List Nat := ((List.range p).map fun k => (c + 1 + k) % p).filter fun r => !x.contains r
/-- The rank that a transfer to a peer goes to: the first one from it, in rotation, that is not in X (R250). -/
def redirect (p peer : Nat) (x : List Nat) : Nat := (((List.range p).map fun k => (peer + k) % p).find? fun r => !x.contains r).getD peer
def Coll.xs (c : Coll) : List Nat := c.x.getD []
def Coll.chain (c : Coll) (ch : Nat) : List Nat := chainOf c.p ch c.xs
def Coll.holds (c : Coll) (ch : Nat) : Bool := (c.chain ch).getLast? = some c.rank
def Coll.pos (c : Coll) (ch : Nat) : Nat := ((c.chain ch).findIdx? (· = c.rank)).getD 0
/-- Whether the next transfer can be performed now. -/
def Coll.canGo (c : Coll) : Bool :=
  c.x.isSome && c.code = 0 &&
  match c.todo with
  | [] => false
  | t :: _ =>
    match kKind c.sub.record with
    | 0 => c.pos t.chunk = 0 || c.pairs.any fun p => p.1 = t.chunk && p.2.1 = c.pos t.chunk
    | 1 => c.holds t.chunk || c.arrived.contains t.chunk
    | _ => true
/-- Chunks that the other members' copies of the record send to this member, with the sender (R248, R250). -/
def Coll.awaits (c : Coll) : List (Nat × Nat) :=
  ((List.range c.p).filter fun r => r ≠ c.rank && !c.xs.contains r).flatMap fun r =>
    ((walkRecord c.sub.record c.p r).filter fun t => redirect c.p t.peer c.xs = c.rank).map fun t => (t.chunk, r)
/-- The rank that a member waits for: the chain's rank before it, or the sender of a copied chunk (R361). -/
def Coll.awaited (c : Coll) : Option Nat :=
  let sender (chunk : Nat) : Option Nat := (c.awaits.find? fun e => e.1 = chunk).map Prod.snd
  match c.todo with
  | t :: _ => if kKind c.sub.record = 0 then (c.chain t.chunk)[c.pos t.chunk - 1]? else sender t.chunk
  | [] => if kKind c.sub.record = 1 then (c.expect.find? fun n => !c.arrived.contains n).bind sender else none
/-- Whether the next transfer sends a run of flits on the communicator's channel: a chain's last position and a copy to itself send none. -/
def Coll.sends (c : Coll) : Bool :=
  match c.todo with
  | [] => false
  | t :: _ =>
    match kKind c.sub.record with
    | 0 => ((c.chain t.chunk)[c.pos t.chunk + 1]?).isSome
    | 1 => redirect c.p t.peer c.xs ≠ c.rank
    | _ => false
/-- Whether everything a member performs and receives is done (R253). -/
def Coll.done (c : Coll) : Bool := c.x.isSome && c.todo.isEmpty && c.expect.all fun n => c.arrived.contains n
/-- Start the time-out of a wait, or stop it (R373). -/
def State.waits (s : State) (die comm : Nat) (c : Coll) : State :=
  if c.canGo || c.done || c.code ≠ 0 then s.setCur die comm (some { c with waitSince := none })
  else if c.waitSince.isSome then s.setCur die comm (some c)
  else (s.setCur die comm (some { c with waitSince := some s.now })).later (s.comm die comm).tc (.transferTimeout die comm) [c.began, s.now]
/-- TRANSFER TIMEOUT (R373): a pair or chunk has not come within Tc cycles. -/
def execTransferTimeout (die comm : Nat) (s : State) : Res :=
  match (s.cle die comm).cur with
  | some c =>
    if c.began = s.subj 0 && c.waitSince = some (s.subj 1) then
      .next (s.abort die comm c (match c.awaited with
        | some r => if s.near c r then 0 else c.chipOf r
        | none => 0))
    else .next s
  | none => .next s
/-- The chunks that a rank sends to this member, in the order of that rank's own transfers (R248-R250). -/
def Coll.sentBy (c : Coll) (r : Nat) : List Nat :=
  ((walkRecord c.sub.record c.p r).filter fun t => match kKind c.sub.record with
    | 0 => c.pos t.chunk ≠ 0 && (c.chain t.chunk)[c.pos t.chunk - 1]? = some r
    | 1 => redirect c.p t.peer c.xs = c.rank
    | _ => false).map Transfer.chunk
/-- Lists merged in a free order that keeps the order of each. -/
def mixed {α : Type} : Nat → Nat → List (List α) → List α
  | 0, _, _ => []
  | n + 1, seed, ls =>
    let ls := ls.filter fun l => !l.isEmpty
    let i := Config.index seed % ls.length
    match ls[i]? with
    | some (x :: r) => x :: mixed n (seed + 1) (ls.set i r)
    | _ => []
/-- What members of other chips may send this member once X is known: pairs of its chains and copied chunks, each rank's in the order of its
transfers, with free data, each of them or not; and perhaps an abort (R262, R373; log 24). -/
def State.farPackets (s : State) (die comm : Nat) (c : Coll) : State :=
  let w := c.sub.record
  let from_ := (s.far c).filter fun r => !c.xs.contains r && !s.noPath (c.chipOf r)
  let lists := from_.map fun r => (c.sentBy r).map fun n => (r, n)
  let total := lists.flatten.length
  let s := (mixed total s.fresh lists).foldl (fun t x =>
    let (t, vs) := t.freeValues (if kKind w = 0 then 64 else (c.sub.tdd.map fun d => (dFmt d).width).getD 32) (kE w)
    let p : Packet := if kKind w = 0 then .pair comm die c.epoch c.round 0 x.2 (c.pos x.2) (vs.map (BitVec.ofNat 64))
      else .chunk comm die c.epoch c.round 0 x.2 vs
    if t.chooses then t.bump.postFrom (some (c.chipOf x.1)) p else t.bump) { s with fresh := s.fresh + total }
  if !from_.isEmpty && s.chooses then s.bump.sometime (.collectiveAbort die comm) [c.began] else s.bump
/-- A member learns X (R250, R372, R374, R375, R385, R387). One that joined too late ends with code 2, poisoned or not. -/
def State.decide (s : State) (die comm : Nat) (x : List Nat) (late : Bool) : State :=
  let l := s.cle die comm
  match l.cur with
  | none => s
  | some c =>
    if c.x.isSome || c.code ≠ 0 then s
    else
      let s := s.setCle die comm { l with closed := (c.round, x) :: l.closed }
      let c := { c with x := some x }
      let w := c.sub.record
      let code := if late then 2 else if x.isEmpty then 0 else if x.contains c.rank && !c.poison.contains c.rank then 2 else if kKind w = 2 then 4 else if !kX w || (List.range c.p).all x.contains then 3
        else if x.contains c.rank then 2 else 0
      if code ≠ 0 then s.setCur die comm (some { c with code })
      else if c.sub.bad then (s.spoil comm c).abort die comm c 0
      else
        let c := { c with todo := walkRecord w c.p c.rank }
        let c := { c with expect := match kKind w with
          | 1 => (c.awaits.map Prod.fst).eraseDups
          | 2 => (c.todo.map Transfer.chunk).eraseDups
          | _ => [] }
        ((s.farPackets die comm c).waits die comm c).lookAgain die comm

/-! The join round (R372, R385). -/

/-- Whether a rank counts as absent at cycle `now` (R385). -/
def State.absent (s : State) (die comm : Nat) (c : Coll) (r : Nat) : Bool :=
  s.cutOff c r || (c.rooted + 3 * (s.comm die comm).tj ≤ s.now && c.queries.any fun q => q.1 = r && 2 ≤ q.2.1 && !q.2.2)
def Coll.lacking (c : Coll) : List Nat := (List.range c.p).filter fun r => !c.joined.contains r
/-- The round closes when every rank lacking is absent: X goes to every member (R372, R385). -/
def State.tryClose (s : State) (die comm : Nat) (c : Coll) : State :=
  if (c.rank = 0 || c.acting) && c.x.isNone && c.code = 0 && c.lacking.all (s.absent die comm c) then
    let x := (List.range c.p).filter fun r => c.lacking.contains r || c.poison.contains r
    let s := (s.mates c).foldl (fun t r => t.post (.decided comm (c.dieOf r) c.epoch c.round x (c.lacking.contains r))) s
    s.decide die comm x false
  else s
/-- Joins of ranks of other chips that reach this member, each of them or not, poisoned or not (log 24). -/
def State.farJoins (s : State) (die comm : Nat) (c : Coll) (l : List Nat) : State :=
  l.foldl (fun t r =>
    if t.noPath (c.chipOf r) || !t.chooses then t.bump
    else
      let t := t.bump
      t.postFrom (some (c.chipOf r)) (.join comm die c.epoch c.round 0 r [r] (if t.chooses then [r] else []))) s
/-- The nearest rank of this chip on the way up the tree from a rank (R372). -/
def State.above (s : State) (c : Coll) : Nat → Nat → Option Nat
  | 0, _ => none
  | n + 1, r => if r = 0 then none else if s.near c ((r - 1) / 2) then some ((r - 1) / 2) else State.above s c n ((r - 1) / 2)
/-- The member whose engine decides X starts its queries (R385). -/
def State.startRoot (s : State) (die comm : Nat) (c : Coll) : State := s.later (s.comm die comm).tj (.presenceTimeout die comm) [c.began, 1]
/-- When the deciding rank lies on another chip and every member of this chip has joined, X is free, the same for all (R372; log 24). -/
def State.farDecides (s : State) (comm : Nat) (c : Coll) : State :=
  let all := c.rank :: s.mates c
  let has (r : Nat) : Bool := match (s.cle (c.dieOf r) comm).cur with
    | some m => m.epoch = c.epoch && m.round = c.round && m.sentJoin && !m.acting && m.x.isNone
    | none => false
  if s.near c 0 || !all.all has then s
  else
    let x := (List.range c.p).filter fun r => Config.choice (s.fresh + r)
    let s := { s with fresh := s.fresh + c.p }
    all.foldl (fun t r => t.bump.post (.decided comm (c.dieOf r) c.epoch c.round x (x.contains r && t.chooses))) s
/-- Send joins to a rank of the tree: to its engine when it is of this chip; a rank of another chip passes them on, or does not
acknowledge them within Tj cycles (R372). -/
def State.joinTo (die comm : Nat) (c : Coll) (ranks poison : List Nat) : Nat → Nat → State → State
  | 0, _, s => s
  | n + 1, target, s =>
    if s.near c target then s.post (.join comm (c.dieOf target) c.epoch c.round (die + 1) c.rank ranks poison)
    else if !s.cutOff c target && s.chooses then
      let s := s.bump.farAnswer die comm c
      if target = 0 then s else State.joinTo die comm c ranks poison n ((target - 1) / 2) s
    else s.bump.later (s.comm die comm).tj (.joinTimeout die comm) [c.began, target]
/-- A member that holds the joins of its children sends its own up the tree (R372); it does not wait for one that no port reaches (log 24). -/
def State.tryJoin (s : State) (die comm : Nat) (c : Coll) : State :=
  let kids := [2 * c.rank + 1, 2 * c.rank + 2].filter fun r => r < c.p && !s.cutOff c r
  if c.rank = 0 || c.acting then s.tryClose die comm c
  else if c.sentJoin || !kids.all c.joined.contains then s
  else
    let s := s.setCur die comm (some { c with sentJoin := true })
    (State.joinTo die comm c c.joined c.poison c.p ((c.rank - 1) / 2) s).farDecides comm { c with sentJoin := true }
/-- JOIN TIMEOUT (R372): the join goes to the next ancestor; beyond rank 0, which is silent, the member decides in its place. -/
def execJoinTimeout (die comm : Nat) (s : State) : Res :=
  match (s.cle die comm).cur with
  | some c =>
    if c.began = s.subj 0 && c.x.isNone && c.code = 0 then
      let t := s.subj 1
      let low := (s.mates c).foldl min c.rank
      let told := s.fabric.msgs.any fun m => match m.pkt with
        | .decided k d e n _ _ => k = comm && d = die && e = c.epoch && n = c.round
        | _ => false
      if told then .next s
      else if t = 0 then
        if low < c.rank then .next (s.post (.join comm (c.dieOf low) c.epoch c.round (die + 1) c.rank c.joined c.poison))
        else
          let c := { c with acting := true, rooted := s.now }
          let lacks := (s.far c).filter fun r => !c.joined.contains r
          .next ((((s.setCur die comm (some c)).startRoot die comm c).farJoins die comm c lacks).tryClose die comm c)
      else .next (State.joinTo die comm c c.joined c.poison c.p ((t - 1) / 2) s)
    else .next s
  | none => .next s
/-- The answer to a join that comes after X is decided: X, which holds the ranks that joined too late (R385). -/
def State.answerLate (s : State) (comm epoch round src rank : Nat) (x : List Nat) : State :=
  if src = 0 then s else s.post (.decided comm (src - 1) epoch round x (x.contains rank))
/-- The X of a round that has closed. -/
def Cle.closedX (l : Cle) (round : Nat) (ranks : List Nat) : List Nat := ((l.closed.find? fun e => e.1 = round).map Prod.snd).getD ranks
/-- Joins are gathered or passed on, X is learnt, a late join is answered with X. -/
def State.takeJoin (msg : Nat) (s : State) : Res :=
  match s.packet msg with
  | some (.join comm die epoch round src rank ranks poison) =>
    let l := s.cle die comm
    let own := cEpoch (s.comm die comm).entry
    if epoch < own then .next ((s.unpost msg).answerEarlier src comm epoch)
    else match l.cur with
      | some c =>
        if c.epoch ≠ epoch || c.round < round then .next s
        else if round < c.round then .next ((s.unpost msg).answerLate comm epoch round src rank (l.closedX round ranks))
        else
          let s := s.unpost msg
          match c.x with
          | some x => .next (s.answerLate comm epoch round src rank x)
          | none =>
            let c := { c with joined := (c.joined ++ ranks).eraseDups, poison := (c.poison ++ poison).eraseDups }
            let s := s.setCur die comm (some c)
            if c.rank ≠ 0 && !c.acting && c.sentJoin then .next (State.joinTo die comm c ranks poison c.p ((c.rank - 1) / 2) s)
            else .next (s.tryJoin die comm c)
      | none =>
        if epoch = own && round < l.round then .next ((s.unpost msg).answerLate comm epoch round src rank (l.closedX round ranks)) else .next s
  | some (.decided comm die epoch round x late) =>
    match (s.cle die comm).cur with
    | some c => if c.epoch = epoch && c.round = round then .next ((s.unpost msg).decide die comm x late) else .next (s.unpost msg)
    | none => .next (s.unpost msg)
  | _ => .next s
/-- JOIN ARRIVAL (R262, R372, R385-R387). -/
def execJoinArrival (msg : Nat) (s : State) : Res := s.inTurn msg (.joinArrival msg) (State.takeJoin msg)
/-- The answer to a query is taken until three times Tj after rank 0's join: a rank that is absent stays so. -/
def State.takeAnswer (msg : Nat) (s : State) : Res :=
  match s.packet msg with
  | some (.query comm _ _ src rank) =>
    let s := s.unpost msg
    match (s.cle (src - 1) comm).cur with
    | some c =>
      let mark (q : Nat × Nat × Bool) : Nat × Nat × Bool := if q.1 = rank then (q.1, q.2.1, true) else q
      .next (if s.now < c.rooted + 3 * (s.comm (src - 1) comm).tj then s.setCur (src - 1) comm (some { c with queries := c.queries.map mark }) else s)
    | none => .next s
  | _ => .next s
/-- PRESENCE QUERY (R385, R386): hardware answers it at any epoch. -/
def execPresenceQuery (msg : Nat) (s : State) : Res := s.inTurn msg (.presenceQuery msg) (State.takeAnswer msg)
/-- One more query to a rank. -/
def askAgain (l : List (Nat × Nat × Bool)) (r : Nat) : List (Nat × Nat × Bool) :=
  match l.find? fun q => q.1 = r with
  | some (_, n, a) => (r, n + 1, a) :: l.filter fun q => q.1 ≠ r
  | none => (r, 1, false) :: l
/-- PRESENCE TIMEOUT (R385): at Tj and 2 Tj the engine asks each rank it lacks; at 3 Tj those that have not answered are absent. -/
def execPresenceTimeout (die comm : Nat) (s : State) : Res :=
  match (s.cle die comm).cur with
  | some c =>
    if c.began = s.subj 0 && c.x.isNone && c.code = 0 then
      let k := s.subj 1
      if k < 3 then
        let c := { c with queries := c.lacking.foldl askAgain c.queries }
        let s := (s.setCur die comm (some c)).later (s.comm die comm).tj (.presenceTimeout die comm) [c.began, k + 1]
        .next (c.lacking.foldl (fun t r =>
          let q : Packet := .query comm (c.dieOf r) c.epoch (die + 1) r
          if t.near c r then t.post q
          else if !t.cutOff c r && t.chooses then t.bump.postFrom (some (c.chipOf r)) q else t.bump) s)
      else .next (s.tryClose die comm c)
    else .next s
  | none => .next s

/-! Start (R246, R252, R263, R375). -/

/-- Whether the engine refuses a submission with code 6 (R260, R266, R375). -/
def State.subRefused (s : State) (die comm : Nat) (b : Submission) : Bool :=
  let e := (s.comm die comm).entry
  !cV e || cOwner e ≠ b.owner || recordBreaks b.record b.kind || recordDescs b.tds b.tdd || (isMlr b.kind && !cSgv e) ||
    (rankOf s.control.chip die (s.liveSlots e)).isNone
/-- The submission whose turn it is. -/
def State.turnOf (s : State) (die comm : Nat) : Option Submission :=
  let l := s.cle die comm
  match l.subs with
  | b :: _ => if l.cur.isNone && l.change.isEmpty && !b.after.any (s.inProgress b.core b.slot) then some b else none
  | [] => none
/-- Whether COLLECTIVE START has a submission to start: an armed one when its rows have come (R255). -/
def State.collDue (s : State) (die comm : Nat) : Bool :=
  match s.turnOf die comm with
  | some b => b.need ≤ b.count || s.subRefused die comm b
  | none => false
/-- An engine's access to a partition frame that stage two does not map is parked (R65, R340, R384), unless firmware has refused it. -/
def State.parksFrame (s : State) (w : Who) (handle lu tile sub frame : Nat) : State :=
  if s.denies handle tile 0x12 then s
  else s.stalls (.park ⟨0x12, sub, w, handle, lu, tile, BitVec.ofNat 64 frame, BitVec.ofNat 64 (fldN (s.s2entry w.part frame) 0 32), 0, frame⟩)
/-- Whether one of the tiles is poisoned, as the layout units read their entries (R372, R384). Of a tile whose entry another chip holds it is
free (log 24). -/
def State.tilesPoisoned (w : Who) (d : Desc) : List Nat → State → State × Bool
  | [], s => (s, false)
  | t :: r, s =>
    let free := s.chooses
    match s.entryPlace w.part d t with
    | none => let (u, b) := State.tilesPoisoned w d r s.bump; (u, free || b)
    | some (part, a) =>
      match s.readPart part a with
      | none => State.tilesPoisoned w d r (s.parksFrame { w with part } (dHandle d) (luOf s.control.chip d t) t 1 (a / 65536))
      | some e => let (u, b) := State.tilesPoisoned w d r s.bump; (u, (if eRem e then free else ePoison e) || b)
/-- Whether a tile of the source range is poisoned (R372). -/
def State.sourcePoisoned (s : State) (b : Submission) (p : Nat) : State × Bool :=
  match b.tds with
  | none => (s, false)
  | some d =>
    let n := kC b.record p * kE b.record
    let lo := kSbase b.record / dElems d
    let tiles := (List.range ((kSbase b.record + n - 1) / dElems d + 1 - lo)).map (lo + ·)
    State.tilesPoisoned b.who d (tiles.filter fun t => (beyond d t 0).isNone) s
/-- An engine that reads the membership table of an entry reads it through stage two: a frame that is not mapped is parked first (R65, R245,
R384; log 12). -/
def State.withTable (s : State) (w : Who) (die : Nat) (e : BitVec 128) (f : State → Res) : Res :=
  let n := (cMtab e + 4 * max 1 (cSlots e) - 1) / 65536 + 1 - cMtab e / 65536
  let frames := (List.range n).map fun i => cMtab e / 65536 + i
  match if cV e then frames.find? fun p => (s.s2 (cPart e) p).isNone else none with
  | none => f s
  | some p =>
    let t := s.parksFrame { w with part := cPart e } 0 (4 * die) 0 0 p
    if t.stalled then .next t else f s
/-- Start the submission whose turn it is (R246, R252, R372): epoch, P and rank are taken, the member joins. -/
def State.startSub (die comm : Nat) (s : State) : Res :=
  match if s.collDue die comm then s.turnOf die comm else none with
  | none => .next s
  | some b =>
    let l := s.cle die comm
    let e := (s.comm die comm).entry
    let live := s.liveSlots e
    let refused := s.subRefused die comm b
    let rank := (rankOf s.control.chip die live).getD 0
    let (s, poisoned) := if refused then (s, false) else s.sourcePoisoned b (cP e)
    let c : Coll :=
      { sub := b, epoch := cEpoch e, round := l.round, p := cP e, rank, live, began := s.now, joined := [rank],
        poison := if poisoned then [rank] else [], sentJoin := false, acting := false, rooted := s.now, queries := [],
        x := none, todo := [], pairs := [], arrived := [], expect := [], written := [], switched := [], waitSince := none,
        code := if refused then 6 else 0, fault := 0 }
    let s := s.setCle die comm { l with subs := l.subs.drop 1, cur := some c, round := if refused then l.round else l.round + 1 }
    if refused then .next s
    else
      let s := if rank = 0 then s.startRoot die comm c else s
      let s := s.farJoins die comm c ((s.far c).filter fun r => s.above c c.p r = some rank)
      .next ((s.tryJoin die comm c).lookAgain die comm)
/-- COLLECTIVE START (R246, R252, R372, R384). -/
def execCollectiveStart (die comm : Nat) (s : State) : Res :=
  s.performs (.collectiveStart die comm) fun t =>
    match t.turnOf die comm with
    | none => .next t
    | some b => t.withTable b.who die (t.comm die comm).entry (State.startSub die comm)

/-! Transfers (R249, R257, R260). -/

/-- Bytes of elements of width w. -/
def elemBytes (w : Nat) (vs : List Nat) : List Byte := vs.flatMap fun v => bytesLE (w / 8) v
/-- Write a chunk at the destination: the state, and whether its units took it. -/
def State.putChunk (s : State) (c : Coll) (chunk : Nat) (vals : List Nat) : State × Option Coll :=
  match c.sub.tdd with
  | none => (s, none)
  | some d =>
    let (s, ok) := s.writeRun c.sub.who d (kDbase c.sub.record + chunk * kE c.sub.record) vals
    let bytes := elemBytes (dFmt d).width vals
    (s, if ok then some { c with written := (chunk, bytes) :: c.written.filter fun e => e.1 ≠ chunk } else none)
/-- Elements of a member's source chunk, widened to f32 codes (R249). -/
def State.ownChunk (s : State) (c : Coll) (chunk : Nat) : State × Option (List Nat) :=
  match c.sub.tds with
  | none => (s, none)
  | some d =>
    match s.readRun c.sub.who d (kSbase c.sub.record + chunk * kE c.sub.record) (kE c.sub.record) with
    | (s, some l) => (s, some (l.map (toF32 (dFmt d))))
    | (s, none) => (s, none)
def packPair (h l : Nat) : Word64 := pack [(32, h), (0, l)]
/-- The next pair of a chain: the own contribution first, or added by R99's rule. -/
def chainStep (first : Bool) (own : List Nat) (pair : List Word64) : List Word64 :=
  if first then own.map fun x => packPair x 0
  else (own.zip pair).map fun (x, w) => let (h, l, _) := accStep (fldN w 32 32) (fldN w 0 32) x; packPair h l
/-- Round a pair to the destination format (R100). -/
def pairOut (f : Fmt) (ws : List Word64) : List Nat := ws.map fun w => readPair f (fldN w 32 32) (fldN w 0 32)
/-- Round an f32 element to the destination format: the result of a chain of one member (R266). -/
def fromF32 (f : Fmt) (x : Nat) : Nat := (roundTo f false (decodeNum .f32 x)).1
def Coll.outFmt (c : Coll) : Fmt := (c.sub.tdd.map dFmt).getD .f32
/-- The result of a chain (R249, R250, R266): the pair rounded once, or the one member's contribution. -/
def Coll.result (c : Coll) (ws : List Word64) : List Nat :=
  if c.p = 1 then ws.map fun w => fromF32 c.outFmt (fldN w 32 32) else pairOut c.outFmt ws
/-- A member's packet to a rank (R249): to a die of this chip; to another chip; or a link has lost that chip, and the collective aborts (R373). -/
def State.sendTo (s : State) (die comm : Nat) (c : Coll) (r : Nat) (p : Packet) : State :=
  if s.near c r then (s.post p).waits die comm c
  else if s.cutOff c r then s.abort die comm c (c.chipOf r)
  else (s.farAnswer die comm c).waits die comm c
/-- One chain transfer (R249). -/
def State.chainGo (s : State) (die comm : Nat) (c : Coll) (t : Transfer) : State :=
  let pos := c.pos t.chunk
  match s.ownChunk c t.chunk with
  | (s, none) => s.abort die comm c 0
  | (s, some own) =>
    let have_ := (c.pairs.find? fun p => p.1 = t.chunk && p.2.1 = pos).getD (0, 0, [])
    let ws := chainStep (pos = 0) own have_.2.2
    let c := { c with todo := c.todo.drop 1, pairs := if pos = 0 then c.pairs else c.pairs.erase have_, waitSince := none }
    match (c.chain t.chunk)[pos + 1]? with
    | none =>
      match s.putChunk c t.chunk (c.result ws) with
      | (s, some c) => s.waits die comm c
      | (s, none) => s.abort die comm c 0
    | some r => s.sendTo die comm c r (.pair comm (c.dieOf r) c.epoch c.round (die + 1) t.chunk (pos + 1) ws)
/-- One copy transfer (R249, R250): to itself it is dropped. -/
def State.copyGo (s : State) (die comm : Nat) (c : Coll) (t : Transfer) : State :=
  match c.sub.tdd with
  | none => s
  | some d =>
    match s.readRun c.sub.who d (kDbase c.sub.record + t.chunk * kE c.sub.record) (kE c.sub.record) with
    | (s, none) => s.abort die comm c 0
    | (s, some vs) =>
      let r := redirect c.p t.peer c.xs
      let c := { c with todo := c.todo.drop 1, waitSince := none }
      if r = c.rank then s.waits die comm c else s.sendTo die comm c r (.chunk comm (c.dieOf r) c.epoch c.round (die + 1) t.chunk vs)
/-- Whether every member of this chip has joined a chunk at the switch, under the switch entry's epoch (R260, R386). -/
def State.switchFull (s : State) (group chunk comm : Nat) (c : Coll) : Bool :=
  let g := Sp.get SwitchGroup.reset s.fabric.switch group
  g.epoch = c.epoch && !g.members.isEmpty && (c.rank :: s.mates c).all fun r => g.joins.contains (chunk, c.dieOf r, comm)
/-- A reduction follows once every member has joined; members of other chips join, or do not (log 24). -/
def State.switchTry (s : State) (group chunk comm : Nat) (c : Coll) : State :=
  if s.switchFull group chunk comm c then
    if (s.far c).isEmpty || s.chooses then s.bump.sometime (.switchReduce group chunk) [comm] else s.bump
  else s
/-- One join of a switch reduce (R260). -/
def State.joinGo (s : State) (die comm : Nat) (c : Coll) (t : Transfer) : State :=
  let group := cSg (s.comm die comm).entry
  let g := Sp.get SwitchGroup.reset s.fabric.switch group
  let c := { c with todo := c.todo.drop 1, switched := t.chunk :: c.switched, waitSince := none }
  let joins := if g.joins.contains (t.chunk, die, comm) then g.joins else (t.chunk, die, comm) :: g.joins
  let s : State := { s with fabric := { s.fabric with switch := Sp.put SwitchGroup.reset s.fabric.switch group { g with joins } } }
  (s.waits die comm c).switchTry group t.chunk comm c
/-- Whether the arbiter of a die gives a communicator its channel now, among those with a run of flits ready on it: priority first, then
number order after the one served last (R257). -/
def State.arbiter (s : State) (die comm : Nat) : Bool :=
  let e := (s.comm die comm).entry
  let goes (n : Nat) : Bool := match (s.cle die n).cur with
    | some c => c.canGo && c.sends && !s.eventWaits (.chunkSendStart die n) []
    | none => false
  let last := Sp.get 63 s.fabric.served (die * 16 + cVc e)
  let turn (n : Nat) : Nat := (n + 63 - last) % 64
  !(List.range 64).any fun n => n ≠ comm && goes n &&
    let f := (s.comm die n).entry
    cVc f = cVc e && ((cPri f && !cPri e) || (cPri f == cPri e && turn n < turn comm))
/-- Whether CHUNK SEND START has a transfer to perform. -/
def State.sendDue (s : State) (die comm : Nat) : Bool :=
  match (s.cle die comm).cur with
  | some c => c.canGo && (!c.sends || s.arbiter die comm)
  | none => false
/-- The next transfer of a member, at its turn on the channel. -/
def State.sendChunk (die comm : Nat) (s : State) : Res :=
  if s.sendDue die comm then
    match (s.cle die comm).cur with
    | some c =>
      match c.todo with
      | [] => .next s
      | t :: _ =>
        let s : State := if c.sends then { s with fabric := { s.fabric with
          served := Sp.put 63 s.fabric.served (die * 16 + cVc (s.comm die comm).entry) comm } } else s
        match kKind c.sub.record with
        | 0 => .next (s.chainGo die comm c t)
        | 1 => .next (s.copyGo die comm c t)
        | _ => .next (s.joinGo die comm c t)
    | none => .next s
  else .next s
/-- CHUNK SEND START (R248-R250, R256-R258, R260). -/
def execChunkSendStart (die comm : Nat) (s : State) : Res := s.performs (.chunkSendStart die comm) (State.sendChunk die comm)
/-- What an engine does with a pair or chunk by its epoch (R386): none holds it, as one of a collective that the member has still to start. One of a
collective that has ended here is dropped. -/
def State.meets (s : State) (die comm epoch round src msg : Nat) : State ⊕ Option Coll :=
  if epoch < cEpoch (s.comm die comm).entry then .inl ((s.unpost msg).answerEarlier src comm epoch)
  else match (s.cle die comm).cur with
    | some c => if c.epoch = epoch && c.round = round then .inr (some c) else if c.epoch = epoch && round < c.round then .inl (s.unpost msg) else .inr none
    | none => if epoch = cEpoch (s.comm die comm).entry && round < (s.cle die comm).round then .inl (s.unpost msg) else .inr none
/-- A pair that has arrived is kept for its transfer. -/
def State.takePair (msg : Nat) (s : State) : Res :=
  match s.packet msg with
  | some (.pair comm die epoch round src chunk j data) =>
    match s.meets die comm epoch round src msg with
    | .inl t => .next t
    | .inr none => .next s
    | .inr (some c) =>
      if c.code ≠ 0 then .next (s.unpost msg)
      else
        let c := { c with pairs := c.pairs ++ [(chunk, j, data)] }
        .next (if c.x.isSome then (s.unpost msg).waits die comm c else (s.unpost msg).setCur die comm (some c))
  | _ => .next s
/-- CHAIN PAIR ARRIVAL (R249, R262, R386). -/
def execChainPairArrival (msg : Nat) (s : State) : Res := s.inTurn msg (.chainPairArrival msg) (State.takePair msg)
/-- A chunk that has arrived is written unless it has already arrived in this collective. -/
def State.takeChunk (msg : Nat) (s : State) : Res :=
  match s.packet msg with
  | some (.chunk comm die epoch round src chunk data) =>
    match s.meets die comm epoch round src msg with
    | .inl t => .next t
    | .inr none => .next s
    | .inr (some c) =>
      let s := s.unpost msg
      if c.code ≠ 0 || c.arrived.contains chunk then .next s
      else match s.putChunk c chunk data with
        | (s, none) => .next (s.abort die comm c 0)
        | (s, some c) =>
          let c := { c with arrived := chunk :: c.arrived }
          .next (if c.x.isSome then s.waits die comm c else s.setCur die comm (some c))
  | _ => .next s

/-- COPY CHUNK ARRIVAL (R249, R262, R386). -/
def execCopyChunkArrival (msg : Nat) (s : State) : Res :=
  s.inTurn msg (.copyChunkArrival msg) fun t => t.performs (.copyChunkArrival msg) (State.takeChunk msg)
/-- The ranks with which a member has still to exchange something: its chains' neighbours, whom it copies to and from, all at the switch. -/
def Coll.needs (c : Coll) : List Nat :=
  match kKind c.sub.record with
  | 0 => c.todo.flatMap fun t => ((c.chain t.chunk)[c.pos t.chunk + 1]?).toList ++
      if c.pos t.chunk = 0 then [] else ((c.chain t.chunk)[c.pos t.chunk - 1]?).toList
  | 1 => (c.todo.map fun t => redirect c.p t.peer c.xs) ++ (c.awaits.filter fun e => !c.arrived.contains e.1).map Prod.snd
  | _ => if c.done then [] else List.range c.p
/-- A link has lost its peer: a join round goes on without the ranks of chips that no port reaches any more (R385), and a collective that has
still to exchange something with one of them aborts (R373). -/
def State.losePeers (s : State) : State :=
  s.fabric.cles.foldl (fun t e =>
    match e.2.cur with
    | none => t
    | some _ => match (t.cle (e.1 / 64) (e.1 % 64)).cur with
      | none => t
      | some c =>
        if c.code ≠ 0 then t
        else if c.x.isNone then t.tryJoin (e.1 / 64) (e.1 % 64) c
        else match c.needs.find? (t.cutOff c) with
          | some r => t.abort (e.1 / 64) (e.1 % 64) c (c.chipOf r)
          | none => t) s

/-! The switch (R259, R260, R386). -/

/-- SWITCH GROUP LOAD (R259, R386): an entry is replaced only by a load of a later epoch; joins held for it may then be complete. -/
def execSwitchGroupLoad (group epoch : Nat) (members : List Nat) (s : State) : Res :=
  let g := Sp.get SwitchGroup.reset s.fabric.switch group
  if g.members.isEmpty || g.epoch < epoch then
    let s : State := { s with fabric := { s.fabric with
      switch := Sp.put SwitchGroup.reset s.fabric.switch group { g with epoch, members } } }
    .next (g.joins.foldl (fun t j => match (t.cle j.2.1 j.2.2).cur with
      | some c => if c.rank = ((c.rank :: t.mates c).foldl min c.rank) then t.switchTry group j.1 j.2.2 c else t
      | none => t) s)
  else .next s
/-- The members' sums of a chunk, in chain order (R249, R260): none when a unit refuses a member's read, with that member's die. -/
def State.switchSum (comm chunk : Nat) (c : Coll) : List Nat → List Word64 → State → State × (List Word64 ⊕ Nat)
  | [], ws, s => (s, .inl ws)
  | r :: rest, ws, s =>
    let first := ws.isEmpty
    if s.near c r then
      match (s.cle (c.dieOf r) comm).cur with
      | none => (s, .inr (c.dieOf r))
      | some m =>
        match s.ownChunk m chunk with
        | (s, some own) => State.switchSum comm chunk c rest (chainStep first own ws) s
        | (s, none) => (s, .inr (c.dieOf r))
    else
      let f := (c.sub.tds.map dFmt).getD .f32
      let (s, vs) := s.freeValues f.width (kE c.sub.record)
      State.switchSum comm chunk c rest (chainStep first (vs.map (toF32 f)) ws) s
/-- The result goes to every member of this chip, the bits that an endpoint chain gives (R260). -/
def State.multicast (comm chunk : Nat) (ws : List Word64) : List Nat → State → State
  | [], s => s
  | die :: rest, s =>
    let s := match (s.cle die comm).cur with
      | none => s
      | some m =>
        if m.code ≠ 0 then s
        else match s.putChunk m chunk (m.result ws) with
          | (s, none) => s.abort die comm m 0
          | (s, some m) => s.waits die comm { m with arrived := if m.arrived.contains chunk then m.arrived else chunk :: m.arrived }
    State.multicast comm chunk ws rest s
/-- The reduction of a chunk for the communicator that the state names. -/
def State.reduceChunk (group chunk : Nat) (s : State) : Res :=
  let comm := s.subj 0
  let g := Sp.get SwitchGroup.reset s.fabric.switch group
  match g.joins.find? fun j => j.1 = chunk && j.2.2 = comm with
  | none => .next s
  | some j =>
    match (s.cle j.2.1 comm).cur with
    | none => .next s
    | some c =>
      if !s.switchFull group chunk comm c || c.code ≠ 0 then .next s
      else
        let joins := g.joins.filter fun k => !(k.1 = chunk && k.2.2 = comm)
        let s : State := { s with fabric := { s.fabric with switch := Sp.put SwitchGroup.reset s.fabric.switch group { g with joins } } }
        match State.switchSum comm chunk c (chainOf c.p chunk []) [] s with
        | (s, .inl ws) => .next (State.multicast comm chunk ws ((c.rank :: s.mates c).map c.dieOf) s)
        | (s, .inr die) =>
          match (s.cle die comm).cur with
          | some m => .next (s.abort die comm m 0)
          | none => .next s

/-- SWITCH REDUCE (R260), on a group, a chunk and the communicator that the state names. -/
def execSwitchReduce (group chunk : Nat) (s : State) : Res := s.performs (.switchReduce group chunk) (State.reduceChunk group chunk)

/-! Completion (R252, R253, R264, R375). -/

/-- Whether a member of this chip in the same collective will abort it, since routed rows to it were refused (R255). -/
def State.spoils (s : State) (comm : Nat) (c : Coll) (r : Nat) : Bool :=
  match (s.cle (c.dieOf r) comm).cur with
  | some m => m.epoch = c.epoch && m.round = c.round && m.sub.bad
  | none => false
/-- Whether a member's collective can complete: it ended with a code, or everything is done and every packet it sent accepted. -/
def State.collEnds (s : State) (die comm : Nat) : Bool :=
  match (s.cle die comm).cur with
  | some c =>
    c.code ≠ 0 || (c.done && !c.sub.bad && !(s.mates c).any (s.spoils comm c) && !s.fabric.msgs.any fun m => match m.pkt with
      | .pair k _ e n src _ _ _ => k = comm && e = c.epoch && n = c.round && src = die + 1
      | .chunk k _ e n src _ _ => k = comm && e = c.epoch && n = c.round && src = die + 1
      | _ => false)
  | none => false
/-- The status row (R252). -/
def statusRow (c : Coll) (code seq : Nat) : Row :=
  let xs := (c.xs.map fun r => ((c.live[r]?).map Prod.fst).getD 0)
  let w0 := pack [(48, c.epoch), (28, c.p), (8, c.rank), (0, min 255 xs.length)]
  let w1 := pack [(16, seq), (0, code)]
  BitVec.ofNat 1024 (w0.toNat + w1.toNat * 2 ^ 64) |||
    (rowOfLanes 32 (List.replicate 4 0 ++ ((xs.take 28) ++ List.replicate 28 0xffffffff).take 28))
/-- The splice-log entry (R264). -/
def spliceEntry (comm : Nat) (c : Coll) (code seq : Nat) : List Word64 :=
  let parts := sortBy (fun a b => decide (a.1 ≤ b.1)) c.written
  let bytes := parts.flatMap Prod.snd
  let w := (c.sub.tdd.map fun d => (dFmt d).width / 8).getD 4
  let dg := sha256 bytes
  [pack [(16, seq), (10, comm), (8, kKind c.sub.record), (0, b2n (code = 1))], pack [(48, c.epoch), (28, c.p), (8, c.rank)],
   pack [(24, (c.sub.tdd.map dHandle).getD 0)], BitVec.ofNat 64 (kDbase c.sub.record), BitVec.ofNat 64 (bytes.length / w),
   BitVec.ofNat 64 (ofBytesLE (dg.take 8)), BitVec.ofNat 64 (ofBytesLE ((dg.drop 8).take 8)), 0]
/-- A member whose collective has ended has no join left at the switch. -/
def State.leaveSwitch (s : State) (die comm : Nat) : State :=
  let group := cSg (s.comm die comm).entry
  let g := Sp.get SwitchGroup.reset s.fabric.switch group
  if g.joins.any fun k => k.2.1 = die && k.2.2 = comm then
    let g := { g with joins := g.joins.filter fun k => !(k.2.1 = die && k.2.2 = comm) }
    { s with fabric := { s.fabric with switch := Sp.put SwitchGroup.reset s.fabric.switch group g } }
  else s
/-- COLLECTIVE COMPLETE (R252, R253, R264, R375): sequence number and log entry, or a CLE record; the status row is written. The splice log stands
apart from the bytes of memory, since no rule gives the address that firmware reserves for it (DESIGN CHOICE, log 25). -/
def execCollectiveComplete (die comm : Nat) (s : State) : Res :=
  if s.collEnds die comm then
    match (s.cle die comm).cur with
    | none => .next s
    | some c =>
      let code := if c.code ≠ 0 then c.code else if c.xs.isEmpty then 0 else 1
      let logs := code = 0 || code = 1
      let seq := if logs then s.fabric.seq % 2 ^ 48 else 0
      let w := c.sub.who
      let chip := if code = 5 then c.fault else if code = 6 then 0 else (c.xs.head?.map c.chipOf).getD 0
      let s := if logs then
          let l := s.fabric.splice ++ [spliceEntry comm c code seq]
          { s with fabric := { s.fabric with seq := s.fabric.seq + 1, splice := l.drop (l.length - 64) } }
        else s.fabricEvent die w.part 0x27 code 0 comm w.queue w.tree chip (BitVec.ofNat 64 c.epoch) 0
      let s := (s.setCur die comm none).leaveSwitch die comm
      match s.cmd c.sub.cmd with
      | none => .next s
      | some d =>
        let h := s.core d.core
        let h := match d.dest with
          | r :: _ => h.cmdWrite d r (statusRow c code seq) allOnes
          | [] => h
        .next ((s.setCore d.core h).cmdDone d)
  else .next s

/-! Membership (R263, R265, R376). -/

/-- Whether a die of this chip is a live member. -/
def State.memberHere (s : State) (die comm : Nat) : Bool :=
  (rankOf s.control.chip die (s.liveSlots (s.comm die comm).entry)).isSome
/-- The dies whose engine has yet to apply a change. -/
def State.holding (s : State) (comm : Nat) (x : Change) : List Nat := [0, 1, 2, 3].filter fun d => (s.cle d comm).change.contains x
/-- Whether MEMBERSHIP APPLY has a change to apply: the copies at dies that are no member follow the members' (log 77). -/
def State.applyDue (s : State) (die comm : Nat) : Bool :=
  let l := s.cle die comm
  l.cur.isNone && match l.change with
  | [] => false
  | x :: _ => s.memberHere die comm || !(s.holding comm x).any fun d => s.memberHere d comm
/-- The slot entry first, which the first engine to apply the change writes, then epoch and P, and the switch group is loaded again; held packets
are looked at again (R386). A change of a communicator that is gone is dropped. -/
def State.applyChange (die comm : Nat) (s : State) : Res :=
  if s.applyDue die comm then
    let l := s.cle die comm
    match l.change with
    | [] => .next s
    | x :: r =>
      let m := s.comm die comm
      let e := m.entry
      let first := (s.holding comm x).length = 4
      let s := s.setCle die comm { l with change := r, round := 0, closed := [] }
      if !cV e then .next s
      else if x.delete then
        let s := s.setComm die comm { m with entry := setFld e 127 1 0 }
        .next { s with fabric := { s.fabric with replays := s.fabric.replays.filter fun r => r.comm ≠ comm } }
      else
        let s := if first && x.slot < cSlots e then s.writeBytes (cPart e) (cMtab e + 4 * x.slot) (bytesLE 4 x.entry.toNat) else s
        let e := setFld (setFld e 100 16 x.epoch) 60 20 (s.liveSlots e).length
        .next (((s.setComm die comm { m with entry := e }).lookAgain die comm).loadsGroup e)
  else .next s
/-- The issuer of an engine's accesses for a communicator itself (R341). -/
def commWho (s : State) (e : BitVec 128) : Who := ⟨3, 0, 0, 0, cPart e, 0, cOwner e % 16, s.now, s.control.chip⟩
/-- MEMBERSHIP APPLY (R259, R263, R384). -/
def execMembershipApply (die comm : Nat) (s : State) : Res :=
  s.performs (.membershipApply die comm) fun t =>
    if t.applyDue die comm then t.withTable (commWho t (t.comm die comm).entry) die (t.comm die comm).entry (State.applyChange die comm) else .next t
/-- The replay that stands for a spare and a vacated slot. -/
def State.replayOf (s : State) (die comm slot : Nat) : Option Replay := s.fabric.replays.find? fun r => r.die = die && r.comm = comm && r.slot = slot
/-- Put the replay of a spare and a slot, or take it away. -/
def State.setReplay (s : State) (die comm slot : Nat) (r : Option Replay) : State :=
  { s with fabric := { s.fabric with replays := r.toList ++ s.fabric.replays.filter fun x => !(x.die = die && x.comm = comm && x.slot = slot) } }
/-- The neighbour of a spare: the live member of the rank just below a slot, its own at first, then that of a neighbour which has failed; below the
lowest live slot that is the highest (R265, R376; log 25). Slot, chip and die. -/
def State.neighbour (s : State) (die comm below : Nat) : Option (Nat × Nat × Nat) :=
  let l := s.liveSlots (s.comm die comm).entry
  ((l.filter fun m => m.1 < below).getLast?).or l.getLast?
/-- The neighbour's log entries after a sequence number, in order, when it is a member of this chip: those of the communicator with its rank (R264,
R265). -/
def State.entriesAfter (s : State) (die comm seq : Nat) (m : Nat × Nat × Nat) : List (List Word64) :=
  let rank := ((s.liveSlots (s.comm die comm).entry).findIdx? fun x => x.1 = m.1).getD 0
  s.fabric.splice.filter fun e => seq < fldN (e.getD 0 0) 16 48 && fldN (e.getD 0 0) 10 6 = comm && fldN (e.getD 1 0) 8 20 = rank
/-- The spare discards its state, and its next neighbour is the live member below the one that it had (R376). -/
def State.discard (s : State) (die comm slot : Nat) : State :=
  let below := ((s.replayOf die comm slot).map Replay.below).getD slot
  let next := ((s.neighbour die comm below).map Prod.fst).getD slot
  s.setReplay die comm slot (some ⟨die, comm, slot, next, false, 0, 0, 0⟩)
/-- A snapshot opens a replay at the neighbour's completion sequence: this device's own when the neighbour is one of its dies. Firmware writes
the state it has taken at the addresses it chooses: triples of partition, address and word (R265; log 25). -/
def State.takeSnapshot (s : State) (die comm slot : Nat) : List Nat → State
  | at_ :: l =>
    let below := ((s.replayOf die comm slot).map Replay.below).getD slot
    let here := (s.neighbour die comm below).any fun m => m.2.1 = s.control.chip
    let n := if here then s.fabric.seq - 1 else at_
    let s := ((List.range (l.length / 3)).foldl (fun t k => t.writePart (l.getD (3 * k) 0) (l.getD (3 * k + 1) 0) (BitVec.ofNat 64 (l.getD (3 * k + 2) 0))) s)
    s.setReplay die comm slot (some ⟨die, comm, slot, below, true, n, n, 0⟩)
  | [] => s
/-- Elements and their values, as they come in a list. -/
def pairsOf : List Nat → List (Nat × Nat)
  | i :: v :: r => (i, v) :: pairsOf r
  | _ => []
/-- Write elements that a spare has read from its neighbour to its own tensor, one by one. -/
def State.writePairs (w : Who) (d : Desc) (l : List (Nat × Nat)) (s : State) : State := l.foldl (fun t x => (t.writeRun w d x.1 [x.2]).1) s
/-- Read elements of the neighbour's tensor; those whose read is refused are left out. -/
def State.readPairs (w : Who) (d : Desc) : List Nat → State → State × List (Nat × Nat)
  | [], s => (s, [])
  | i :: r, s =>
    let (s, v) := s.readRun w d i 1
    let (s, l) := State.readPairs w d r s
    (s, ((v.getD []).map fun x => (i, x)) ++ l)
/-- The first 128 bits of SHA-256 over written elements, as an entry of a splice log holds them (R264). -/
def digestOf (w : Nat) (vs : List Nat) : Nat := ofBytesLE ((sha256 (elemBytes w vs)).take 16)
/-- The digest of a log entry (R264). -/
def entryDigest (e : List Word64) : Nat := (e.getD 5 0).toNat + (e.getD 6 0).toNat * 2 ^ 64
/-- A replay after an entry: it goes on when the digest matches, reads the entry again after a first mismatch, and is discarded after a second
(R376). -/
def State.checked (s : State) (r : Replay) (seq : Nat) (good : Bool) : State :=
  if good then s.setReplay r.die r.comm r.slot (some { r with seq, bad := 0 })
  else if r.bad = 0 then s.setReplay r.die r.comm r.slot (some { r with bad := 1 })
  else s.discard r.die r.comm r.slot
/-- The state that a spare holds is too old: it takes a new snapshot from the same neighbour (R265). -/
def State.outdated (s : State) (r : Replay) : State := s.setReplay r.die r.comm r.slot (some { r with held := false })
/-- The next entry of the neighbour's log. The list has an entry's sequence number and digest, the spare's own descriptor and its neighbour's, then
the elements that the neighbour wrote, by stream index and value. Of a neighbour on this chip, the log entry and the values are read here, and the
list only says where they lie; of another, the list is what it sent. An entry more than 64 completions after the snapshot makes the state too
old, and the engines do not reach compressed tensors (R78, R265, R376; log 25). -/
def State.replayEntry (die comm slot : Nat) (l : List Nat) (s : State) : Res :=
  match (s.replayOf die comm slot).filter Replay.held with
  | none => .next s
  | some r =>
    let d : Desc := BitVec.ofNat 512 (l.getD 2 0)
    let dn : Desc := BitVec.ofNat 512 (l.getD 3 0)
    let xs := pairsOf (l.drop 4)
    let w := commWho s (s.comm die comm).entry
    if dCmp d || dCmp dn then .next s
    else match (s.neighbour die comm r.below).filter fun m => m.2.1 = s.control.chip with
      | some m =>
        if r.snapshot + 64 < s.fabric.seq - 1 then .next (s.outdated r)
        else match s.entriesAfter die comm r.seq m with
          | [] => .next s
          | e :: _ =>
            let (s, got) := State.readPairs w dn (xs.map Prod.fst) s
            .next ((s.writePairs w d got).checked r (fldN (e.getD 0 0) 16 48) (digestOf (dFmt dn).width (got.map Prod.snd) = entryDigest e))
      | none =>
        if l.getD 0 0 ≤ r.seq then .next s
        else if r.snapshot + 64 < l.getD 0 0 then .next (s.outdated r)
        else .next ((s.writePairs w d xs).checked r (l.getD 0 0) (digestOf (dFmt d).width (xs.map Prod.snd) = l.getD 1 0))
/-- Whether a spare has reached its neighbour's latest entry (R265): of a neighbour on another chip, firmware says so. -/
def State.caughtUp (s : State) (die comm slot : Nat) : Bool :=
  match (s.replayOf die comm slot).filter fun r => r.held && r.bad = 0 with
  | none => false
  | some r => match s.neighbour die comm r.below with
    | none => true
    | some m => m.2.1 ≠ s.control.chip || ((s.entriesAfter die comm r.seq m).isEmpty && s.fabric.seq - 1 ≤ r.snapshot + 64)
/-- Firmware makes the spare's slot live by R263. -/
def State.goLive (s : State) (die comm slot : Nat) : State :=
  let e := (s.comm die comm).entry
  let waiting := ((s.cle die comm).change.filter fun x => !x.delete).length
  let x : Change := { slot, entry := BitVec.ofNat 32 (2 ^ 31 + s.control.chip % 2 ^ 18 * 4 + die % 4),
                      epoch := (cEpoch e + waiting + 1) % 2 ^ 16, delete := false }
  (s.setReplay die comm slot none).putChange comm x [0, 1, 2, 3]
/-- SPARE JOIN, on a die, a communicator and a vacated slot, which is not live until the replay ends (R265, R376). Its subject says which
step firmware takes: 1, a snapshot; 2, an entry of the neighbour's log; 3, the neighbour has become absent and the state is discarded; none, the
replay has reached the neighbour's latest entry (log 25). Firmware makes the deferred frames of the membership table valid to read it (R384). -/
def execSpareJoin (die comm slot : Nat) (s : State) : Res :=
  let e := (s.comm die comm).entry
  let s := if cV e then s.validateRange (cPart e) (cMtab e) (4 * max 1 (cSlots e)) else s
  if !(cV e && slot < cSlots e && !bit (s.slotWord (cPart e) (cMtab e) slot) 31) then .next s
  else
    match s.subject with
    | 1 :: l => .next (s.takeSnapshot die comm slot l)
    | 2 :: l => s.performs (.spareJoin die comm slot) (State.replayEntry die comm slot l)
    | [] => if s.caughtUp die comm slot then .next (s.goLive die comm slot) else .next s
    | _ => .next (s.discard die comm slot)

/-! Routed rows (R254, R255, R386). -/

/-- A routed row is delivered: its `wsend` no longer waits for it. -/
def State.delivered (s : State) (msg core slot : Nat) : State :=
  let s := s.unpost msg
  let k := Machine.ck core slot
  let c := s.ctx k
  match c.matrix.run with
  | some r => s.setCtx k { c with matrix := { c.matrix with run := some { r with sends := r.sends.filter (· ≠ msg) } } }
  | none => s
/-- The live members of a routed row's communicator at its sender's engine. -/
def State.routedLive (s : State) (die comm : Nat) : List (Nat × Nat × Nat) :=
  let e := (s.comm die comm).entry
  if cV e then s.liveSlots e else []
/-- Whether the receiving member at a die takes a routed row of an epoch: it holds an armed record of that epoch that waits for rows. R255 does not
say from when on a member holds an armed record; the model counts it once its `cl.arm` is next at the engine, with no collective under way, no
change of membership waiting, and its fence done (DESIGN CHOICE, log 24). -/
def State.armed (s : State) (die comm epoch : Nat) : Bool :=
  epoch = cEpoch (s.comm die comm).entry &&
  match s.turnOf die comm with
  | some b => b.count < b.need && !s.subRefused die comm b
  | none => false
/-- The member to which a routed row goes: chip and die (R255). -/
def State.routedPeer (s : State) (die comm peer me : Nat) (rel : Bool) : Nat × Nat :=
  let r := (((if rel then signed 20 peer + me else peer) : Int) % (max 1 (cP (s.comm die comm).entry) : Nat)).toNat
  ((s.routedLive die comm).getD r (0, 0, 0)).2
/-- Without a peer the row is refused, and counts as delivered; it waits at its sender's engine until the receiving member grants it a credit. -/
def State.sendRow (msg : Nat) (s : State) : Res :=
  match s.packet msg with
  | some (.routed comm peer rel core slot entry first eoff data nb stage _ _ _) =>
    let die := coreDie core
    let epoch := cEpoch (s.comm die comm).entry
    let put (n d : Nat) : State :=
      let m (x : Msg) : Msg := if x.id = msg then { x with pkt := .routed comm peer rel core slot entry first eoff data nb n d epoch (die + 1) } else x
      { s with fabric := { s.fabric with msgs := s.fabric.msgs.map m } }
    if 2 ≤ stage then .next s
    else match rankOf s.control.chip die (s.routedLive die comm) with
    | none =>
      let p := (s.ctx (Machine.ck core slot)).place
      let s := s.fabricEvent die p.part 0x27 6 core comm p.queue p.tree 0 nb 0
      .next ((s.refusalStatus p.part p.queue p.tree s.fresh 0xa5).bump.delivered msg core slot)
    | some me =>
      let dst := s.routedPeer die comm peer me rel
      if dst.1 = s.control.chip then .next (if s.armed dst.2 comm epoch then put 2 dst.2 else put 1 0)
      else
        let t := put 2 4
        let t := match (t.cle die comm).cur with
          | some c => t.farAnswer die comm c
          | none => t
        if !t.noPath dst.1 && t.chooses then .next (t.bump.sometime (.routedRowArrival msg) []) else .next t.bump
  | _ => .next s
/-- ROUTED ROW SEND (R255, R384). -/
def execRoutedRowSend (msg : Nat) (s : State) : Res :=
  s.performs (.routedRowSend msg) fun t =>
    match t.packet msg with
    | some (.routed comm _ _ core slot _ _ _ _ _ stage _ _ _) =>
      let e := (t.comm (coreDie core) comm).entry
      if stage < 2 then t.withTable ((t.ctx (Machine.ck core slot)).who 3 core slot 0 0) (coreDie core) e (State.sendRow msg) else .next t
    | _ => .next t
/-- Whether a routed row that waits at its sender's engine can leave it. -/
def State.routedReady (s : State) (p : Packet) : Bool :=
  match p with
  | .routed comm peer rel core _ _ _ _ _ _ 1 _ _ _ =>
    let die := coreDie core
    match rankOf s.control.chip die (s.routedLive die comm) with
    | none => true
    | some me =>
      let dst := s.routedPeer die comm peer me rel
      dst.1 ≠ s.control.chip || s.armed dst.2 comm (cEpoch (s.comm die comm).entry)
  | _ => false
/-- Whether a routed row that has been sent can be taken by its receiver: an armed record of its epoch waits for rows, or the row's
epoch has passed. -/
def State.routedDue (s : State) (p : Packet) : Bool :=
  match p with
  | .routed comm _ _ _ _ _ _ _ _ _ 2 die epoch _ =>
    die < 4 && (epoch < cEpoch (s.comm die comm).entry || s.armed die comm epoch)
  | _ => false
/-- 32 elements of the armed record's source are written, and the row counts, refused or not; a row of an epoch that has passed is dropped
here, and its sender, whose row is not delivered, sends it again, one on another chip perhaps (log 24, 77). -/
def State.takeRouted (msg : Nat) (s : State) : Res :=
  match s.packet msg with
  | some (.routed comm peer rel core slot entry first eoff data nb stage die epoch src) =>
    if 4 ≤ die then .next (s.delivered msg core slot)
    else if !s.routedDue (.routed comm peer rel core slot entry first eoff data nb stage die epoch src) then .next s
    else if epoch < cEpoch (s.comm die comm).entry && src = 0 then
      let p : Packet := .routed comm peer rel core slot entry first eoff data nb 2 die (cEpoch (s.comm die comm).entry) 0
      .next (if s.chooses then s.bump.postFrom none p |>.unpost msg else s.bump.unpost msg)
    else if epoch < cEpoch (s.comm die comm).entry then
      let m (x : Msg) : Msg := if x.id = msg then { x with pkt := .routed comm peer rel core slot entry first eoff data nb 1 0 0 0 } else x
      .next (({ s with fabric := { s.fabric with msgs := s.fabric.msgs.map m } } : State).answerEarlier src comm epoch)
    else match s.turnOf die comm with
      | none => .next s
      | some b =>
        let (s, ok) := match b.tds with
          | some d => s.writeRun b.who d (kSbase b.record + eoff + 32 * first) ((List.range 32).map (laneN data (dFmt d).width))
          | none => (s, false)
        let l := s.cle die comm
        let b := { b with count := b.count + 1, bad := b.bad || !ok }
        .next ((s.setCle die comm { l with subs := b :: l.subs.drop 1 }).delivered msg core slot)
  | _ => .next s
/-- ROUTED ROW ARRIVAL (R255, R262, R386). -/
def execRoutedRowArrival (msg : Nat) (s : State) : Res :=
  s.inTurn msg (.routedRowArrival msg) fun t => t.performs (.routedRowArrival msg) (State.takeRouted msg)

end Sys2Proof.Machine
end

