-- ==== Sys2Proof/Machine/Launch.lean ====
section
/-! DEFINITION. The scheduler: reading records, placing groups, completion records, pre-emption, partitions (R26, R27, R35-R38, R46,
R297-R312, R339, R398). -/
namespace Sys2Proof.Machine
open Sys2Proof

/-! Partitions (R46, R312). -/

/-- The permitted die sets (R46). -/
def dieSets : List (List Nat) := [[0], [1], [2], [3], [0, 1], [2, 3], [0, 1, 2, 3]]
/-- What firmware may set (R312). -/
def cfgOk (c : PartCfg) : Bool :=
  dieSets.contains c.dies && c.dies.head? = some c.first && 2 ^ 16 ≤ c.age && c.age ≤ 2 ^ 26 && 2 ^ 24 ≤ c.ktime && c.ktime ≤ 2 ^ 34 &&
  c.overflow.all fun e => c.dies.contains e.1 && e.2.1 % 16 = 0 && e.2.1 < 2 ^ 44 && e.2.2 < 2 ^ 40
def Part.configured (p : Part) : Bool := !p.cfg.dies.isEmpty
def Queue.enabled (q : Queue) : Bool := bit q.qcfg 63
def State.queue (s : State) (part queue : Nat) : Queue := Sp.get Queue.reset (s.part part).queues queue
def State.setQueue (s : State) (part queue : Nat) (q : Queue) : State :=
  let p := s.part part
  s.setPart part { p with queues := Sp.put Queue.reset p.queues queue q }
/-- Whether a partition is idle: no group placed, no queue enabled, no gang saved (R312). -/
def Part.idle (p : Part) : Bool := p.gangs.isEmpty && p.saved.isEmpty && p.queues.all fun e => !e.2.enabled
/-- PARTITION CONFIGURE (R312, R319, R320): only while every die concerned is idle, none fenced, and in reduced service one die at a
time, and so before full service, which reduced service precedes; other settings than firmware can make are ignored. -/
def execPartitionConfigure (cfg : PartCfg) (s : State) : Res :=
  let meets (n : Nat) : Bool := (s.part n).cfg.dies.any cfg.dies.contains
  let admitted := !cfg.dies.any s.control.fencedDies.contains && (s.control.svc = 2 || cfg.dies.length = 1)
  if cfgOk cfg && admitted && [0, 1, 2, 3].all fun n => !meets n || (s.part n).idle then
    let s := [0, 1, 2, 3].foldl (fun t n => if meets n then t.setPart n Part.reset else t) s
    .next (s.setPart cfg.first { Part.reset with cfg })
  else .next s

/-! Launch records, images and loop tables (R35, R298, R299, R301, R339). -/

def rImage (w : List Word64) : Nat := fldN (w.getD 0 0) 7 37 * 128
def rGroups (w : List Word64) : Nat := fldN (w.getD 1 0) 32 32
def rPrio (w : List Word64) : Nat := fldN (w.getD 1 0) 30 2
def rShared (w : List Word64) : Bool := bit (w.getD 1 0) 29
def rIrq (w : List Word64) : Nat := fldN (w.getD 1 0) 27 2
def rVec (w : List Word64) : Nat := fldN (w.getD 1 0) 21 6
def rAv (w : List Word64) : Bool := bit (w.getD 1 0) 20
def rAq (w : List Word64) : Nat := fldN (w.getD 1 0) 16 4
def rDie (w : List Word64) (i : Nat) : Bool := i < 4 && bit (w.getD 1 0) (12 + i)
def rPt (w : List Word64) : Bool := bit (w.getD 1 0) 4
def rPtree (w : List Word64) : Nat := fldN (w.getD 1 0) 0 4
def rAseq (w : List Word64) : Nat := fldN (w.getD 2 0) 0 48
def rArows (w : List Word64) : Nat := fldN (w.getD 3 0) 44 6
def rArgs (w : List Word64) : Nat := fldN (w.getD 3 0) 0 44
/-- A launch record that R339 refuses. -/
def recordBad (p : Part) (w : List Word64) (window : Nat) : Bool :=
  rGroups w = 0 || rIrq w = 3 || fldN (w.getD 0 0) 44 20 ≠ 0 || fldN (w.getD 0 0) 0 7 ≠ 0 || fldN (w.getD 1 0) 5 7 ≠ 0 ||
  fldN (w.getD 2 0) 48 16 ≠ 0 || fldN (w.getD 3 0) 50 14 ≠ 0 || rArgs w % 128 ≠ 0 || (w.drop 4).any (· ≠ 0) ||
  32 < rArows w || window < rArows w || (!rPt w && rPtree w ≠ 0) || !(List.range p.cfg.dies.length).any (rDie w) ||
  (rAv w && !(Sp.get Queue.reset p.queues (rAq w)).enabled)
/-- Levels of a loop table: kind, axis, origin, step, count. -/
structure Level where
  kind : Nat
  axis : Nat
  origin : Nat
  step : Nat
  count : Nat
  deriving DecidableEq, Repr
def levelOf (w : Word64) : Level := ⟨fldN w 62 2, fldN w 61 1, fldN w 48 8, fldN w 32 16, fldN w 0 32⟩
def tLevels (t : List Word64) : Nat := fldN (t.getD 0 0) 0 3
def tWindow (t : List Word64) : Nat := fldN (t.getD 0 0) 32 16
def tExchange (t : List Word64) : Bool := bit (t.getD 0 0) 3
def levelsOf (t : List Word64) : List Level := ((t.drop 1).take (tLevels t)).map levelOf
/-- A level word that breaks R35 or its ranges, with the dies that a D level may use. -/
def levelBad (p : Part) (w : List Word64) (x : Word64) : Bool :=
  let l := levelOf x
  fldN x 56 5 ≠ 0 ||
  match l.kind with
  | 1 => l.axis ≠ 0 || l.origin ≠ 0 || l.count = 0
  | 2 => l.step = 0 || 23 < l.step || l.count = 0 || 24 < l.count || 23 < l.origin + (l.count - 1) * l.step
  | 3 => l.axis ≠ 0 || l.step ≠ 1 || l.count = 0 || p.cfg.dies.length < l.origin + l.count ||
      !(List.range l.count).all fun i => rDie w (l.origin + i)
  | _ => true
/-- A T level before a C or D level. -/
def tFirst : List Level → Bool
  | [] => false
  | l :: r => (l.kind = 1 && r.any fun m => m.kind ≠ 1) || tFirst r
/-- A loop table that R339 refuses. -/
def tableBad (p : Part) (w t : List Word64) : Bool :=
  let n := tLevels t
  let ls := levelsOf t
  let cs (a : Nat) : Nat := (ls.filter fun l => l.kind = 2 && l.axis = a).length
  n = 0 || n = 7 || tWindow t = 0 || 2560 < tWindow t || fldN (t.getD 0 0) 48 16 ≠ 0 || fldN (t.getD 0 0) 4 28 ≠ 0 || t.getD 7 0 ≠ 0 ||
  ((t.drop 1).take n).any (levelBad p w) || (((t.drop 1).take 6).drop n).any (fun x => fldN x 56 5 ≠ 0 || fldN x 62 2 ≠ 0) || tFirst ls ||
  1 < (ls.filter fun l => l.kind = 3).length || 1 < cs 0 || 1 < cs 1 || (tExchange t && n = 1 && cs 0 + cs 1 = 0)
/-- The routines of a section, from its words; none when it breaks R301. The signature block is 1,872 bytes, its last four zero. -/
def parseRoutines : Nat → List Word64 → Option (List (Nat × List Word64))
  | 0, _ => none
  | n + 1, ws =>
    if ws.length ≤ 234 then (if ws.length = 234 && fldN (ws.getD 233 0) 32 32 = 0 then some [] else none)
    else match ws with
      | h :: r =>
        let k := fldN h 16 11
        if fldN h 5 11 ≠ 0 || fldN h 27 37 ≠ 0 || fldN h 0 5 < 8 || k = 0 || r.length < k then none
        else (parseRoutines n (r.drop k)).map fun l => (fldN h 0 5, r.take k) :: l
      | [] => none
/-- What a read of the scheduler gives: the words, a refusal, or the range whose deferred frames firmware makes valid first (R300). -/
inductive Got (α : Type)
  | read (x : α)
  | refused
  | waits (addr bytes : Nat)
  deriving DecidableEq, Repr
/-- A read of the scheduler: n words at a partition byte address. -/
def State.schedRead (s : State) (part addr n : Nat) : Got (List Word64) :=
  let lo := addr / 65536
  if 0 < n && (List.range ((addr + 8 * n - 1) / 65536 + 1 - lo)).any fun i => s.s2deferred part (lo + i) then .waits addr (8 * n)
  else match s.readParts part addr n with
    | some ws => .read ws
    | none => .refused
/-- The routine section of an image: its routines, or its refusal (R301, R322, R339). -/
def State.readRoutines (s : State) (part image : Nat) (hdr : List Word64) : Got (List (Nat × List Word64)) :=
  let len := (hdr.getD 0 0).toNat
  let off := (hdr.getD 2 0).toNat
  let n := (hdr.getD 3 0).toNat
  if off = 0 then .read []
  else if off % 8 ≠ 0 || n % 8 ≠ 0 || off < 128 + (hdr.getD 1 0).toNat || len < off + n then .refused
  else match s.schedRead part (image + off) (n / 8) with
    | .refused => .refused
    | .waits a b => .waits a b
    | .read ws =>
      match parseRoutines (n / 8 + 1) ws with
      | none => .refused
      | some l =>
        let ix := l.map Prod.fst
        let bytes := ws.flatMap fun w => bytesLE 8 w.toNat
        let ok := !l.isEmpty && ix.eraseDups.length = ix.length && Config.signatureValid bytes && Nat.ble s.control.rollback (Config.securityVersion bytes)
        if ok then .read l else .refused
/-- An image header that R339 refuses. -/
def headerBad (hdr : List Word64) : Bool :=
  let off := (hdr.getD 1 0).toNat
  off % 8 ≠ 0 || (hdr.getD 0 0).toNat ≤ 128 + off || (hdr.drop 4).any (· ≠ 0)
/-- Read the head record of a queue with its image: refused, or ready to be placed; or the range that firmware settles first. -/
def State.readHead (s : State) (part : Nat) (q : Queue) : Got Head :=
  let bad (w : List Word64) : Got Head :=
    .read { words := w, image := [], routines := [], since := q.became, next := 0, refused := true }
  let n := q.qhead.toNat % 2 ^ 48
  match s.schedRead part (q.qbase.toNat + 128 * (n % 2 ^ fldN q.qcfg 0 5)) 16 with
  | .refused => bad []
  | .waits a b => .waits a b
  | .read w =>
    match s.schedRead part (rImage w) 16 with
    | .refused => bad w
    | .waits a b => .waits a b
    | .read img =>
      let hdr := img.take 8
      let t := img.drop 8
      if recordBad (s.part part) w (tWindow t) || headerBad hdr || tableBad (s.part part) w t then bad w
      else match s.readRoutines part (rImage w) hdr with
        | .refused => bad w
        | .waits a b => .waits a b
        | .read rs => .read { words := w, image := img, routines := rs, since := q.became, next := 0, refused := false }
/-- A cycle at which something of the scheduler happens that no rule times (R397; log 4). -/
def State.soon (s : State) : Nat := s.now + 1 + Config.duration s.fresh
/-- A group of the head, as the reorder window holds it: placed, or never placed and reported with status 0x8b (R339). -/
def groupOf (q : Queue) (h : Head) (placed : Bool) (tree : Nat) : Grp :=
  { lseq := q.qhead.toNat % 2 ^ 48, group := h.next, last := h.next + 1 = max 1 (rGroups h.words), irq := rIrq h.words, vec := rVec h.words,
    done := if placed then none else some 0x8b, refusal := none, tree, unplaced := !placed }
/-- The queue's next record becomes head at a cycle, and is read at a later one (R302). -/
def Queue.nextHead (q : Queue) (now at_ : Nat) : Queue := { q with head := none, qhead := inc48 q.qhead, became := now, readAt := at_ }
/-- The queue after one more group of its head (R302). After the last one that is placed the next record becomes head; a refused record stays
head until its completion records are written (R339). -/
def Queue.took (q : Queue) (h : Head) (g : Grp) (now at_ : Nat) : Queue :=
  let q := { q with grps := q.grps ++ [g] }
  if g.last && !h.refused then q.nextHead now at_ else { q with head := some { h with next := h.next + 1 } }
/-- Whether a refused head has groups that the reorder window has still to take (R307, R339). -/
def Head.reports (h : Head) : Bool := h.refused && h.next < max 1 (rGroups h.words)
/-- The queue once the oldest completion record is written (R307, R308): `ctail`, after a launch's last record `lcount`, and after that of a refused
record `qhead` (R339). -/
def Queue.wrote (q : Queue) (g : Grp) (rest : List Grp) (now at_ : Nat) : Queue :=
  let q := { q with grps := rest, ctail := inc48 q.ctail, lcount := if g.last then inc48 q.lcount else q.lcount, recordAt := at_ }
  if g.last && g.unplaced && q.head.isSome then q.nextHead now at_ else q
/-- Whether RECORD READ has something to do: a record to read, or a group of a refused one to report. -/
def State.recordDue (s : State) (part queue : Nat) : Bool :=
  let q := s.queue part queue
  q.enabled && match q.head with
    | none => q.qhead ≠ q.qtail && q.readAt ≤ s.now
    | some h => h.reports && q.grps.length < 256
/-- RECORD READ (R297, R300, R339): the head record is read once; the groups of a refused one are reported with status 0x8b, one
by one as the reorder window takes them. Where the read meets deferred frames, firmware makes them valid after a time, and the record is read
then (R384, R397; log 4). -/
def execRecordRead (part queue : Nat) (s : State) : Res :=
  if s.recordDue part queue then
    let q := s.queue part queue
    match q.head with
    | none =>
      let s := match q.asked with
        | some (a, b) => s.validateRange part a b
        | none => s
      match s.readHead part q with
      | .waits a b => .next (s.setQueue part queue { q with readAt := s.soon, asked := some (a, b) }).bump
      | .read h => .next (s.setQueue part queue { q with head := some h, asked := none })
      | .refused => .next s
    | some h => .next (s.setQueue part queue { q.took h (groupOf q h false 0) s.now s.soon with recordAt := if q.grps.isEmpty then s.soon else q.recordAt }).bump
  else .next s

/-! Footprints and resources (R36, R37, R304, R305, R311). -/

/-- A member: its core and its index along each level. -/
abbrev Member := Nat × List Nat
/-- Members of a footprint with the die, course and row that the scheduler chooses where no level gives them. -/
def members (dies : List Nat) : List Level → Nat → Nat → Nat → List Nat → List Member
  | [], die, course, row, ix => [(die * 576 + course * 24 + row, ix.reverse)]
  | l :: r, die, course, row, ix =>
    match l.kind with
    | 3 => (List.range l.count).flatMap fun i => members dies r (dies.getD (l.origin + i) 0) course row (i :: ix)
    | 2 => (List.range l.count).flatMap fun i =>
        if l.axis = 1 then members dies r die (l.origin + i * l.step) row (i :: ix) else members dies r die course (l.origin + i * l.step) (i :: ix)
    | _ => members dies r die course row (0 :: ix)
/-- Footprints in the order of R305: dies, then courses, then rows. -/
def footprints (p : Part) (h : Head) : List (List Member) :=
  let ls := levelsOf (h.image.drop 8)
  let has (k a : Nat) : Bool := ls.any fun l => l.kind = k && (k = 3 || l.axis = a)
  let dies := if has 3 0 then [p.cfg.first] else ((List.range p.cfg.dies.length).filter (rDie h.words)).map fun i => p.cfg.dies.getD i 0
  let courses := if has 2 1 then [0] else List.range 24
  let rows := if has 2 0 then [0] else List.range 24
  dies.flatMap fun d => courses.flatMap fun c => rows.map fun r => members p.cfg.dies ls d c r []
/-- Effective priority (R302, R311). -/
def effPrio (p : Part) (prio since now : Nat) : Nat := min 3 (prio + (now - since) / max 1 p.cfg.age)
/-- Saved gangs whose resources a head of effective priority e leaves alone (R311). -/
def Part.awaited (p : Part) (now e : Nat) : List Saved := p.saved.filter fun v => e ≤ effPrio p v.gang.prio v.since now
/-- Rows taken on a core, by placed gangs and by awaited ones. -/
def State.takenBy (s : State) (aw : List Saved) (core : Nat) : List (Nat × Nat) :=
  s.taken core ++ aw.flatMap fun v => (v.gang.base.filter fun b => b.1 = core).map fun b => (b.2, v.gang.window)
/-- The lowest free run of rows: candidates are 0 and the ends of the runs taken. -/
def lowestRun (taken : List (Nat × Nat)) (n : Nat) : Option Nat :=
  let ok (a : Nat) : Bool := a + n ≤ 2560 && !taken.any fun e => overlaps e.1 e.2 a n
  ((0 :: taken.map fun e => e.1 + e.2).filter ok).foldl (fun (b : Option Nat) a => match b with
    | some x => some (min x a)
    | none => some a) none
/-- The window on a core of a gang of launch lseq of a queue. -/
def Gang.baseOn (g : Gang) (queue lseq core : Nat) : Option Nat :=
  if g.queue = queue && g.lseq = lseq then (g.base.find? fun b => b.1 = core).map Prod.snd else none
/-- The window of a member (R305): that of a gang of its launch on the core, placed or pre-empted, with sw = 1, unless an awaited gang keeps rows of
it (R311) or a gang of another launch has taken some; or else the lowest free run. -/
def State.windowOn (s : State) (part queue lseq : Nat) (aw : List Saved) (h : Head) (core : Nat) : Option Nat :=
  let p := s.part part
  let n := tWindow (h.image.drop 8)
  let own (g : Gang) : Option Nat := if rShared h.words then g.baseOn queue lseq core else none
  let others := ((p.gangs.map Prod.snd).filter fun g => (own g).isNone) ++ aw.map Saved.gang
  match ((p.gangs.map Prod.snd) ++ p.saved.map Saved.gang).findSome? own with
  | some b => if others.any fun g => g.base.any fun e => e.1 = core && overlaps e.2 g.window b n then none else some b
  | none => lowestRun (s.takenBy aw core) n
/-- The windows of all members. -/
def allSome {α : Type} : List (Option α) → Option (List α)
  | [] => some []
  | some x :: r => (allSome r).map (x :: ·)
  | none :: _ => none
/-- Where a group goes: members, slot, windows by core, tree. -/
structure Placement where
  members : List Member
  slot : Nat
  base : List (Nat × Nat)
  tree : Nat
  deriving DecidableEq, Repr
/-- A footprint with the lowest slot that is free on every core, its windows, its routines (R304, R305). -/
def State.fits (s : State) (part queue lseq tree : Nat) (aw : List Saved) (h : Head) (ms : List Member) : Option Placement :=
  let cores := ms.map Prod.fst
  let free (k : Nat) : Bool := cores.all fun c => !(s.ctx (Machine.ck c k)).iss.placed && !aw.any fun v => v.gang.slot = k && v.gang.cores.contains c
  match [0, 1, 2, 3].find? free, allSome (cores.map fun c => (s.windowOn part queue lseq aw h c).map fun b => (c, b)) with
  | some k, some bs =>
    if cores.all fun c => (s.loadOn c h.routines).isSome then some ⟨ms, k, bs, tree⟩ else none
  | _, _ => none
/-- Where the next group of a head can be placed (R303-R305, R307). -/
def State.findPlace (s : State) (part queue : Nat) (h : Head) : Option Placement :=
  let p := s.part part
  let q := s.queue part queue
  let w := h.words
  let aw := p.awaited s.now (effPrio p (rPrio w) h.since s.now)
  let dep := !rAv w || (sub48 (s.queue part (rAq w)).lcount (BitVec.ofNat 64 (rAseq w)) < 2 ^ 47)
  let freeTree (t : Nat) : Bool := (s.gangAt part t).isNone && !aw.any fun v => v.tree = t
  let tree := if rPt w then (if freeTree (rPtree w) then some (rPtree w) else none) else (List.range 16).find? freeTree
  match if !h.refused && dep && q.enabled && q.grps.length < 256 then tree else none with
  | none => none
  | some t => (footprints p h).findSome? (s.fits part queue (q.qhead.toNat % 2 ^ 48) t aw h)
/-- Heads of a partition in rank order (R302): queue and head. -/
def Part.heads (p : Part) (now : Nat) : List (Nat × Head) :=
  let l := p.queues.filterMap fun e => if e.2.enabled then e.2.head.map fun h => (e.1, h) else none
  let key (e : Nat × Head) : Nat := ((3 - effPrio p (rPrio e.2.words) e.2.since now) * 2 ^ 64 + e.2.since) * 16 + e.1
  sortBy (fun a b => decide (key a ≤ key b)) l
/-- A head that no head ranked below may pass (R302). -/
def heldTop (p : Part) (now : Nat) (h : Head) : Bool :=
  !h.refused && rPrio h.words < 3 && h.since + (3 - rPrio h.words) * p.cfg.age + p.cfg.age ≤ now
/-- The first head, in rank order, that can be placed, with its place. -/
def State.choosePlace (s : State) (part : Nat) : List (Nat × Head) → Option (Nat × Head × Placement)
  | [] => none
  | (q, h) :: r =>
    match s.findPlace part q h with
    | some x => some (q, h, x)
    | none => if heldTop (s.part part) s.now h then none else State.choosePlace s part r
/-- The context of a member at placement (R26, R37, R52); the state of levels that the loop table lacks is 0 (log 1). It is ready in the
cycle after its argument rows are written, which takes a time that no rule fixes (R306, R397; log 4). -/
def newCtx (s : State) (part queue : Nat) (h : Head) (x : Placement) (m : Member) : Ctx :=
  let t := h.image.drop 8
  let ls := levelsOf t
  let b := ((x.base.find? fun e => e.1 = m.1).map Prod.snd).getD 0
  let g := Regs.reset
  let num (f : Level → Nat → Word32) : Sp Word32 := ((ls.zip m.2).zipIdx).foldl (fun r e => Sp.put 0 r e.2 (f e.1.1 e.1.2)) []
  let stride : Sp (BitVec 16) := ls.zipIdx.foldl (fun r e => if e.1.kind = 1 then Sp.put 0 r e.2 (BitVec.ofNat 16 e.1.step) else r) []
  let counts := num (fun l _ => BitVec.ofNat 32 l.count)
  let first := num (fun l i => if l.kind = 1 then 0 else BitVec.ofNat 32 i)
  let g : Regs := { g with a := Sp.put 0 [] 0 (BitVec.ofNat 32 b), lc := counts, li := first, stride := stride }
  let pc : Word64 := BitVec.ofNat 64 (rImage h.words + 128 + (h.image.getD 1 0).toNat)
  let place : Place := { part, queue, tree := x.tree, group := BitVec.ofNat 32 h.next, phase := 0, base := b, limit := b + tWindow t - 1 }
  { Ctx.reset with regs := g, iss := { Issue.reset with placed := true, pc, ready := s.soon }, place := place }
/-- Rows of a new window: the argument rows, and free contents in the others (R27; log 6). A window that a gang of the launch already
holds keeps its rows beyond the argument block (R305). -/
def State.fillWindow (s : State) (core base n : Nat) (args : List Row) (shared : Bool) : State :=
  let put (t : State) (i : Nat) : State :=
    match args[i]? with
    | some r => t.setCore core ((t.core core).writeRow (base + i) r)
    | none => if shared then t else t.setCore core ((t.core core).writeRow (base + i) (Config.undefinedRow core (base + i) s.fresh))
  ((List.range n).foldl put s).bump
/-- Place one member: routines, window, context; the fetch path holds no line of the partition from before (log 32). -/
def State.placeMember (s : State) (part queue : Nat) (h : Head) (x : Placement) (args : List Row) (m : Member) : State :=
  let c := m.1
  let ctx := newCtx s part queue h x m
  let q := s.queue part queue
  let shared := rShared h.words && (s.part part).gangs.any fun e => e.2.queue = queue && e.2.lseq = q.qhead.toNat % 2 ^ 48 && e.2.cores.contains c
  let s := match s.loadOn c h.routines with
    | some k => s.setCore c k
    | none => s
  let s := s.fillWindow c ctx.place.base (tWindow (h.image.drop 8)) args shared
  (s.setCtx (Machine.ck c x.slot) ctx).setCore c { (s.core c).dropLines part with gated := false }
/-- The argument block as rows. -/
def rowsOf : Nat → List Word64 → List Row
  | 0, _ => []
  | n + 1, ws => rowOfWords (ws.take 16) :: rowsOf n (ws.drop 16)
/-- Whether the scheduler places groups: in service, and not while boot step 8 lets them complete (R319). -/
def State.places (s : State) : Bool :=
  s.control.svc = 2 || (s.control.svc = 1 && !(match s.control.bootAt with
    | some (n, _) => n = 8
    | none => false))
/-- The group that a decision made now would place. -/
def State.decides (s : State) (part : Nat) : Option (Nat × Head × Placement) :=
  if s.places then s.choosePlace part ((s.part part).heads s.now) else none
/-- Whether PLACEMENT DECISION has something to do: a decision is made, or one begins because a group can be placed. -/
def State.placementDue (s : State) (part : Nat) : Bool :=
  match (s.part part).deciding with
  | some t => t ≤ s.now
  | none => (s.decides part).isSome
/-- PLACEMENT DECISION (R302-R306): it begins when a group can be placed, takes 16 cycles, and then places one group of the
highest-ranked head that can be placed; the next one may begin in that cycle (log 67). Where the argument block meets deferred frames, firmware
makes them valid after a time, and the group is placed then (R384, R397); a block that cannot be read leaves the group and all later ones of its launch unplaced (R300). -/
def execPlacementDecision (part : Nat) (s : State) : Res :=
  let p := s.part part
  let s' := s.setPart part { p with deciding := none, asked := none }
  match if p.deciding.any fun t => s.now < t then none else s.decides part, p.deciding with
  | none, some t => .next (if t ≤ s.now then s' else s)
  | none, none => .next s
  | some _, none => .next (s.setPart part { p with deciding := some (s.now + 16) })
  | some (queue, h, x), some _ =>
    let s := s'
    let q := s.queue part queue
    let s := match p.asked with
      | some (a, b) => s.validateRange part a b
      | none => s
    match s.schedRead part (rArgs h.words) (16 * rArows h.words) with
    | .waits a b => .next (s.setPart part { p with deciding := some s.soon, asked := some (a, b) }).bump
    | .refused => .next (s.setQueue part queue { q with head := some { h with refused := true } })
    | .read ws =>
      let args := rowsOf (rArows h.words) ws
      let s := x.members.foldl (fun t m => t.placeMember part queue h x args m) s
      let g : Gang :=
        { queue, lseq := q.qhead.toNat % 2 ^ 48, group := h.next, slot := x.slot, cores := x.members.map Prod.fst, base := x.base,
          window := tWindow (h.image.drop 8), shared := rShared h.words, xbit := tExchange (h.image.drop 8), prio := rPrio h.words,
          placed := s.now, image := rImage h.words, routines := h.routines, knot := Knot.reset, victim := false, ending := none,
          duty := 16, saving := none }
      let p := s.part part
      let s := s.setPart part { p with gangs := p.gangs ++ [(x.tree, g)] }
      .next (s.setQueue part queue (q.took h (groupOf q h true x.tree) s.now s.soon))

/-! Completion records (R307-R309, R398). -/

/-- The partition byte address of the next completion record (R307). -/
def Queue.recordAddr (q : Queue) : Nat := q.cbase.toNat + 16 * (q.ctail.toNat % 2 ^ fldN q.qcfg 16 5)

/-- Whether the oldest group of a queue has completed, its ring has room, the frame that the record goes to can be written or is only
deferred, and the record's cycle has come. -/
def State.recordReady (s : State) (part queue : Nat) : Bool :=
  let q := s.queue part queue
  match q.grps with
  | g :: _ => g.done.isSome && sub48 q.ctail q.chead < 2 ^ fldN q.qcfg 16 5 && q.recordAt ≤ s.now &&
      ((s.s2 part (q.recordAddr / 65536)).isSome || s.s2deferred part (q.recordAddr / 65536))
  | [] => false
/-- COMPLETION RECORD WRITE (R307-R309): the record first, then `ctail`, then `lcount` after a launch's last record, then the message. Firmware makes
a deferred frame valid after a time, and the record is written then (R384, R397); while the frame is invalid otherwise, no record is written
(log 68). -/
def execCompletionRecordWrite (part queue : Nat) (s : State) : Res :=
  if s.recordReady part queue then
    let q := s.queue part queue
    match q.grps with
    | g :: r =>
      if s.s2deferred part (q.recordAddr / 65536) && !q.recordAsked then
        .next (s.setQueue part queue { q with recordAt := s.soon, recordAsked := true }).bump
      else
      let s := s.validate part (q.recordAddr / 65536)
      let s := s.writeParts part q.recordAddr [pack [(16, g.lseq), (0, g.done.getD 0)], pack [(32, g.group)]]
      let s := s.setQueue part queue { q.wrote g r s.now s.soon with recordAsked := false }
      .next (if g.irq = 2 || (g.irq = 1 && g.last) then s.msix g.vec else s).bump
    | [] => .next s
  else .next s

/-! Pre-emption (R310). -/

/-- The state without some of a partition's gangs. -/
def State.without (s : State) (part : Nat) : List (Nat × Gang) → State
  | [] => s
  | (t, g) :: r => State.without (s.vacate part t g) part r
/-- The shortest prefix of candidates whose leaving lets a head be placed. -/
def State.victims (s : State) (part queue : Nat) (h : Head) : List (Nat × Gang) → List (Nat × Gang) → Option (List (Nat × Gang))
  | chosen, [] => if (s.findPlace part queue h).isSome then some chosen else none
  | chosen, (t, g) :: r =>
    if (s.findPlace part queue h).isSome then some chosen
    else State.victims (s.vacate part t g) part queue h (chosen ++ [(t, g)]) r
/-- The victims that the control core would choose now for a head (R310): lowest launch priority first, then the most recently placed. -/
def State.preempts (s : State) (part queue : Nat) : List (Nat × Gang) :=
  let p := s.part part
  match (s.queue part queue).head with
  | none => []
  | some h =>
    let e := effPrio p (rPrio h.words) h.since s.now
    if h.refused || !s.places || s.now < h.since + p.cfg.age / 4 then []
    else
      let leaving := p.gangs.filter fun g => g.2.victim || g.2.ending.isSome
      let s' := s.without part leaving
      if (s.findPlace part queue h).isSome || (s'.findPlace part queue h).isSome then []
      else
        let cand := sortBy (fun a b => a.2.prio < b.2.prio || (a.2.prio = b.2.prio && b.2.placed ≤ a.2.placed))
          (p.gangs.filter fun g => !leaving.contains g && g.2.prio < e)
        (s'.victims part queue h [] cand).getD []
/-- PREEMPT DECISION (R310): each victim is pre-empted at its next knot release. -/
def execPreemptDecision (part queue : Nat) (s : State) : Res :=
  .next ((s.preempts part queue).foldl (fun t e => t.setGang part e.1 { e.2 with victim := true }) s)

end Sys2Proof.Machine
end

