-- ==== Sys2Proof/Machine/HostRegs.lean ====
section
/-! DEFINITION. What the host does: queue and event-ring registers, `ebrk`, accesses to partition memory (R294-R297, R314, R315, R338,
R347, R398). -/
namespace Sys2Proof.Machine
open Sys2Proof

/-- Whether a partition's page serves its registers (R294, R312). -/
def State.pageServes (s : State) (part : Nat) : Bool := part < 4 && (s.part part).configured
/-- Whether a disabled queue still drains (R398). -/
def Queue.drains (q : Queue) : Bool := !q.enabled && !q.grps.isEmpty
def low48 (v : Word64) : Word64 := BitVec.ofNat 64 (fldN v 0 48)
/-- The bits of `qcfg` that a write can set (R296). -/
def qcfgBits (v : Word64) : Word64 := v &&& 0x80000000001f001f
/-- Whether a write of `qcfg` keeps its sizes in range (R296). -/
def qcfgTaken (v : Word64) : Bool := 4 ≤ fldN v 16 5 && fldN v 16 5 ≤ 20 && fldN v 0 5 ≤ 16

/-- A write of `qtail` (R297): taken when it moves forward within the ring. A record that it makes head is head from now on and read at a
later cycle (R302, R397). -/
def Queue.writeTail (q : Queue) (v : Word64) (now at_ : Nat) : Queue :=
  if sub48 v q.qhead ≤ 2 ^ fldN q.qcfg 0 5 && sub48 q.qtail q.qhead ≤ sub48 v q.qhead then
    if q.head.isNone && q.qtail = q.qhead then { q with qtail := low48 v, became := now, readAt := at_ } else { q with qtail := low48 v }
  else q
/-- QTAIL WRITE (R297): ignored when it would pass the ring or move backward. -/
def execQtailWrite (part queue : Nat) (v : Word64) (s : State) : Res :=
  if s.pageServes part && queue < 16 then .next (s.setQueue part queue ((s.queue part queue).writeTail v s.now s.soon)).bump else .next s
/-- A queue at its enabling write (R296). -/
def Queue.enable (q : Queue) (v : Word64) : Queue :=
  { q with qcfg := qcfgBits v, qtail := 0, qhead := 0, ctail := 0, chead := 0, lcount := 0, head := none, asked := none }
/-- QCFG ENABLE: en from 0 to 1 clears the counters (R296); not while the queue drains (R398). -/
def execQcfgEnable (part queue : Nat) (v : Word64) (s : State) : Res :=
  let q := s.queue part queue
  if s.pageServes part && queue < 16 && qcfgTaken v && bit v 63 && !q.enabled && !q.drains then .next (s.setQueue part queue (q.enable v))
  else .next s
/-- A queue at its disabling write (R398): its head's groups that are not placed are discarded, without completion records. -/
def Queue.disable (q : Queue) : Queue :=
  { q with qcfg := q.qcfg &&& ~~~(0x8000000000000000 : Word64), head := none, asked := none, grps := q.grps.filter fun g => !g.unplaced }
/-- QCFG DISABLE: en from 1 to 0 (R398); the other bits keep their values while en = 1 (R296). -/
def execQcfgDisable (part queue : Nat) (v : Word64) (s : State) : Res :=
  let q := s.queue part queue
  if s.pageServes part && queue < 16 && qcfgTaken v && !bit v 63 && q.enabled then .next (s.setQueue part queue q.disable) else .next s
/-- QCFG CONFIG: a write that leaves en as it is takes effect only while en = 0 and the queue does not drain (R296, R398). -/
def execQcfgConfig (part queue : Nat) (v : Word64) (s : State) : Res :=
  let q := s.queue part queue
  if s.pageServes part && queue < 16 && qcfgTaken v && !bit v 63 && !q.enabled && !q.drains then
    .next (s.setQueue part queue { q with qcfg := qcfgBits v })
  else .next s
/-- CHEAD WRITE (R295, R398): always taken. -/
def execCheadWrite (part queue : Nat) (v : Word64) (s : State) : Res :=
  if s.pageServes part && queue < 16 then .next (s.setQueue part queue { s.queue part queue with chead := low48 v }) else .next s

def State.setRingRegs (s : State) (part : Nat) (e : EventRing) : State := s.setPart part { s.part part with ring := e }
/-- The bits of `ecfg` that a write can set, and whether its size is in range (R315). -/
def ecfgBits (v : Word64) : Word64 := v &&& 0x800000000000001f
def ecfgTaken (v : Word64) : Bool := 4 ≤ fldN v 0 5 && fldN v 0 5 ≤ 16
/-- ECFG ENABLE: en from 0 to 1 clears the counters, and the entries written before hold no record any more (R315). -/
def execEcfgEnable (part : Nat) (v : Word64) (s : State) : Res :=
  let e := (s.part part).ring
  if s.pageServes part && ecfgTaken v && bit v 63 && !bit e.ecfg 63 then
    .next (s.setRingRegs part { e with ecfg := ecfgBits v, etail := 0, ehead := 0, elost := 0, brks := [], brkAt := max e.brkAt s.soon }).bump
  else .next s
/-- ECFG DISABLE: a write with en = 0: while en = 1 it keeps the size, while en = 0 it sets it (R315). -/
def execEcfgDisable (part : Nat) (v : Word64) (s : State) : Res :=
  let e := (s.part part).ring
  if s.pageServes part && ecfgTaken v && !bit v 63 then
    .next (s.setRingRegs part { e with ecfg := if bit e.ecfg 63 then e.ecfg &&& ~~~(0x8000000000000000 : Word64) else ecfgBits v })
  else .next s
/-- EHEAD WRITE (R315). -/
def execEheadWrite (part : Nat) (v : Word64) (s : State) : Res :=
  let e := (s.part part).ring
  if s.pageServes part then .next (s.setRingRegs part { e with ehead := low48 v, brkAt := max e.brkAt s.soon }).bump else .next s
/-- The context that an entry of the ring names, while it is still frozen on its BRK (R315, R338). -/
def State.brkOf (s : State) (part entry : Nat) : Option (Nat × Nat) :=
  match (s.part part).ring.brks.reverse.find? fun b => b.1 = entry % 2 ^ 48 with
  | some (_, core, slot) => if (s.ctx (Machine.ck core slot)).frozenOn = some 8 && s.live core slot then some (core, slot) else none
  | none => none
/-- The record of an entry is settled. -/
def State.brkGone (s : State) (part entry : Nat) : State :=
  let e := (s.part part).ring
  s.setRingRegs part { e with brks := e.brks.filter fun b => b.1 ≠ entry % 2 ^ 48 }
/-- EBRK CONTINUE (R315, R338): the host releases a BRK context, which continues. -/
def execEbrkContinue (part entry : Nat) (s : State) : Res :=
  match if s.pageServes part then s.brkOf part entry else none with
  | some (core, slot) => .next ((s.brkGone part entry).goOn core slot)
  | none => .next s
/-- EBRK TERMINATE (R315, R338): its group ends with status 0x88. -/
def execEbrkTerminate (part entry : Nat) (s : State) : Res :=
  match if s.pageServes part then s.brkOf part entry else none with
  | some (core, slot) =>
    let p := (s.ctx (ck core slot)).place
    .next ((s.brkGone part entry).terminateGang p.part p.tree 0x88)
  | none => .next s

/-- A whole write to a queue register (R295, R296). -/
def State.writeQueueReg (s : State) (part queue off : Nat) (v : Word64) : State :=
  let q := s.queue part queue
  let put (x : Queue) : State := s.setQueue part queue x
  match off with
  | 0x00 => if q.enabled || q.drains then s else put { q with qbase := v &&& 0xfffffffff80 }
  | 0x08 =>
    if !qcfgTaken v || q.drains then s
    else if bit v 63 then (if q.enabled then s else put (q.enable v))
    else if q.enabled then put q.disable else put { q with qcfg := qcfgBits v }
  | 0x10 => (put (q.writeTail v s.now s.soon)).bump
  | 0x20 => if q.enabled || q.drains then s else put { q with cbase := v &&& 0xffffffffff0 }
  | 0x30 => put { q with chead := low48 v }
  | _ => s
/-- A whole write to an event-ring register (R315). -/
def State.writeRingReg (s : State) (part off : Nat) (v : Word64) : State :=
  let e := (s.part part).ring
  let run (r : Res) : State := match r with
    | .next t => t
    | _ => s
  match off with
  | 0x400 => if bit e.ecfg 63 then s else s.setRingRegs part { e with ebase := v &&& 0xfffffffff00 }
  | 0x408 => if bit v 63 then run (execEcfgEnable part v s) else run (execEcfgDisable part v s)
  | 0x418 => run (execEheadWrite part v s)
  | 0x428 => if bit v 63 then run (execEbrkTerminate part (fldN v 0 48) s) else run (execEbrkContinue part (fldN v 0 48) s)
  | _ => s
/-- REGISTER WRITE at a BAR0 offset (R294): narrower and misaligned writes, and writes that no register takes, are ignored. -/
def execRegisterWrite (offset size : Nat) (v : Word64) (s : State) : Res :=
  let page := offset / 0x1000
  let off := offset % 0x1000
  if size ≠ 8 || offset % 8 ≠ 0 || page = 0 || !s.pageServes (page - 1) then .next s
  else if off < 0x400 then .next (s.writeQueueReg (page - 1) (off / 64) (off % 64) v)
  else .next (s.writeRingReg (page - 1) off v)
/-- The value of a BAR0 register (R294, R295, R315, R319). -/
def State.barRegister (s : State) (offset : Nat) : Word64 :=
  let page := offset / 0x1000
  let off := offset % 0x1000
  if offset = 0 then BitVec.ofNat 64 s.control.svc
  else if page = 0 || !s.pageServes (page - 1) then 0
  else if off < 0x400 then
    let q := s.queue (page - 1) (off / 64)
    match off % 64 with
    | 0x00 => q.qbase
    | 0x08 => q.qcfg
    | 0x10 => q.qtail
    | 0x18 => q.qhead
    | 0x20 => q.cbase
    | 0x28 => q.ctail
    | 0x30 => q.chead
    | _ => q.lcount
  else
    let e := (s.part (page - 1)).ring
    match off with
    | 0x400 => e.ebase
    | 0x408 => e.ecfg
    | 0x410 => e.etail
    | 0x418 => e.ehead
    | 0x420 => e.elost
    | _ => 0
/-- A host read of BAR0 (R294): an aligned narrower read gives the addressed bytes, a misaligned one 0. -/
def State.barRead (s : State) (offset size : Nat) : Nat :=
  if (size = 1 || size = 2 || size = 4 || size = 8) && offset % size = 0 then
    ((s.barRegister (offset / 8 * 8)).toNat >>> (8 * (offset % 8))) % 2 ^ (8 * size)
  else 0

/-- The issuer of a host access (R341). -/
def hostWho (part : Nat) : Who := { unit := 5, core := 0, slot := 0, ch := 0, part, queue := 0, tree := 0, tick := 0, chip := 0 }
/-- A host access to a frame without a valid entry is parked at the host port's unit as S2FAULT with unit 5 (R314, R345, R384); without a record
while the buffer is full, to be offered again (R342). -/
def State.hostPark (s : State) (part frame : Nat) (i : Instr) : State :=
  let (s, id) := s.recordFault 0 0x12 0 (hostWho part) 0 40 0 (BitVec.ofNat 64 frame)
    (BitVec.ofNat 64 (fldN (s.s2entry part frame) 0 32)) 0 true [] [(i, [])] frame
  let w : Waiting := ⟨i, [], if id = 0 then some (s.now + 1) else none, [], some (40, 0, 0), [(40, 0, 0)]⟩
  let s : State := { s with delayed := w :: s.delayed }
  if id = 0 then s.later 1 i [] else s
/-- Bytes that the host writes from an offset of a device frame; an access lies in one frame (R314). -/
def State.hostWrite (s : State) (frame off : Nat) (bytes : List Byte) : State :=
  { s with mem := s.mem.writeN (frame * 65536 + off) (bytes.take (65536 - off)) }
/-- The host access in hand as its unit has kept it, when it is replayed (R343). -/
def State.hostReplay (s : State) (i : Instr) : Option Waiting :=
  s.delayed.find? fun w => w.event = i && w.subject = [] && w.till.any (· ≤ s.now)
/-- HOST CXL.MEM ACCESS (R314, R342, R347, R384): an access of one frame, of up to 64 bytes, is performed and completes, or is parked; while the
unit's park is full, the unit does not accept it. -/
def execHostCxlMemAccess (part addr : Nat) (write : Bool) (bytes : List Byte) (s : State) : Res :=
  let i : Instr := .hostCxlMemAccess part addr write bytes
  let kept := s.hostReplay i
  if !(s.part part).configured then .next s
  else if kept.isNone && s.parkFull 40 then .next (s.later 1 i [])
  else
    let s : State := { s with delayed := kept.toList.foldl List.erase s.delayed }
    match s.s2 part (addr / 65536) with
    | some f =>
      let off := addr % 65536
      if write then .next ((s.hostWrite f off bytes).hostCompletes part addr true [] false)
      else .next (s.hostCompletes part addr false (s.mem.readN (f * 65536 + off) (min bytes.length (65536 - off))) false)
    | none => .next (s.hostPark part (addr / 65536) i)

end Sys2Proof.Machine
end

