-- ==== Sys2Proof/Machine/Postings.lean ====
section
/-! DEFINITION. Posting-list engines: queries, decoding, scoring, fusion, top k, results (R25, R267-R282, R356). -/
namespace Sys2Proof.Machine
open Sys2Proof

/-- Entry m of rows that hold 8-byte entries (R273). -/
def entry64 (rows : List Row) (m : Nat) : Word64 := rowWord (rows.getD (m / 16) 0) (m % 16)

/-! The header row (R273). -/

def qMode (h : Row) : Nat := fldN h 62 2
def qFuse (h : Row) : Nat := fldN h 60 2
def qTerms (h : Row) : Nat := fldN h 53 7
def qCands (h : Row) : Nat := fldN h 40 13
def qK (h : Row) : Nat := fldN h 30 10 + 1
def qDepth (h : Row) : Nat := fldN h 20 10 + 1
def qK1 (h : Row) : Nat := fldN h 64 32
def qB (h : Row) : Nat := fldN h 96 32
def qAvg (h : Row) : Nat := fldN h 128 32
def qAlpha (h : Row) : Nat := fldN h 160 32
def qBeta (h : Row) : Nat := fldN h 192 32
def qC (h : Row) : Nat := fldN h 224 32
/-- Whether the header row breaks R273 (R356 code 1). -/
def headerBreaks (h : Row) : Bool :=
  1 < qMode h || 1 < qFuse h || (if qMode h = 1 then 8 else 64) < qTerms h || 4096 < qCands h || fldN h 0 8 ≠ 0 || fldN h 256 768 ≠ 0 ||
  (if qFuse h = 0 then fldN h 20 10 ≠ 0 || qC h ≠ 0 else qAlpha h ≠ 0 || qBeta h ≠ 0)
/-- Whether the td slots break R267, or name a compressed tensor (R78, R356 code 4). -/
def slotsBreak (q : Query) : Bool :=
  let ok (f : Fmt) (d : Option Desc) (owned : Bool) : Bool := match d with
    | some d => dEfmt d ≠ 15 && !dCmp d && dFmt d = f && dRank d = 1 && (dRole d = roleI || (owned && dRole d = roleO && dOwner d = q.who.gang))
    | none => false
  !(ok .n8 q.tdp false && ok .n8 q.tdd false && ok .n32 q.tdl true)

/-! Issue and acceptance (R25, R272, R274). -/

def State.setPle (s : State) (ple : Nat) (l : List Query) : State :=
  let d := s.die (ple / 6)
  s.setDie (ple / 6) { d with ple := Sp.put [] d.ple ple l }
def State.ple (s : State) (ple : Nat) : List Query := Sp.get [] (s.die (ple / 6)).ple ple
/-- `pl.q` (R272, R274): the rows are captured and guarded, and the submission goes to the engine of the core's home slice strip; it
arrives after those that the context issued before. -/
def execPlQ (o : QueryOp) (s : State) : Res :=
  let (qr, cr, rr) := s.queryRows o
  let h := s.snapRow (qr.headD 0)
  let id := s.fresh
  let core := s.cur.core
  let slot := s.cur.slot
  let ple := corePle core
  let c := { s.newCmd (.plQ o) o.ch.toNat 1 with base := qr.headD 0, dest := rr }
  let l := s.ple ple
  let at_ := l.foldl (fun t q => if q.core = core && q.slot = slot then max t q.at_ else t) (s.now + 1 + Config.duration s.fresh)
  let me := s.me
  let q : Query :=
    { cmd := id, core, slot, who := me.who 4 core slot o.ch.toNat s.tick, at_, rows := qr.map s.snapRow, cands := cr.map s.snapRow,
      tdp := s.tdSlot (fldN h 16 4), tdd := s.tdSlot (fldN h 12 4), tdl := s.tdSlot (fldN h 8 4),
      after := me.fencePl.filter (s.inProgress core slot), taken := false, code := 0 }
  let s := (((s.guardRows qr false id).guardRows cr false id).guardRows rr true id).launch c
  .next (s.travels.setPle ple (l ++ [q]))
/-- Whether submission a is accepted before b: arrival, then lower core (R25); between two of one core, the one issued first (log 75). -/
def plBefore (a b : Query) : Bool := a.at_ < b.at_ || (a.at_ = b.at_ && a.core < b.core)
/-- The submission that an engine accepts next, in the order of arrival (R25): none while it performs one. -/
def State.plNext (s : State) (ple : Nat) : Option Query :=
  let l := s.ple ple
  if l.any Query.taken then none
  else (l.filter fun q => q.at_ ≤ s.now).foldl (fun (b : Option Query) q => match b with
    | some x => if plBefore q x then some q else some x
    | none => some q) none
/-- PL QUERY ACCEPT (R25, R274, R356): the header is checked, and the rows have been read. -/
def execPlQueryAccept (ple : Nat) (s : State) : Res :=
  match s.plNext ple with
  | none => .next s
  | some q =>
    let code := if headerBreaks (q.rows.headD 0) then 1 else if slotsBreak q then 4 else 0
    let put (x : Query) : Query := if x.cmd = q.cmd then { x with taken := true, code } else x
    let s := s.setPle ple ((s.ple ple).map put)
    let h := s.core q.core
    let s := s.setCore q.core { h with guards := h.guards.filter fun g => g.pend || g.cause ≠ q.cmd }
    .next (s.sometime (.plQueryComplete ple) [])

/-! Reading the index (R267-R271). -/

/-- What reading an index gives: a value, or the code of a refusal (R356). -/
abbrev PlRes (α : Type) := State × (α ⊕ Nat)
/-- n elements of a rank-1 tensor from an index; one at or beyond its dimension is refused as EXTENT (R345, R356). -/
def State.indexRun (s : State) (w : Who) (d : Desc) (off n : Nat) : State × Option (List Nat) :=
  if dDim d 0 < off + n then
    let c := max off (dDim d 0)
    (s.bump.unitRefuse w d (luOf s.control.chip d (c / dElems d)) (c / dElems d) 0x14 0 0 (BitVec.ofNat 64 c) 0, none)
  else s.readRun w d off n
/-- n bytes of an n8 tensor from a byte offset. -/
def State.indexBytes (s : State) (w : Who) (d : Option Desc) (off n : Nat) : PlRes (List Byte) :=
  match d with
  | none => (s, .inr 4)
  | some d => match s.indexRun w d off n with
    | (s, some l) => (s, .inl (l.map (BitVec.ofNat 8)))
    | (s, none) => (s, .inr 3)
/-- A field of the payload (R269). -/
def field (p b w : Nat) : Nat := (p >>> b) % 2 ^ w
def ceilDiv (a b : Nat) : Nat := (a + b - 1) / b
/-- Document ids of a block from the one before (R269). -/
def gapIds (p dw : Nat) : Nat → Nat → Nat → List Nat
  | 0, _, _ => []
  | n + 1, i, prev => let id := prev + field p (i * dw) dw + 1; id :: gapIds p dw n (i + 1) id
/-- Decode a block (R268, R269) with its directory entry (R271): its postings, or none when it breaks the rules; `tail` the id before it,
`last` whether it is the list's last block. -/
def decodePosting (ent hdr payload : Nat) (last : Bool) (floor : Option Nat) : Option (List (Nat × Nat)) :=
  let f (x off w : Nat) : Nat := (x >>> off) % 2 ^ w
  let n := f hdr 73 7 + 1
  let dw := f hdr 64 5
  let fw := f hdr 69 4
  let plen := f hdr 96 16
  let fb := 8 * ceilDiv ((n - 1) * dw) 8
  let ids := f hdr 0 32 :: gapIds payload dw (n - 1) 0 (f hdr 0 32)
  let freqs := (List.range n).map fun i => field payload (fb + i * fw) fw + 1
  let spare := (payload >>> ((n - 1) * dw)) % 2 ^ (fb - (n - 1) * dw) ≠ 0 || payload >>> (fb + n * fw) ≠ 0
  let bad := hdr >>> 112 ≠ 0 || ent >>> 120 ≠ 0 || f ent 104 16 ≠ f hdr 80 16 || f ent 0 64 ≠ f hdr 0 64 || (!last && n ≠ 128) ||
    plen ≠ ceilDiv ((n - 1) * dw) 8 + ceilDiv (n * fw) 8 || spare || ids.getLastD 0 ≠ f hdr 32 32 || 0xfffffffe < ids.getLastD 0 ||
    (match floor with
      | some x => f hdr 0 32 ≤ x
      | none => false)
  if bad then none else some (ids.zip freqs)
/-- The blocks of a list from directory entry e: n of them left. -/
def State.readBlocks (q : Query) : Nat → Nat → Option Nat → State → PlRes (List (Nat × Nat))
  | 0, _, _, s => (s, .inl [])
  | n + 1, e, floor, s =>
    match s.indexBytes q.who q.tdd (16 * e) 16 with
    | (s, .inr c) => (s, .inr c)
    | (s, .inl eb) =>
      let ent := ofBytesLE eb
      let off := (ent >>> 64) % 2 ^ 40
      if off % 16 ≠ 0 then (s, .inr 2)
      else match s.indexBytes q.who q.tdp off 16 with
        | (s, .inr c) => (s, .inr c)
        | (s, .inl hb) =>
          let hdr := ofBytesLE hb
          let pad := 16 * ceilDiv ((hdr >>> 96) % 2 ^ 16) 16
          match s.indexBytes q.who q.tdp (off + 16) pad with
          | (s, .inr c) => (s, .inr c)
          | (s, .inl pb) =>
            match decodePosting ent hdr (ofBytesLE pb) (n = 0) floor with
            | none => (s, .inr 2)
            | some ps =>
              match State.readBlocks q n (e + 1) ((List.getLast? ps).map Prod.fst) s with
              | (s, .inl r) => (s, .inl (ps ++ r))
              | (s, .inr c) => (s, .inr c)
/-- The posting lists of the terms, with their weights. -/
def State.readLists (q : Query) : List Word64 → State → PlRes (List (Nat × List (Nat × Nat)))
  | [], s => (s, .inl [])
  | t :: r, s =>
    let dir := fldN t 0 32
    match s.indexBytes q.who q.tdd (16 * dir) 16 with
    | (s, .inr c) => (s, .inr c)
    | (s, .inl hb) =>
      let n := ofBytesLE hb % 2 ^ 32
      if n = 0 then (s, .inr 2)
      else match s.readBlocks q n (dir + 1) none with
        | (s, .inr c) => (s, .inr c)
        | (s, .inl ps) =>
          match State.readLists q r s with
          | (s, .inl l) => (s, .inl ((fldN t 32 32, ps) :: l))
          | (s, .inr c) => (s, .inr c)
/-- Lengths of documents. -/
def State.readLengths (q : Query) : List Nat → State → PlRes (List (Nat × Nat))
  | [], s => (s, .inl [])
  | d :: r, s =>
    match q.tdl with
    | none => (s, .inr 4)
    | some t => match s.indexRun q.who t d 1 with
      | (s, none) => (s, .inr 3)
      | (s, some l) => match State.readLengths q r s with
        | (s, .inl m) => (s, .inl ((d, l.headD 0) :: m))
        | (s, .inr c) => (s, .inr c)

/-! Matching, scoring, fusion (R275-R278). -/

def add32 (x y : Nat) : Nat := (fAdd .f32 x y).1
def mul32 (x y : Nat) : Nat := (fMul .f32 x y).1
def div32 (x y : Nat) : Nat := (fDiv .f32 x y).1
def one32 : Nat := 0x3f800000
/-- The kept candidates, in stream order, and the count of duplicates (R275). -/
def keepCands : List Word64 → List (Nat × Nat) → Nat → List (Nat × Nat) × Nat
  | [], l, n => (l, n)
  | w :: r, l, n =>
    let id := fldN w 0 32
    if id = 0xffffffff then keepCands r l n
    else if l.any fun e => e.1 = id then keepCands r l (n + 1) else keepCands r (l ++ [(id, fldN w 32 32)]) n
/-- The lexically matched documents (R275). -/
def matchedDocs (mode : Nat) (lists : List (Nat × List (Nat × Nat))) : List Nat :=
  let ids := lists.map fun l => l.2.map Prod.fst
  match mode, ids with
  | _, [] => []
  | 0, l => l.flatten.eraseDups
  | _, l :: r => l.filter fun d => r.all fun m => m.contains d
/-- BM25 of a document (R276). -/
def lexScore (h : Row) (lists : List (Nat × List (Nat × Nat))) (d dl : Nat) : Nat :=
  let w := (fSub .f32 one32 (qB h)).1
  let kp1 := add32 (qK1 h) one32
  let s := add32 w (mul32 (qB h) (div32 (natF32 dl) (qAvg h)))
  let kd := mul32 (qK1 h) s
  let cons := lists.filterMap fun l => (l.2.find? fun e => e.1 = d).map fun e =>
    let f := natF32 e.2
    mul32 l.1 (div32 (mul32 f kp1) (add32 f kd))
  match cons with
  | [] => 0
  | c :: r => r.foldl add32 c
/-- Ranking: greater first by R102, NaN last, equal values by the smaller id (R278). -/
def scoreBefore (a b : Nat × Nat) : Bool :=
  let x := decodeNum .f32 a.2
  let y := decodeNum .f32 b.2
  match x.isNan, y.isNan with
  | true, true => a.1 ≤ b.1
  | true, false => false
  | false, true => true
  | false, false => y.lt x || (!x.lt y && a.1 ≤ b.1)
def ranked (l : List (Nat × Nat)) : List (Nat × Nat) := sortBy scoreBefore l
def lookup (l : List (Nat × Nat)) (d : Nat) : Option Nat := (l.find? fun e => e.1 = d).map Prod.snd
/-- Fused scores of the eligible documents (R275, R277): lexical and vector scores given. -/
def fusedScores (h : Row) (lex vec : List (Nat × Nat)) : List (Nat × Nat) :=
  if qFuse h = 0 then
    ((lex ++ vec).map Prod.fst).eraseDups.map fun d =>
      (d, add32 (mul32 (qAlpha h) ((lookup lex d).getD 0)) (mul32 (qBeta h) ((lookup vec d).getD 0)))
  else
    let numbered (l : List (Nat × Nat)) : List (Nat × Nat) := (ranked l).zipIdx.map fun (e, i) => (e.1, i + 1)
    let lr := (numbered lex).take (qDepth h)
    let vr := numbered vec
    let term (r : Nat) : Nat := div32 one32 (add32 (qC h) (natF32 r))
    ((lr ++ vr).map Prod.fst).eraseDups.map fun d => match lookup lr d, lookup vr d with
      | some a, some b => (d, add32 (term a) (term b))
      | some a, none => (d, term a)
      | none, some b => (d, term b)
      | none, none => (d, 0)
/-- A score as a result slot holds it (R280). -/
def outScore : Option Nat → Nat
  | none => 0xffffffff
  | some x => if (decodeNum .f32 x).isNan then 0x7fc00000 else x
/-- What a query answers: results as 128-bit slots, duplicates, code (R280, R356). -/
structure PlAnswer where
  slots : List Nat
  dups : Nat
  code : Nat
  deriving DecidableEq, Repr
/-- Perform a query (R275-R278). -/
def State.runQuery (s : State) (q : Query) : State × PlAnswer :=
  let no (s : State) (code : Nat) : State × PlAnswer := (s, ⟨[], 0, code⟩)
  let h := q.rows.headD 0
  if q.code ≠ 0 then no s q.code
  else match s.readLists q ((List.range (qTerms h)).map (entry64 (q.rows.drop 1))) with
    | (s, .inr c) => no s c
    | (s, .inl lists) =>
      match s.readLengths q (matchedDocs (qMode h) lists) with
      | (s, .inr c) => no s c
      | (s, .inl lens) =>
        let lex := lens.map fun e => (e.1, lexScore h lists e.1 e.2)
        let (vec, dups) := keepCands ((List.range (qCands h)).map (entry64 q.cands)) [] 0
        let top := (ranked (fusedScores h lex vec)).take (qK h)
        (s, ⟨top.map fun e => e.1 + outScore (some e.2) * 2 ^ 32 + outScore (lookup lex e.1) * 2 ^ 64 + outScore (lookup vec e.1) * 2 ^ 96, dups, 0⟩)
/-- Result row i of an answer: slots beyond the results hold ones (R280). -/
def resultRow (a : PlAnswer) (i : Nat) : Row := rowOfLanes 128 ((List.range 8).map fun j => a.slots.getD (8 * i + j) (2 ^ 128 - 1))
/-- The status row (R280). -/
def plStatus (a : PlAnswer) : Row := BitVec.ofNat 1024 (a.dups * 2 ^ 32 + a.slots.length * 256 + a.code)
/-- Write the result rows, then the status row, each clearing its guard (R281). -/
def Core.putResults (h : Core) (c : Cmd) : List (Nat × Row) → Core
  | [] => h
  | (r, v) :: l => Core.putResults ((h.cmdWrite c r v allOnes).clearGuard r c.id true) c l
/-- The query that the engine has taken is performed and its results are written. -/
def State.finishQuery (ple : Nat) (s : State) : Res :=
  match (s.ple ple).find? Query.taken with
  | none => .next s
  | some q =>
    let (s, a) := s.runQuery q
    let s := s.setPle ple ((s.ple ple).filter fun x => x.cmd ≠ q.cmd)
    match s.cmd q.cmd with
    | none => .next s
    | some c =>
      let rows := (c.dest.drop 1).zipIdx.map fun (r, i) => (r, resultRow a i)
      let h := (s.core c.core).putResults c (rows ++ [(c.dest.headD 0, plStatus a)])
      .next ((s.setCore c.core h).cmdDone c)
/-- Whether the query that the engine has taken is held before its first access (R230). -/
def State.queryHeld (s : State) (ple : Nat) : Bool := (s.ple ple).any fun q => q.taken && q.after.any (s.inProgress q.core q.slot)
/-- PL QUERY COMPLETE (R275-R281, R356): a query that a `qfence` holds is tried again in the next cycle. -/
def execPlQueryComplete (ple : Nat) (s : State) : Res :=
  if s.queryHeld ple then .next (s.later 1 (.plQueryComplete ple) []) else s.performs (.plQueryComplete ple) (State.finishQuery ple)

end Sys2Proof.Machine
end

