-- ==== Sys2Proof/Machine/Reset.lean ====
section
/-! DEFINITION. Partition reset, and partitions that lose a die (R8, R70, R320, R368). -/
namespace Sys2Proof.Machine
open Sys2Proof

/-! Partition reset (R368). -/

/-- A core after a partition reset: rows, guards, ropes and selector as at reset; the microprogram store stays. -/
def Core.cleared (c : Core) : Core :=
  { Core.reset with store := c.store, routines := c.routines, loaded := c.loaded, lost := c.lost, retired := c.retired }
/-- Work that falls due for a partition's gangs and contexts. -/
def Due.ofPart (d : Due) (part : Nat) (dies : List Nat) : Bool :=
  let on (core : Nat) : Bool := dies.contains (coreDie core)
  match d.work with
  | .micro c _ => on c
  | .event i =>
    match i with
    | .entryRetire c _ => on c
    | .kblockRetire c _ => on c
    | .markerWatchdog c _ => on c
    | .invalidationMarker c _ _ _ => on c
    | .fillRowWrite c _ => on c
    | .xselRowWrite c _ => on c
    | .xformRun c => on c
    | .knotAnnouncement p _ => p = part
    | .knotRelease p _ => p = part
    | .withheldRelease p _ => p = part
    | .knotTimeout => d.subject.head? = some part
    | .knotSecondTimeout => d.subject.head? = some part
    | .terminationTimeout => d.subject.head? = some part
    | .retry => (d.subject.head?).any on
    | .cont => (d.subject.head?).any on
    | .terminate => (d.subject.head?).any on
    | .freeze => (d.subject.head?).any on
    | .tsysNull => (d.subject.head?).any on
    | .communicatorCreate => (d.subject.head?).any on
    | .membershipChange => (d.subject.head?).any on
    | .communicatorDelete => (d.subject.head?).any on
    | .cycleCount => (d.subject.head?).any on
    | .overflowAreaQuery => (d.subject.head?).any on
    | _ => false
/-- The dies' members of collectives have no join left at a switch. -/
def State.leaveSwitches (s : State) (dies : List Nat) : State :=
  (s.fabric.cles.filter fun e => dies.contains (e.1 / 64)).foldl (fun t e => t.leaveSwitch (e.1 / 64) (e.1 % 64)) s
/-- The members of a partition's dies stand still and are cleared, with what their dies hold (R368, steps 1, 2 and 4). -/
def State.clearDies (s : State) (dies : List Nat) : State :=
  let on (core : Nat) : Bool := dies.contains (coreDie core)
  let clean (e : Nat × Die) : Nat × Die := if dies.contains e.1 then (e.1, { e.2 with se := Se.reset, faults := [], backlog := [], ple := [] }) else e
  let cle (e : Nat × Cle) : Nat × Cle := if dies.contains (e.1 / 64) then (e.1, { e.2 with subs := [], cur := none, round := 0, closed := [] }) else e
  let s := (s.ackMarkers ((s.ctxs.filter fun e => on (e.1 / 4)).flatMap fun e => e.2.markers)).dropDue fun c => on c.1
  { s with
    cores := s.cores.map fun e => if on e.1 then (e.1, e.2.cleared) else e
    ctxs := s.ctxs.filter fun e => !on (e.1 / 4)
    dies := (s.dies.map clean).filter fun e => e.2 ≠ Die.reset
    cmds := s.cmds.filter fun c => !on c.core
    seReqs := s.seReqs.filter fun r => !on r.core
    fabric := { s.fabric with cles := (s.fabric.cles.map cle).filter fun e => e.2 ≠ Cle.reset } }
/-- Whether an event of an engine that waits goes with a partition's reset. -/
def State.dropsWaiting (s : State) (part : Nat) (dies : List Nat) (w : Waiting) : Bool :=
  match w.event with
  | .chunkSendStart die _ => dies.contains die
  | .collectiveStart die _ => dies.contains die
  | .membershipApply die _ => dies.contains die
  | .spareJoin die _ _ => dies.contains die
  | .plQueryComplete ple => dies.contains (ple / 6)
  | .switchReduce _ _ => cPart (s.comm 0 (w.subject.headD 0)).entry = part
  | .copyChunkArrival m => (s.packet m).isNone
  | .routedRowArrival m => (s.packet m).isNone
  | .routedRowSend m => (s.packet m).isNone
  | .recastRewrite cmd => (s.cmd cmd).isNone
  | .hostCxlMemAccess p _ _ _ => p = part
  | _ => false
/-- What a partition reset does after its record: queues disabled, their sizes at the values of R296 and without further records, packets,
accesses and cached translations dropped, the dies cleared; memory, tables, communicator entries and splice log stay (R8, R70, R368). -/
def State.dropPartition (s : State) (part : Nat) : State :=
  let p := s.part part
  let off (q : Queue) : Queue := { q with qcfg := 0, head := none, grps := [], asked := none, recordAsked := false }
  let queues := (p.queues.map fun e => (e.1, off e.2)).filter fun e => e.2 ≠ Queue.reset
  let s := s.setPart part { p with queues, gangs := [], saved := [], gen := 0, deciding := none, asked := none, ring := { p.ring with brks := [], waiting := [] } }
  let s := (s.leaveSwitches p.cfg.dies).clearDies p.cfg.dies
  { s with
    accesses := s.accesses.filter fun a => a.who.part ≠ part
    fabric := { s.fabric with msgs := s.fabric.msgs.filter fun m => m.part ≠ part
                              beats := s.fabric.beats.filter fun b => b.part ≠ part
                              replays := s.fabric.replays.filter fun r => !p.cfg.dies.contains r.die
                              recasts := s.fabric.recasts.filter fun r => r.part ≠ part
                              cache := s.fabric.cache.filter fun c => c.part ≠ part }
    delayed := s.delayed.filter fun w => !s.dropsWaiting part p.cfg.dies w
    pending := s.pending.filter fun d => !d.ofPart part p.cfg.dies
    turn := s.turn.filter fun c => !p.cfg.dies.contains (coreDie c) }
/-- A partition reset by the host or by firmware: the PRESET record, then the rest (R368). -/
def State.resetPartition (s : State) (part sub : Nat) : State :=
  (s.fabricEvent (s.part part).cfg.first part 0x24 sub 0 0 0 0 0 0 0).dropPartition part
/-- A partition that holds a fenced die is absent: its groups end without records, and it is no longer configured (R320; log 71). -/
def State.unconfigure (s : State) (part : Nat) : State :=
  let s := s.dropPartition part
  s.setPart part Part.reset
/-- No partition holds a fenced die (R320). -/
def State.unconfigureFenced (s : State) : State :=
  [0, 1, 2, 3].foldl (fun t (p : Nat) => if (t.part p).cfg.dies.any t.control.fencedDies.contains then t.unconfigure p else t) s
/-- PARTITION RESET, on a partition and a sub-code: 0 the host asks, 1 firmware does (R368). -/
def execPartitionReset (s : State) : Res :=
  if (s.part (s.subj 0)).cfg.dies.isEmpty then .next s else .next (s.resetPartition (s.subj 0) (s.subj 1))

end Sys2Proof.Machine
end

