-- ==== Sys2Proof/Machine/Power.lean ====
section
/-! DEFINITION. Arithmetic clock, duties, bring-up, attestation, device reset (R8, R316-R324, R380). -/
namespace Sys2Proof.Machine
open Sys2Proof

/-! The arithmetic clock (R316, R319): `Control.clock` counts eighths of 2.7 GHz. -/

def State.setClock (s : State) (n : Nat) : State := { s with control := { s.control with clock := n } }
/-- The fastest clock: 1.35 GHz in reduced service, else 2.7 GHz. -/
def State.topClock (s : State) : Nat := if s.control.svc = 1 then 4 else 8
/-- Whether a step up is under way. -/
def State.clockRises (s : State) : Bool := s.pending.any fun d => d.work == .event .clockStepUp
/-- SUPPLY SAG (R316): one step down, not below 1.35 GHz; the clock steps back up 1 µs later, 2,700 cycles (R6). -/
def execSupplySag (s : State) : Res :=
  let t := s.setClock (max 4 (s.control.clock - 1))
  .next (if s.clockRises then t else t.later 2700 .clockStepUp [])
/-- CLOCK STEP UP (R316): one step, and the next one a microsecond later. -/
def execClockStepUp (s : State) : Res :=
  if s.control.clock < s.topClock then
    let t := s.setClock (s.control.clock + 1)
    .next (if t.control.clock < t.topClock then t.later 2700 .clockStepUp [] else t)
  else .next s

/-! Duties (R317). -/

/-- Gangs with a member on a die: partition and gang. -/
def State.gangsOn (s : State) (die : Nat) : List (Nat × Nat × Gang) :=
  [0, 1, 2, 3].flatMap fun (p : Nat) => ((s.part p).gangs.filter fun e => e.2.cores.any fun c => coreDie c = die).map fun e => (p, e.1, e.2)
/-- Steps of duty taken from the gangs of each launch priority, the lowest first, out of a total. -/
def dutyCut (prios : List Nat) (total prio : Nat) : Nat :=
  let below := (prios.filter fun q => q < prio).length
  min 15 (total - 15 * below)
/-- DUTY UPDATE, on a die (R317): the control core lowers duties while the estimated power exceeds the die's share, the gangs of lowest
launch priority first, and may raise them else; by how much is open (log 11). R317 does not say what a die's share of the package's limit is: the
model divides the limit equally among the dies that are not fenced (DESIGN CHOICE, log 11). The next update follows 27,000 cycles later. -/
def execDutyUpdate (s : State) : Res :=
  let die := s.subj 0
  if s.control.fencedDies.contains die then .next s
  else
    let gs := s.gangsOn die
    let prios := [0, 1, 2, 3].filter fun q => gs.any fun g => g.2.2.prio = q
    let cutOf (q : Nat) : Nat := (gs.filter fun g => g.2.2.prio = q).foldl (fun m g => max m (16 - g.2.2.duty)) 0
    let old := (prios.map cutOf).foldl (· + ·) 0
    let share := s.control.powerLimit / (4 - s.control.fencedDies.length)
    let free := Config.index s.fresh
    let total := if share < Config.diePower s.fresh then old + free % (15 * prios.length - old + 1) else free % (old + 1)
    let t := gs.foldl (fun t g => t.setGang g.1 g.2.1 { g.2.2 with duty := 16 - dutyCut prios total g.2.2.prio }) s
    .next (t.bump.later 27000 .dutyUpdate [die])

/-! Bring-up (R318-R321, R380). -/

/-- Instances of each boot step (R318). -/
def bootInstances : List Nat := [1, 4, 4, 1, 1, 8, 3, 18, 1]
/-- Place of an instance in the boot-step record. -/
def bootIndex (step inst : Nat) : Nat := (bootInstances.take step).foldl (· + ·) 0 + inst
/-- The instance after one, in the order of R318. -/
def bootNext (step inst : Nat) : Option (Nat × Nat) :=
  if inst + 1 < bootInstances.getD step 0 then some (step, inst + 1) else if step < 8 then some (step + 1, 0) else none
def bootAlternate (step : Nat) : Bool := step = 0 || step = 3 || step = 5
def bootSkip (step : Nat) : Bool := step = 1 || step = 2 || step = 5 || step = 6 || step = 7
/-- Fence a die, and every die east of it; without die 3 no port is left (R380). -/
def Control.fenceDie (c : Control) (d : Nat) : Control :=
  { c with fencedDies := (c.fencedDies ++ [0, 1, 2, 3].filter fun e => d ≤ e).eraseDups, fencedPorts := List.range 18 }
/-- What skipping an instance fences; none where it would fence die 0 (R318, R380). -/
def Control.skipped (c : Control) (step inst : Nat) : Option Control :=
  match step with
  | 5 => some { c with fencedStacks := (inst :: c.fencedStacks).eraseDups }
  | 6 => some (c.fenceDie (inst + 1))
  | 7 => some { c with fencedPorts := (inst :: c.fencedPorts).eraseDups }
  | _ => if inst = 0 then none else some (c.fenceDie inst)
/-- Whether an instance's unit is absent, because it or its die is fenced (R320). -/
def Control.absent (c : Control) (step inst : Nat) : Bool :=
  match step with
  | 1 | 2 => c.fencedDies.contains inst
  | 5 => c.fencedStacks.contains inst || c.fencedDies.contains (inst / 2)
  | 6 => c.fencedDies.contains (inst + 1)
  | 7 => c.fencedPorts.contains inst
  | _ => false
def bootFails (e : Word64) : Nat := fldN e 40 8
/-- An entry as firmware updates it after its step (R321). -/
def bootEntry (step inst fails result next count : Nat) : Word64 :=
  pack [(56, step), (48, inst), (40, min 255 fails), (36, result), (32, next), (0, count % 2 ^ 32)]
def State.putBoot (s : State) (step inst fails result next : Nat) : State :=
  { s with control := { s.control with boot := s.control.boot.set (bootIndex step inst) (bootEntry step inst fails result next s.control.bootCount) } }
/-- A BOOT record, which concerns no partition; die 0 reports (R361, R362). -/
def State.bootRecord (s : State) (sub step inst : Nat) : State :=
  s.dieEvent 0 0x2a sub 0 0 (pack [(8, step), (0, inst)]) 0
/-- The boot stops (R380). -/
def State.bootStops (s : State) (step inst : Nat) : State :=
  let t := s.bootRecord 2 step inst
  { t with control := { t.control with svc := 3, bootAt := none } }
/-- A new lower HSS tree, signed with the next top leaf while there is one (R324). -/
def Control.newTree (c : Control) : Control :=
  if c.hssTop < 2 ^ 20 then { c with hssTop := c.hssTop + 1, hssLeaf := 0 } else c
/-- What measurement n covers (R323), as bytes whose layout the manual does not give: the firmware image that the boot has taken; the transform
cores' routines; the microprogram stores and routine tables; partitions and communicators; the boot-step record, little-endian (log 10). -/
def State.measured (s : State) (n : Nat) : List Byte :=
  let backup := fldN (s.control.boot.getD 0 0) 36 4 = 3
  let words (l : Sp Word64) : List Nat := l.flatMap fun e => [e.1, e.2.toNat]
  match n with
  | 1 => Config.firmwareImage (if backup then 1 else 0)
  | 2 => Config.measuredBytes 2 (s.control.xtable ++ s.control.xcode.map BitVec.toNat)
  | 3 => Config.measuredBytes 3 (s.cores.flatMap fun e => e.1 :: words e.2.store ++ e.2.routines.flatMap fun r => [r.1, r.2.getD 2048])
  | 4 =>
    let cfg (c : PartCfg) : List Nat := [c.first, c.s2base, c.s2len, c.age, c.ktime] ++ c.dies ++ c.saveArea ++ c.overflow.flatMap fun o => [o.1, o.2.1, o.2.2]
    let comm (e : Nat × Comm) : List Nat :=
      let w := e.2.entry
      [e.1, w.toNat, e.2.tj, e.2.tc] ++ (List.range (cSlots w)).map fun i => (s.slotWord (cPart w) (cMtab w) i).toNat
    Config.measuredBytes 4 ([0, 1, 2, 3].flatMap (fun (p : Nat) => cfg (s.part p).cfg) ++ s.fabric.comms.flatMap comm)
  | _ => s.control.boot.flatMap fun w => bytesLE 8 w.toNat
/-- Firmware loads the transform cores' routines and their table, when their image is signed (R225, R322). -/
def Control.loadTransform (c : Control) : Control :=
  let ok := Config.signatureValid Config.transformImage && Nat.ble c.rollback (Config.securityVersion Config.transformImage)
  { c with xcode := if ok then (Config.transformCode Config.transformImage).take 4096 else []
           xtable := if ok then ((Config.transformTable Config.transformImage).take 64).map (· % 4096) else [] }
/-- Firmware takes the routines of its own configuration, when they are signed (R201, R322; log 66). -/
def Control.loadMatrix (c : Control) : Control :=
  let bytes := Config.firmwareRoutines.flatMap fun e => bytesLE 8 e.1 ++ e.2.flatMap fun w => bytesLE 8 w.toNat
  let ok := Config.signatureValid bytes && Nat.ble c.rollback (Config.securityVersion bytes)
  { c with mroutines := if ok then Config.firmwareRoutines else [] }
/-- The alias key of the boot (R324). -/
def State.deriveAlias (s : State) : State :=
  { s with control := { s.control with alias_ := Config.aliasKey (s.measured 1 ++ s.measured 2 ++ s.measured 3) } }
/-- Whether both signatures of an image verify and its security version is not below the store's rollback value (R322). -/
def State.imageTaken (s : State) (image : List Byte) : Bool :=
  Config.signatureValid image && Nat.ble s.control.rollback (Config.securityVersion image)
/-- Whether an instance passes, as it is or on its alternate; step 0 takes its firmware image only when it is signed (R318, R322; log 9). -/
def State.bootRuns (s : State) (step inst : Nat) (alt : Bool) : Bool :=
  Config.bootPasses step inst alt s.control.bootCount && (step ≠ 0 || s.imageTaken (Config.firmwareImage (if alt then 1 else 0)))
/-- What a step that has run brings about: control cores, reduced service, full service. -/
def State.bootEffect (s : State) (step inst : Nat) : State :=
  match step with
  | 1 =>
    let s : State := if inst = 0 then ({ s with control := s.control.newTree.loadTransform.loadMatrix } : State).deriveAlias else s
    s.later 27000 .dutyUpdate [inst]
  | 4 => { s with control := { s.control with svc := 1, clock := 4 } }
  | 8 => { s with control := { s.control with svc := 2, clock := 8 } }
  | _ => s
/-- On to the next instance. -/
def State.bootOn (s : State) (step inst : Nat) : State :=
  match bootNext step inst with
  | some (a, b) => ({ s with control := { s.control with bootAt := some (a, b) } } : State).sometime .bootStep [a, b]
  | none => { s with control := { s.control with bootAt := none } }
/-- An instance is skipped, with a result; what it fences is absent (R320). -/
def State.bootSkips (s : State) (step inst fails result next : Nat) : State :=
  match s.control.skipped step inst with
  | some c => (({ s with control := c } : State).unconfigureFenced.putBoot step inst fails result next).bootOn step inst
  | none => (s.putBoot step inst fails result next).bootStops step inst
/-- The alternate of an instance runs (R318, R380). -/
def State.bootAlt (s : State) (step inst fails : Nat) : State :=
  if s.bootRuns step inst true then ((s.putBoot step inst fails 3 2).bootEffect step inst).bootOn step inst
  else
    let next := fldN (s.control.boot.getD (bootIndex step inst) 0) 32 4
    let t := s.bootRecord 1 step inst
    if bootSkip step then t.bootSkips step inst (fails + 1) 1 next else (t.putBoot step inst (fails + 1) 1 next).bootStops step inst
/-- BOOT STEP, on a step and an instance (R318-R321, R380): the instance runs, or its alternate or skip; step 8 waits for the placed
groups to complete, the pre-empted ones among them (R319). -/
def execBootStep (s : State) : Res :=
  let step := s.subj 0
  let inst := s.subj 1
  let e := s.control.boot.getD (bootIndex step inst) 0
  let next := fldN e 32 4
  if s.control.bootAt ≠ some (step, inst) then .next s
  else if s.control.absent step inst then .next (s.bootOn step inst)
  else if step = 8 && [0, 1, 2, 3].any (fun (p : Nat) => !((s.part p).gangs.isEmpty && (s.part p).saved.isEmpty)) then .next (s.later 1 .bootStep [step, inst])
  else if next = 1 && bootSkip step then .next (s.bootSkips step inst (bootFails e) 2 next)
  else if next = 2 && bootAlternate step then .next (s.bootAlt step inst (bootFails e))
  else if s.bootRuns step inst false then
    .next (((s.putBoot step inst (bootFails e) 0 next).bootEffect step inst).bootOn step inst)
  else
    let t := (s.bootRecord 0 step inst).putBoot step inst (bootFails e + 1) 1 next
    .next (if bootAlternate step then t.bootAlt step inst (bootFails e + 1)
      else if bootSkip step then t.bootSkips step inst (bootFails e + 1) 1 next else t.bootStops step inst)
/-- DEVICE RESET (R8, R321, R322, R324): every field takes its reset value, and the boot sequence starts; the flash keeps the boot-step record
and the monotonic counter, the one-time-programmable store its rollback value, and memory keeps its contents. -/
def execDeviceReset (s : State) : Res :=
  let r := State.reset
  let c := { r.control with boot := s.control.boot, bootCount := s.control.bootCount + 1, hssTop := s.control.hssTop, chip := s.control.chip,
                            powerLimit := s.control.powerLimit, rollback := s.control.rollback }
  .next { r with mem := s.mem, control := c, now := s.now, fresh := s.fresh, pending := [⟨s.now, .event .bootStep, [0, 0]⟩] }

/-! Attestation (R323, R324). Codes and fields of SPDM messages that the manual does not print are SPDM 1.2's (log 10). -/

/-- A response leaves on the mailbox. A request that is none for measurements ends their transcript. -/
def State.answers (s : State) (r : List Byte) : State :=
  let c := s.control
  { s with control := { c with mailbox := c.mailbox ++ [r], request := [], transcriptL := [] } }
/-- A response of the negotiation joins the transcript with its request: SPDM's message A. -/
def State.respond (s : State) (r : List Byte) : State :=
  let t := s.answers r
  { t with control := { t.control with transcript := s.control.transcript ++ s.control.request ++ r } }
/-- A response about certificates joins SPDM's message B, which only CHALLENGE signs. -/
def State.respondB (s : State) (r : List Byte) : State :=
  let t := s.answers r
  { t with control := { t.control with transcriptB := s.control.transcriptB ++ s.control.request ++ r } }
/-- Byte n of the request in hand. -/
def State.reqByte (s : State) (n : Nat) : Nat := ((s.control.request[n]?).map BitVec.toNat).getD 0
/-- The head of a response: 1.3 to a request of 1.3, else 1.2 (R323). -/
def State.spdmHead (s : State) (code p1 p2 : Nat) : List Byte :=
  [if s.reqByte 0 = 0x13 then 0x13#8 else 0x12#8, BitVec.ofNat 8 code, BitVec.ofNat 8 p1, BitVec.ofNat 8 p2]
/-- A response whose body the manual leaves open. -/
def State.respondOpen (s : State) (code p1 p2 : Nat) (tail : List Byte) : Res :=
  .next (s.respond (s.spdmHead code p1 p2 ++ Config.spdmBody code s.fresh ++ tail)).bump
/-- A response with the alias key's signature over the digest of a transcript that it ends: message A, what else it covers, the request and the
response (R323, R324). The transcripts of certificates and measurements then start again. -/
def State.respondSigned (s : State) (more body : List Byte) : State :=
  let whole := s.control.transcript ++ more ++ s.control.request ++ body
  let t := s.answers (body ++ Config.signature 0 s.control.alias_ (sha384 whole))
  ({ t with control := { t.control with signedOver := whole, transcriptB := [] } } : State).bump
/-- GET VERSION (R323): SPDM 1.2 and 1.3; new transcripts begin. -/
def execGetVersion (s : State) : Res :=
  let s : State := { s with control := { s.control with transcript := [], transcriptB := [] } }
  .next (s.respond [0x10#8, 0x04#8, 0#8, 0#8, 0#8, 2#8, 0x00#8, 0x12#8, 0x00#8, 0x13#8])
/-- GET CAPABILITIES (R323). -/
def execGetCapabilities (s : State) : Res := s.respondOpen 0x61 0 0 []
/-- NEGOTIATE ALGORITHMS (R323): SHA-384 for measurements (bit 2), ECDSA P-384 (bit 7) and SHA-384 (bit 1), no others (log 10). -/
def execNegotiateAlgorithms (s : State) : Res :=
  .next (s.respond (s.spdmHead 0x63 0 0 ++ bytesLE 2 36 ++ [1#8, 0#8] ++ bytesLE 4 4 ++ bytesLE 4 0x80 ++ bytesLE 4 2 ++ List.replicate 16 0#8))
/-- The chain of a slot; slot 0's ends in the boot's alias key (R324). -/
def State.chain (s : State) (n : Nat) : List Byte := Config.certificateChain n (if n = 0 then s.control.alias_ else 0)
/-- Slots with a provisioned chain. -/
def State.chains (s : State) : List (Nat × List Byte) :=
  ((List.range 8).map fun n => (n, s.chain n)).filter fun e => e.1 = 0 || !e.2.isEmpty
/-- The mask of those slots. -/
def State.slotMask (s : State) : Nat := (s.chains.map fun e => 2 ^ e.1).foldl (· + ·) 0
/-- GET DIGESTS (R324): the SHA-384 digest of each provisioned certificate chain. -/
def execGetDigests (s : State) : Res :=
  let l := s.chains
  .next (s.respondB (s.spdmHead 0x01 0 s.slotMask ++ l.flatMap fun e => sha384 e.2))
/-- GET CERTIFICATE (R323): the portion of a slot's chain that the request names. -/
def execGetCertificate (s : State) : Res :=
  let slot := s.reqByte 0x2 % 16
  let chain := s.chain slot
  let off := s.reqByte 4 + 256 * s.reqByte 5
  let part := (chain.drop off).take (s.reqByte 6 + 256 * s.reqByte 7)
  .next (s.respondB (s.spdmHead 0x02 slot 0 ++ bytesLE 2 part.length ++ bytesLE 2 (chain.length - off - part.length) ++ part))
/-- CHALLENGE (R323): the mask of the slots, the digest of the slot's chain, and the alias key's signature over messages A, B and C. -/
def execChallenge (s : State) : Res :=
  let slot := s.reqByte 0x2 % 16
  let body := s.spdmHead 0x03 slot s.slotMask ++ sha384 (s.chain slot) ++ Config.spdmBody 0x03 s.fresh
  .next (s.respondSigned s.control.transcriptB body)
/-- A measurement block: index and digest. -/
def State.block_ (s : State) (n : Nat) : List Byte :=
  let v := sha384 (s.measured n)
  [BitVec.ofNat 8 n, 1#8] ++ bytesLE 2 (v.length + 3) ++ [BitVec.ofNat 8 (n - 1)] ++ bytesLE 2 v.length ++ v
/-- GET MEASUREMENTS (R323): index 0 asks for their number, 0xff for all of them. With attribute bit 0 the answer is signed, over message A and
every request and answer of the run of measurements that it ends; another answer only joins that run. -/
def execGetMeasurements (s : State) : Res :=
  let n := s.reqByte 3
  let l := if n = 0 then [] else if n = 0xff then [1, 2, 3, 4, 5] else [1, 2, 3, 4, 5].filter (· = n)
  let bs := l.flatMap s.block_
  let signs := s.reqByte 2 % 2 = 1
  let body := s.spdmHead 0x60 (if n = 0 then 5 else 0) (if signs then s.reqByte 36 % 16 else 0) ++ BitVec.ofNat 8 l.length :: bytesLE 3 bs.length ++ bs ++
    Config.spdmBody 0x60 s.fresh
  let c := s.control
  if signs then .next (s.respondSigned c.transcriptL body)
  else
    let t := s.answers body
    .next ({ t with control := { t.control with transcriptB := [], transcriptL := c.transcriptL ++ c.request ++ body } } : State).bump
/-- Whether the request in hand carries Prieri's registry identifier: standard, length, identifier from byte 4 on (R323; log 10). -/
def State.namesPrieri (s : State) : Bool := ((s.control.request.drop 7).take Config.registryId.length) == Config.registryId
/-- VENDOR DEFINED REQUEST (R323, R324): the HSS signature over the transcript digest, with the next leaf of the lower tree; an exhausted
tree is followed by a new one; a spent budget and another identifier are answered by an error. -/
def execVendorDefinedRequest (s : State) : Res :=
  if !s.namesPrieri then .next (s.answers (s.spdmHead 0x7f 1 0)) else
  let s : State := if s.control.hssLeaf < 32768 then s else { s with control := s.control.newTree }
  let leaf := s.control.hssLeaf
  if leaf < 32768 then
    let t : State := { s with control := { s.control with hssLeaf := leaf + 1 } }
    .next (t.answers (s.spdmHead 0x7e 0 0 ++ Config.signature s.control.hssTop leaf (sha384 s.control.signedOver)))
  else .next (s.answers (s.spdmHead 0x7f 1 0))

end Sys2Proof.Machine
end

