-- ==== Sys2Proof/Machine/Storage.lean ====
section
/-! DEFINITION. Partition reset; routers, ports and die boundaries; uncorrectable words (R336, R364, R367-R371, R377-R379). -/
namespace Sys2Proof.Machine
open Sys2Proof

/-! Partition reset (R368). -/

/-- TERMINATION TIMEOUT, on a partition, a tree and the cycle in which termination began (R368): the partition is reset when the group's
channels have not completed. -/
def execTerminationTimeout (s : State) : Res :=
  match s.gangAt (s.subj 0) (s.subj 1) with
  | some g =>
    if (g.ending.map Prod.snd) = some (s.subj 2) && s.cmdsLeft g then .next (s.resetPartition (s.subj 0) 1) else .next s
  | none => .next s

/-! Routers, ports, die boundaries (R369-R371). -/

/-- ROUTER IDLE TIMEOUT, on a router (R369): it powers down after 256 cycles without a packet; a wake in the same cycle wins. -/
def execRouterIdleTimeout (s : State) : Res :=
  let r := s.subj 0
  let wakes := s.pending.any fun d => d.at_ ≤ s.now && d.work == .event .routerWakeNotice && d.subject.head? = some r
  if s.fabric.routerOff.contains r || wakes || s.now < Sp.get 0 s.fabric.routerWoke r + 256 then .next s
  else .next { s with fabric := { s.fabric with routerOff := r :: s.fabric.routerOff } }
/-- ROUTER WAKE NOTICE, on a router (R369): it is on, and its idle count starts again from 0 in the next cycle; packets that have come are
held, never lost. -/
def execRouterWakeNotice (s : State) : Res :=
  .next (s.wakes [s.subj 0])
/-- A boot-step entry takes next := 1 (R370, R371). -/
def State.skipNextBoot (s : State) (step inst : Nat) : State :=
  let c := s.control
  let i := bootIndex step inst
  { s with control := { c with boot := c.boot.set i (setFld (c.boot.getD i 0) 32 4 1) } }
def State.port (s : State) (n : Nat) : Port := Sp.get Port.reset s.fabric.ports n
def State.setPort (s : State) (n : Nat) (p : Port) : State :=
  { s with fabric := { s.fabric with ports := Sp.put Port.reset s.fabric.ports n p } }
/-- A LINK record of a port, with the codewords corrected since the last one and the peer chip, if known (R361, R362). -/
def State.linkRecord (s : State) (sub n : Nat) : State :=
  let p := s.port n
  (s.dieEvent 3 0x25 sub 0 ((Config.portPeer n).getD 0) (BitVec.ofNat 64 n) (BitVec.ofNat 64 p.corrected)).setPort n { p with corrected := 0 }
/-- The cycles of 1 ms that a list holds (R6, R370). -/
def within1ms (now : Nat) (l : List Nat) : List Nat := l.filter fun t => now < t + 2700000
/-- UMTUIC CODEWORD ERROR, on a port and the number of codewords that it has corrected since the last one (R370): the flits of a codeword that
cannot be corrected are resent, ahead of every later one. A port over its limit is retrained; whether that fails is open (log 5), and after
three failures within 1 ms the port is fenced, and collectives lose the chips that no port reaches any more (R373, R385). -/
def execUmtuicCodewordError (s : State) : Res :=
  let n := s.subj 0
  if 18 ≤ n || s.control.fencedPorts.contains n then .next s
  else
    let p := s.port n
    let p := { p with errors := s.now :: within1ms s.now p.errors, corrected := p.corrected + s.subj 1 }
    let s := s.setPort n p
    if p.errors.length ≤ Config.portLimit n then .next s
    else
      let s := s.linkRecord 0 n
      let p := { s.port n with errors := [] }
      if s.chooses then
        let failed := s.now :: within1ms s.now p.failed
        let s := s.bump.setPort n { p with failed }
        if 3 ≤ failed.length then
          let s := (s.linkRecord 1 n).skipNextBoot 7 n
          .next ({ s with control := { s.control with fencedPorts := n :: s.control.fencedPorts } } : State).losePeers
        else .next s
      else .next (s.bump.setPort n p)
/-- The strip at which a beat arrives that has crossed a boundary westward or eastward (R173). -/
def acrossStrip (boundary : Nat) (dir : Bool) : Nat := if dir then 30 * boundary + 29 else 30 * (boundary + 1)
/-- The rope beat of a lane that arrives behind a boundary in this cycle loses its parity. -/
def spoilBeat (now boundary core : Nat) (dir : Bool) (b : Beat) : Beat :=
  if b.core = core && b.dir == dir && b.strip = acrossStrip boundary dir && b.at_ = now then { b with parity := false } else b
/-- D2D CRC ERROR, on a boundary (R371): the flits are resent; whether the boundary is retrained for it is open (log 5). With 1, the
sending core, the direction and the lane position after the boundary, it is the rope beat of that lane which arrives there now: its parity fails,
and it is settled by R364 where it is captured. -/
def execD2dCrcError (s : State) : Res :=
  let b := s.subj 0
  let part := (s.partOf b).getD 0
  if s.subj 1 = 1 then
    let core := s.subj 2
    let s := s.fabricEvent b part 0x26 1 (s.subj 4) 0 0 0 0 (BitVec.ofNat 64 b) (BitVec.ofNat 64 (core % 576))
    .next { s with fabric := { s.fabric with beats := s.fabric.beats.map (spoilBeat s.now b core (decide (s.subj 3 = 1))) } }
  else if s.chooses then .next (s.bump.dieEvent b 0x26 0 0 0 (BitVec.ofNat 64 b) 0)
  else .next s.bump
/-- BOUNDARY FAILURE, on a boundary (R371): the record; every partition that spans it is reset, and the die east of it is fenced at the
next boot. -/
def execBoundaryFailure (s : State) : Res :=
  let b := s.subj 0
  let s := s.dieEvent b 0x26 2 0 0 (BitVec.ofNat 64 b) 0
  let s := [0, 1, 2, 3].foldl (fun t (p : Nat) =>
    if (t.part p).cfg.dies.contains b && (t.part p).cfg.dies.contains (b + 1) then t.resetPartition p 1 else t) s
  .next (s.skipNextBoot 6 b)

/-! Storage (R377-R379). -/

/-- SRAM SCRUB (R377): corrected soft errors are counted in the management registers, outside this manual; nothing else changes. -/
def execSramScrub (s : State) : Res := .next s
/-- An SRAM or DRAM record; the partition that holds the die is the one concerned (R361). -/
def State.storageRecord (s : State) (die code sub core : Nat) (info aux : Word64) : State :=
  match s.partOf die with
  | some p => s.fabricEvent die p code sub core 0 0 0 0 info aux
  | none => s.dieEvent die code sub core 0 info aux
/-- The block field of an SRAM record: kind and index. -/
def blockInfo (kind index : Nat) : Word64 := pack [(48, kind), (0, index % 2 ^ 48)]
/-- Terminate the gangs whose window holds a row (R378). -/
def State.endHolders (s : State) (core row : Nat) : State :=
  [0, 1, 2, 3].foldl (fun t k =>
    let c := t.ctx (Machine.ck core k)
    if c.iss.placed && c.inWindow row then t.terminateGang c.place.part c.place.tree 0xa4 else t) s
/-- A lost row counts against its bank, which is retired at its fourth loss within 2^30 cycles, once (R378). -/
def State.countLoss (s : State) (core row : Nat) : State :=
  let c := s.core core
  let lost := (row % 16, s.now) :: c.lost.filter fun e => s.now < e.2 + 2 ^ 30
  let s := s.setCore core { c with lost }
  if c.retired.isNone && 4 ≤ (lost.filter fun e => e.1 = row % 16).length then
    (s.setCore core { c with lost, retired := some (row % 16) }).storageRecord (coreDie core) 0x28 2 core (blockInfo 0 core) (BitVec.ofNat 64 row)
  else s
/-- A row that cannot be rebuilt is zeroed (R378). -/
def State.loseRow (s : State) (core row : Nat) : State :=
  let s := (s.setCore core ((s.core core).writeRow row 0)).storageRecord (coreDie core) 0x28 3 core (blockInfo 0 core) (BitVec.ofNat 64 row)
  (s.countLoss core row).endHolders core row
/-- A row that is rebuilt keeps its contents (R378). -/
def State.rebuildRow (s : State) (core row : Nat) : State :=
  (s.storageRecord (coreDie core) 0x28 1 core (blockInfo 0 core) (BitVec.ofNat 64 row)).countLoss core row
/-- The stripe of a row, or of a check row, which follow the 2,560 rows: P and Q of stripe 0, of stripe 1, and so on (R378; log 72). -/
def rowStripe (row : Nat) : Nat := if row < 2560 then row / 16 else (row - 2560) / 2
/-- Whether the check rows that are left rebuild the data rows lost of a stripe (R378): P one, P and Q two; once a bank is retired there is no Q. -/
def rebuildable (lost : List Nat) (retired : Bool) : Bool :=
  let stripe := rowStripe (lost.headD 0)
  let n := (lost.filter fun r => r < 2560).length
  !lost.contains (2560 + 2 * stripe) && (n ≤ 1 || (n = 2 && !retired && !lost.contains (2561 + 2 * stripe)))
/-- SRAM UNCORRECTABLE, on a core and the rows of one stripe, data and check rows, that are lost together (R378; log 72). -/
def execSramUncorrectable (s : State) : Res :=
  let core := s.subj 0
  let rows := ((s.subject.drop 1).filter fun r => r < 2880 && rowStripe r = rowStripe (s.subj 1)).eraseDups
  let good := rebuildable rows (s.core core).retired.isSome
  .next ((rows.filter fun r => r < 2560).foldl (fun t r => if good then t.rebuildRow core r else t.loseRow core r) s)
/-- Set poison in every tile entry that names a device frame (R379): among those that firmware knows, by partition and address, those of tiles that
have moved here, and in every copy that a unit or a command has. -/
def State.poisonFrame (s : State) (frame : Nat) (entries : List (Nat × Nat)) : State :=
  let put (t : State) (a : Nat × Nat) : State := match t.readPart a.1 a.2 with
    | some e => if eV e && !eRem e && t.s2 a.1 (eFrame e) = some frame then t.writePart a.1 a.2 (setFld e 59 1 1) else t
    | none => t
  let s := (entries ++ s.fabric.guests.map fun g => (g.part, g.at_)).foldl put s
  let mark (c : Cached) : Cached := if c.frame = some frame then { c with entry := setFld c.entry 59 1 1 } else c
  { s with cmds := s.cmds.map fun c => { c with old := c.old.map mark }, fabric := { s.fabric with
    cache := s.fabric.cache.map mark, unmaps := s.fabric.unmaps.map fun u => { u with old := u.old.map mark } } }
/-- End the group of a context with status 0xa4 (R379). -/
def State.endCtx (s : State) (core slot : Nat) : State :=
  let c := s.ctx (Machine.ck core slot)
  if c.iss.placed then s.terminateGang c.place.part c.place.tree 0xa4 else s
/-- Whether a routine of a core that a context runs covers an address of the microprogram store. -/
def Core.covers (c : Core) (run : MRun) (addr : Nat) : Bool :=
  match Sp.get none c.routines run.routine, c.loaded.find? fun e => e.1 = run.routine with
  | some a, some (_, _, n) => a ≤ addr && addr < a + n
  | some a, none => a ≤ addr && addr < standardStore.length &&
      (List.range 8).all fun k => match Sp.get none c.routines k with
        | some b => b ≤ a || addr < b
        | none => true
  | none, _ => false
/-- A word of the microprogram store: reloaded; a routine that runs over it ends, and its group with it (R379). -/
def State.storeLost (s : State) (core addr : Nat) : State :=
  [0, 1, 2, 3].foldl (fun t k =>
    let c := t.ctx (Machine.ck core k)
    match c.matrix.run with
    | some r => if (t.core core).covers r addr then (t.setCtx (Machine.ck core k) { c with matrix := { c.matrix with run := none } }).endCtx core k else t
    | none => t) s
/-- Whether the routine that a transform core runs for a command runs over a word of its memory (R225, R379): code from the routine's start up to
the next one's; all that lies beyond the code is the running routine's. -/
def Control.runsOver (x : Control) (op : Instr) (word : Nat) : Bool :=
  match op with
  | .cpXf o =>
    let start := x.xtable.getD o.rt.toNat 0
    let next := ((x.xtable.filter fun a => start < a).foldl min 0x1000)
    0x1000 ≤ 8 * word || (start < 8 * word + 8 && 8 * word < next)
  | _ => false
/-- A word of a transform core's memory: reloaded; a routine that runs over it ends, and its group with it (R379). -/
def State.xformLost (s : State) (core word : Nat) : State :=
  match if (s.core core).rv.isSome then (s.core core).xforms else [] with
  | id :: _ => match s.cmd id with
    | some c => if s.control.runsOver c.op word then (s.xformEnd core c [] (List.range c.dest.length)).endCtx core c.slot else s
    | none => s
  | [] => s
/-- The slice that holds byte x of a die's slice space, and the byte's place in it (R15, R59). -/
def sliceOf (x : Nat) : Nat × Nat := (x / 128 % 144, x / 128 / 144 * 128 + x % 128)
/-- STORAGE UNCORRECTABLE, on a kind and what it names (R362, R379): 0 storage of a context (core, slot, word); 1 an instruction cache or loop
buffer (core, word); 2 the microprogram store (core, word); 3 a transform core (core, 8-byte word); 4 a slice frame (device frame, byte of the frame,
and the tile entries that firmware knows, by partition and address); 5 an SE variable (die, index); 6 a posting-list engine (number, word). The
block of kind 3 is the core's or the engine's number, and that of kind 2 the die's (log 72). -/
def execStorageUncorrectable (s : State) : Res :=
  let a := s.subj 1
  let b := s.subj 2
  let record (die kind index addr : Nat) : State := s.storageRecord die 0x28 4 0 (blockInfo kind index) (BitVec.ofNat 64 addr)
  match s.subj 0 with
  | 0 => .next ((record (coreDie a) 3 a (s.subj 3)).endCtx a b)
  | 1 =>
    let t := record (coreDie a) 3 a b
    .next (t.setCore a { t.core a with icache := [] })
  | 2 => .next ((record (coreDie a) 3 a b).storeLost a b)
  | 3 => .next ((record (coreDie a) 3 a b).xformLost a b)
  | 4 =>
    let x := sliceOf (a % 2 ^ 28 * 65536 + b)
    .next ((record (a / 2 ^ 28 - 8) 1 x.1 (x.2 / 8)).poisonFrame a (pairsOf (s.subject.drop 3)))
  | 5 =>
    let t := record a 2 a b
    let d := t.die a
    .next (t.setDie a { d with se := { d.se with lost := b :: d.se.lost } })
  | 6 =>
    let t := record (a / 6) 3 a b
    .next (t.setPle a ((t.ple a).map fun q => if q.taken then { q with code := 3 } else q))
  | _ => .next s
/-- DRAM UNCORRECTABLE, on a device frame, a byte offset, and the tile entries that firmware knows, by partition and address (R379). -/
def execDramUncorrectable (s : State) : Res :=
  let frame := s.subj 0
  let t := s.storageRecord (frame / 2 ^ 28 / 2) 0x29 0 0 (BitVec.ofNat 64 frame) (BitVec.ofNat 64 (s.subj 1))
  .next (t.poisonFrame frame (pairsOf (s.subject.drop 2)))

end Sys2Proof.Machine
end

