-- ==== Sys2Proof/Machine/Vector.lean ====
section
/-! DEFINITION. Vector instructions (R146-R166). -/
namespace Sys2Proof.Machine
open Sys2Proof

/-- A per-lane operation on lanes of a and b, landed under the mask (R148). -/
def lanes2 (s : State) (o : VecOp) (lat : Nat) (f : Nat → Nat → Nat × FFlags) : Res :=
  let a := s.v o.a
  let b := s.v o.b
  .next (s.resultL o.d lat (laneOp o.fmt o.ke (s.k o.km) fun i => f (laneN a o.w i) (laneN b o.w i)))
def lanes1 (s : State) (o : VecOp) (lat : Nat) (f : Nat → Nat × FFlags) : Res :=
  let a := s.v o.a
  .next (s.resultL o.d lat (laneOp o.fmt o.ke (s.k o.km) fun i => f (laneN a o.w i)))
def lanes3 (s : State) (o : VecOp) (lat : Nat) (f : Nat → Nat → Nat → Nat × FFlags) : Res :=
  let a := s.v o.a
  let b := s.v o.b
  let c := s.v o.c
  .next (s.resultL o.d lat (laneOp o.fmt o.ke (s.k o.km) fun i => f (laneN a o.w i) (laneN b o.w i) (laneN c o.w i)))
/-- A float operation or an integer one modulo 2^w without flags (R149). -/
def fi (f : Fmt) (g : Fmt → Nat → Nat → Nat × FFlags) (h : Int → Int → Int) (x y : Nat) : Nat × FFlags :=
  if f.isFloat then g f x y else (wrap f.width (h (intOf f x) (intOf f y)), 0)
/-- Saturating integer results (R149). -/
def saturate (f : Fmt) (x : Int) : Nat × FFlags :=
  let (c, cl) := clampInt f false x
  (wrap f.width c, if cl then flSat else 0)

/-- `vadd` (R149). -/
def execVadd (o : VecOp) (s : State) : Res := lanes2 s o o.latFI (fi o.fmt fAdd (· + ·))
/-- `vsub` (R149). -/
def execVsub (o : VecOp) (s : State) : Res := lanes2 s o o.latFI (fi o.fmt fSub (· - ·))
/-- `vmul` (R149). -/
def execVmul (o : VecOp) (s : State) : Res := lanes2 s o o.latFI (fi o.fmt fMul (· * ·))
/-- `vfma` (R149). -/
def execVfma (o : VecOp) (s : State) : Res := lanes3 s o 4 (fMac o.fmt false false)
/-- `vfms` (R149). -/
def execVfms (o : VecOp) (s : State) : Res := lanes3 s o 4 (fMac o.fmt false true)
/-- `vfnma` (R149). -/
def execVfnma (o : VecOp) (s : State) : Res := lanes3 s o 4 (fMac o.fmt true false)
/-- `vmin` (R102, R149). -/
def execVmin (o : VecOp) (s : State) : Res := lanes2 s o o.latFI (fi o.fmt (fun f x y => (fMin f x y, 0)) min)
/-- `vmax` (R102, R149). -/
def execVmax (o : VecOp) (s : State) : Res := lanes2 s o o.latFI (fi o.fmt (fun f x y => (fMax f x y, 0)) max)
/-- `vabs` (R149). -/
def execVabs (o : VecOp) (s : State) : Res := lanes1 s o o.latFI fun x => if o.fmt.isFloat then (fAbs o.fmt x, 0) else (wrap o.w (intOf o.fmt x).natAbs, 0)
/-- `vneg` (R149). -/
def execVneg (o : VecOp) (s : State) : Res := lanes1 s o o.latFI fun x => if o.fmt.isFloat then (fNeg o.fmt x, 0) else (wrap o.w (-(intOf o.fmt x)), 0)
/-- `vrcp` (R150). -/
def execVrcp (o : VecOp) (s : State) : Res := lanes1 s o 6 (fRcp o.fmt)
/-- `vrsqrt` (R150). -/
def execVrsqrt (o : VecOp) (s : State) : Res := lanes1 s o 6 (fRsqrt o.fmt)
/-- `vexp2` (R150). -/
def execVexp2 (o : VecOp) (s : State) : Res := lanes1 s o 6 (fExp2 o.fmt)
/-- `vlog2` (R150). -/
def execVlog2 (o : VecOp) (s : State) : Res := lanes1 s o 6 (fLog2 o.fmt)
/-- `vrnd` (R149). -/
def execVrnd (o : VecOp) (s : State) : Res := lanes1 s o 4 (fRnd o.fmt)
/-- `vtsum` (R10, R151): the pair d, d + 1 is read and written. -/
def execVtsum (o : VecOp) (s : State) : Res :=
  let a := s.v o.a
  let hi := s.v o.d
  let lo := s.v (o.d + 1)
  let step (i : Nat) := accStep (laneN hi 32 i) (laneN lo 32 i) (laneN a 32 i)
  let k := s.k o.km
  let rh := laneOp .f32 o.ke k fun i => let r := step i; (r.1, r.2.2)
  let rl := laneOp .f32 o.ke k fun i => let r := step i; (r.2.1, 0)
  .next ((s.resultL o.d 5 rh).resultL (o.d + 1) 5 rl)
/-- Vector comparison by its condition (R102, R152). -/
def vcond (f : Fmt) (x a b : Nat) : Bool :=
  let eq := if f.isFloat then (decodeNum f a).eqv (decodeNum f b) else decide (intOf f a = intOf f b)
  let lt (p q : Nat) : Bool :=
    if f.isFloat then (decodeNum f p).lt (decodeNum f q) && !(decodeNum f p).eqv (decodeNum f q) else decide (intOf f p < intOf f q)
  match x with
  | 0 => eq
  | 1 => !eq
  | 2 => lt a b
  | 3 => lt a b || eq
  | 4 => lt b a
  | _ => lt b a || eq
/-- Mask bits of the lanes from i on: bit mbit(i) is set when lane i satisfies the condition; of two lanes that one bit
governs, either (R152). -/
def maskBits (n : Nat) (f : Nat → Bool) : Nat → Nat → Nat
  | 0, _ => 0
  | m + 1, i => (if f i then 1 <<< mbit n i else 0) ||| maskBits n f m (i + 1)
/-- `vcmp.cc` (R152). -/
def execVcmp (o : VecOp) (s : State) : Res :=
  let a := s.v o.a
  let b := s.v o.b
  let k := s.k o.km
  let m := maskBits o.n (fun i => active o.ke k o.n i && vcond o.fmt o.x.toNat (laneN a o.w i) (laneN b o.w i)) o.n 0
  .next (s.result 2 (.k (o.d.toNat % 8)) (BitVec.ofNat 1024 m) allOnes 0)
/-- `vsel` (R152): every lane is written. -/
def execVsel (o : VecOp) (s : State) : Res :=
  let a := s.v o.a
  let b := s.v o.b
  let k := s.k o.km
  .next (s.resultL o.d 2 (laneOp o.fmt false k fun i => (laneN (if k.getLsbD (mbit o.n i) then a else b) o.w i, 0)))
/-- `vmulh` (R149). -/
def execVmulh (o : VecOp) (s : State) : Res :=
  lanes2 s o 2 fun x y => (wrap o.w (intOf o.fmt x * intOf o.fmt y / (2 ^ o.w : Nat)), 0)
/-- `vsadd` (R149). -/
def execVsadd (o : VecOp) (s : State) : Res := lanes2 s o 2 fun x y => saturate o.fmt (intOf o.fmt x + intOf o.fmt y)
/-- `vssub` (R149). -/
def execVssub (o : VecOp) (s : State) : Res := lanes2 s o 2 fun x y => saturate o.fmt (intOf o.fmt x - intOf o.fmt y)
/-- A shift of every lane (R153). -/
def shiftLanes (s : State) (o : VecOp) (f : Nat → Nat → Nat) : Res :=
  let a := s.v o.a
  .next (s.resultL o.d 2 (laneOp o.fmt o.ke (s.k o.km) fun i => (f (laneN a o.w i) (shiftAmount s o o.w i), 0)))
/-- `vshl` (R153). -/
def execVshl (o : VecOp) (s : State) : Res := shiftLanes s o fun x y => if o.w ≤ y then 0 else x <<< y
/-- `vshr` (R153). -/
def execVshr (o : VecOp) (s : State) : Res := shiftLanes s o fun x y => if o.w ≤ y then 0 else x >>> y
/-- `vsra`: copies of the top bit, for s and n types alike (R149, R153). -/
def execVsra (o : VecOp) (s : State) : Res :=
  shiftLanes s o fun x y => wrap o.w (signed o.w x / (2 ^ min y o.w : Nat))
/-- `vand` (R149). -/
def execVand (o : VecOp) (s : State) : Res := lanes2 s o 2 fun x y => (x &&& y, 0)
/-- `vor` (R149). -/
def execVor (o : VecOp) (s : State) : Res := lanes2 s o 2 fun x y => (x ||| y, 0)
/-- `vxor` (R149). -/
def execVxor (o : VecOp) (s : State) : Res := lanes2 s o 2 fun x y => (x ^^^ y, 0)
/-- `vandn` (R149). -/
def execVandn (o : VecOp) (s : State) : Res := lanes2 s o 2 fun x y => (x &&& (2 ^ o.w - 1 - y), 0)
/-- `vpopc` (R149). -/
def execVpopc (o : VecOp) (s : State) : Res := lanes1 s o 2 fun x => (popN o.w x, 0)

/-- The conversion of one element (R89, R155). Integer to integer clamps with sat. -/
def cvtOne (src dst : Fmt) (rz : Bool) (x : Nat) : Nat × FFlags := convert dst false rz (decodeNum src x)
/-- Elements placed by R155: element i read at width wf, written at width wt, under the mask with n as lane count. -/
def placeElems (wf wt part : Nat) (a : Row) (act : Nat → Bool) (f : Nat → Nat → Nat × FFlags) : Nat → Nat → Lanes
  | 0, _ => ⟨0, 0, 0⟩
  | m + 1, i =>
    let r := placeElems wf wt part a act f m (i + 1)
    let n := 1024 / max wf wt
    if act i then
      let j := if wf > wt then part * n + i else i
      let (v, fl) := f i (laneN a wf (if wf < wt then part * n + i else i))
      ⟨r.val + (v % 2 ^ wt) <<< (j * wt), r.mask + (2 ^ wt - 1) <<< (j * wt), fl ||| r.flags⟩
    else r
/-- A conversion of every active element (R155). -/
def cvtRun (s : State) (o : CvtOp) (f : Nat → Nat → Nat × FFlags) : Res :=
  let wf := o.from.width
  let wt := o.to.width
  let n := 1024 / max wf wt
  .next (s.resultL o.d 4 (placeElems wf wt o.part.toNat (s.v o.a) (active o.ke (s.k o.km) n) f n 0))
/-- `vcvt` (R155). -/
def execVcvt (o : CvtOp) (s : State) : Res := cvtRun s o fun _ x => cvtOne o.from o.to o.rz x
/-- `vquant` of one element (R98, R156): reciprocal scale, zero point for integer targets, quantising column. -/
def quantOne (dst : Fmt) (sw x : Nat) : Nat × FFlags :=
  let p := (decodeNum .f32 x).mul (scaleOf sw)
  let y := if dst.isFloat then p else p.add (Num.ofInt (zeroOf sw))
  let (c, fl) := convert dst true false y
  (c, fl ||| (if y.isNan && !(decodeNum .f32 x).isNan && !(scaleOf sw).isNan then flIv else 0))
/-- `vquant` (R156). -/
def execVquant (o : CvtOp) (s : State) : Res :=
  let b := s.v o.b
  cvtRun s o fun i x => quantOne o.to (scaleWord b o.bw (1024 / max o.from.width o.to.width) i) x
/-- `vdeq` of one element (R98, R156): a NaN code or scale gives the canonical NaN and no flag; a NaN made of neither is invalid (R90, R166; log 38). -/
def deqOne (src dst : Fmt) (sw x : Nat) : Nat × FFlags :=
  let q := decodeNum src x
  let v := if src.isFloat then q else q.sub (Num.ofInt (zeroOf sw))
  let p := v.mul (scaleOf sw)
  if p.isNan then (dst.nan, if v.isNan || (scaleOf sw).isNan then 0 else flIv) else convert dst false false p
/-- `vdeq` (R156). -/
def execVdeq (o : CvtOp) (s : State) : Res :=
  let b := s.v o.b
  cvtRun s o fun i x => deqOne o.from o.to (scaleWord b o.bw (1024 / max o.from.width o.to.width) i) x
/-- `vpack` (R157): lanes of a, then lanes of b, clamped. -/
def execVpack (o : CvtOp) (s : State) : Res :=
  let a := s.v o.a
  let b := s.v o.b
  let wf := o.from.width
  let n := 1024 / wf
  let k := s.k o.km
  .next (s.resultL o.d 4 (mapLanes o.to.width (fun i => if active o.ke k (2 * n) i then
    some (saturate o.to (intOf o.from (if i < n then laneN a wf i else laneN b wf (i - n)))) else none) (2 * n) 0))
/-- `vunpk` (R157). -/
def execVunpk (o : CvtOp) (s : State) : Res := cvtRun s o fun _ x => saturate o.to (intOf o.from x)

/-- A permutation: lane i of the result by a function of i (R158). -/
def permute (s : State) (o : VecOp) (f : Nat → Nat) : Res :=
  .next (s.resultL o.d 3 (laneOp o.fmt o.ke (s.k o.km) fun i => (f i, 0)))
/-- Lane j of the concatenation of a and b (R158). -/
def laneC (a b : Row) (w n j : Nat) : Nat := if j < n then laneN a w j else laneN b w (j - n)
/-- `vperm` (R158). -/
def execVperm (o : VecOp) (s : State) : Res :=
  let a := s.v o.a
  let b := s.v o.b
  permute s o fun i => laneN a o.w (laneN b o.w i % o.n)
/-- `vrotm` (R159). -/
def execVrotm (d a b : BitVec 10) (i : Bool) (sr : BitVec 6) (off : BitVec 7) (s : State) : Res :=
  let o := if i then off.toNat else (s.s sr).toNat % 128
  let x := (s.v a).toNat + (s.v b).toNat <<< 1024
  .next (s.resultV d.toNat 3 (BitVec.ofNat 1024 (x >>> (8 * o))) allOnes 0)
/-- `vbcast` (R158). -/
def execVbcast (o : VecOp) (s : State) : Res := let a := s.v o.a; permute s o fun _ => laneN a o.w o.c.toNat
/-- `vshuf` by its mode (R158). -/
def execVshuf (o : VecOp) (s : State) : Res :=
  let a := s.v o.a
  let b := s.v o.b
  let n := o.n
  permute s o fun i =>
    match o.x.toNat with
    | 0 => laneN (if i % 2 = 0 then a else b) o.w (i / 2)
    | 1 => laneN (if i % 2 = 0 then a else b) o.w (n / 2 + i / 2)
    | 2 => laneC a b o.w n (2 * i)
    | 3 => laneC a b o.w n (2 * i + 1)
    | _ => laneN a o.w (n - 1 - i)
/-- `vslide` (R158). -/
def execVslide (o : VecOp) (s : State) : Res :=
  let a := s.v o.a
  let b := s.v o.b
  permute s o fun i => laneC a b o.w o.n (i + o.c.toNat)

/-- The active lanes of a, lowest index first (R160). -/
def activeLanes (s : State) (o : VecOp) (upto : Nat) : List Nat :=
  let a := s.v o.a
  let k := s.k o.km
  ((List.range upto).filter (active o.ke k o.n)).map (laneN a o.w)
/-- Exact sum of lanes (R101, R160). -/
def sumLanes (f : Fmt) (l : List Nat) : Nat × FFlags :=
  if f.isFloat then (if l.isEmpty then (0, 0) else fSum f l) else (wrap f.width ((l.map (intOf f)).foldl (· + ·) 0), 0)
/-- A reduction writes d whole (R160). -/
def reduce (s : State) (o : VecOp) (x : Nat × FFlags) : Res :=
  .next (s.resultV o.d.toNat 6 (BitVec.ofNat 1024 (x.1 % 2 ^ o.w)) allOnes x.2)
/-- `vredsum` (R160). -/
def execVredsum (o : VecOp) (s : State) : Res := reduce s o (sumLanes o.fmt (activeLanes s o o.n))
/-- Extremum of the active lanes (R160). -/
def extremum (f : Fmt) (g : Nat → Nat → Nat) (none_ : Nat) : List Nat → Nat
  | [] => none_
  | x :: r => if f.isFloat && (decodeNum f x).isNan && r.isEmpty then f.nan else r.foldl g x
/-- `vredmax` (R160). -/
def execVredmax (o : VecOp) (s : State) : Res :=
  let f := o.fmt
  reduce s o (extremum f (fun x y => (fi f (fun f x y => (fMax f x y, 0)) max x y).1)
    (if f.isFloat then f.infCode + 2 ^ (f.width - 1) else wrap f.width (intLo f false)) (activeLanes s o o.n), 0)
/-- `vredmin` (R160). -/
def execVredmin (o : VecOp) (s : State) : Res :=
  let f := o.fmt
  reduce s o (extremum f (fun x y => (fi f (fun f x y => (fMin f x y, 0)) min x y).1)
    (if f.isFloat then f.infCode else wrap f.width (intHi f)) (activeLanes s o o.n), 0)
/-- `vscan`: every lane is written; a lane's flags count only for active lanes' sums (R160). -/
def execVscan (o : VecOp) (s : State) : Res :=
  .next (s.resultL o.d 6 (laneOp o.fmt false (s.k o.km) fun i => sumLanes o.fmt (activeLanes s o (i + 1))))
/-- Whether lane (index i, code x) ranks before lane (j, y) (R161). -/
def ranksBefore (f : Fmt) (low : Bool) (i x j y : Nat) : Bool :=
  if f.isFloat then
    let a := decodeNum f x
    let b := decodeNum f y
    if a.isNan then b.isNan && i < j
    else if b.isNan then true
    else if low then a.lt b || (!b.lt a && i < j) else b.lt a || (!a.lt b && i < j)
  else
    let a := intOf f x
    let b := intOf f y
    if a = b then i < j else if low then a < b else b < a
/-- Insert a lane into a ranked list. -/
def rankInsert (f : Fmt) (low : Bool) (p : Nat × Nat) : List (Nat × Nat) → List (Nat × Nat)
  | [] => [p]
  | q :: r => if ranksBefore f low p.1 p.2 q.1 q.2 then p :: q :: r else q :: rankInsert f low p r
/-- `vtopk` (R161). -/
def execVtopk (o : VecOp) (s : State) : Res :=
  let a := s.v o.a
  let k := s.k o.km
  let f := o.fmt
  let m := o.c.toNat
  let idx := (List.range o.n).filter (active o.ke k o.n)
  let ranked := idx.foldl (fun l i => rankInsert f (o.x.getLsbD 0) (i, laneN a o.w i) l) []
  let vals := (List.range o.n).map fun j => if j < m then (ranked[j]?.map Prod.snd).getD 0 else 0
  let inds := (List.range o.n).map fun j => if j < m then (ranked[j]?.map Prod.fst).getD (2 ^ o.w - 1) else 0
  .next ((s.resultV o.d.toNat 8 (rowOfLanes o.w vals) allOnes 0).resultV (o.d.toNat + 1) 8 (rowOfLanes o.w inds) allOnes 0)
/-- `vmov` (R162). -/
def execVmov (o : VecOp) (s : State) : Res := lanes1 s o 2 fun x => (x, 0)
/-- `vsplat` (R162). -/
def execVsplat (o : XferOp) (s : State) : Res :=
  let f := Fmt.get o.ty.toNat
  let x : Word64 := if o.i then o.imm.signExtend 64 else s.s o.sr
  .next (s.resultL o.d 2 (laneOp f o.ke (s.k o.km) fun _ => (x.toNat % 2 ^ f.width, 0)))
/-- `vext` (R162). -/
def execVext (o : XferOp) (s : State) : Res :=
  let f := Fmt.get o.ty.toNat
  let x := laneN (s.v o.a) f.width o.imm.toNat
  .next (s.resultW 2 (.s (o.d.toNat % 64)) (BitVec.ofInt 64 (if f.isSigned then signed f.width x else (x : Int))))
/-- `vins` (R162). -/
def execVins (o : XferOp) (s : State) : Res :=
  let f := Fmt.get o.ty.toNat
  let x := (s.s o.sr).toNat % 2 ^ f.width
  let i := o.imm.toNat
  .next (s.resultL o.d 2 (if active o.ke (s.k o.km) (1024 / f.width) i
    then ⟨x <<< (i * f.width), (2 ^ f.width - 1) <<< (i * f.width), 0⟩ else ⟨0, 0, 0⟩))
/-- `vidx` (R162). -/
def execVidx (o : VecOp) (s : State) : Res :=
  .next (s.resultL o.d 2 (laneOp o.fmt o.ke (s.k o.km) fun i => ((o.c.toNat + i) % 2 ^ o.w, 0)))
/-- A whole-mask result (R163). -/
def State.resultK (s : State) (kd : BitVec 3) (x : BitVec 128) : State := s.result 2 (.k kd.toNat) (x.setWidth 1024) allOnes 0
/-- `kand` (R163). -/
def execKand (kd ka kb : BitVec 3) (s : State) : Res := .next (s.resultK kd (s.k ka &&& s.k kb))
/-- `kor` (R163). -/
def execKor (kd ka kb : BitVec 3) (s : State) : Res := .next (s.resultK kd (s.k ka ||| s.k kb))
/-- `kxor` (R163). -/
def execKxor (kd ka kb : BitVec 3) (s : State) : Res := .next (s.resultK kd (s.k ka ^^^ s.k kb))
/-- `kinv` (R163). -/
def execKinv (kd ka : BitVec 3) (s : State) : Res := .next (s.resultK kd (~~~s.k ka))
/-- `kpop` (R163). -/
def execKpop (sd : BitVec 6) (ka : BitVec 3) (s : State) : Res :=
  .next (s.resultW 2 (.s sd.toNat) (BitVec.ofNat 64 (popN 128 (s.k ka).toNat)))
/-- `kmov` (R163). -/
def execKmov (kd ka : BitVec 3) (s : State) : Res := .next (s.resultK kd (s.k ka))

end Sys2Proof.Machine
end

