-- ==== Sys2Proof/Machine/Dispatch.lean ====
section
/-! DEFINITION. One arm per constructor: the meaning of each instruction and event. -/
namespace Sys2Proof.Machine
open Sys2Proof

/-- The meaning of one instruction or event. -/
def exec (i : Instr) (s : State) : Host.Outcome State Fault Refusal :=
  match i with
  | .snop => Sys2Proof.Machine.execSnop s
  | .knot => Sys2Proof.Machine.execKnot s
  | .yield => Sys2Proof.Machine.execYield s
  | .drain ch => Sys2Proof.Machine.execDrain ch s
  | .qfence mask => Sys2Proof.Machine.execQfence mask s
  | .lfence => Sys2Proof.Machine.execLfence s
  | .fmtset value => Sys2Proof.Machine.execFmtset value s
  | .seLd o => Sys2Proof.Machine.execSeLd o s
  | .seSt o => Sys2Proof.Machine.execSeSt o s
  | .seAdd o => Sys2Proof.Machine.execSeAdd o s
  | .seMin o => Sys2Proof.Machine.execSeMin o s
  | .seMax o => Sys2Proof.Machine.execSeMax o s
  | .seAnd o => Sys2Proof.Machine.execSeAnd o s
  | .seOr o => Sys2Proof.Machine.execSeOr o s
  | .seXor o => Sys2Proof.Machine.execSeXor o s
  | .seSwap o => Sys2Proof.Machine.execSeSwap o s
  | .seCas o => Sys2Proof.Machine.execSeCas o s
  | .seArrive o => Sys2Proof.Machine.execSeArrive o s
  | .seAwait o => Sys2Proof.Machine.execSeAwait o s
  | .seSemdown o => Sys2Proof.Machine.execSeSemdown o s
  | .seSemup o => Sys2Proof.Machine.execSeSemup o s
  | .seAlloc o => Sys2Proof.Machine.execSeAlloc o s
  | .seFree o => Sys2Proof.Machine.execSeFree o s
  | .tsys code => Sys2Proof.Machine.execTsys code s
  | .brk code => Sys2Proof.Machine.execBrk code s
  | .halt => Sys2Proof.Machine.execHalt s
  | .sadd o => Sys2Proof.Machine.execSadd o s
  | .ssub o => Sys2Proof.Machine.execSsub o s
  | .smul o => Sys2Proof.Machine.execSmul o s
  | .smulh o => Sys2Proof.Machine.execSmulh o s
  | .smulhn o => Sys2Proof.Machine.execSmulhn o s
  | .sdiv o => Sys2Proof.Machine.execSdiv o s
  | .sdivn o => Sys2Proof.Machine.execSdivn o s
  | .srem o => Sys2Proof.Machine.execSrem o s
  | .sremn o => Sys2Proof.Machine.execSremn o s
  | .sand o => Sys2Proof.Machine.execSand o s
  | .sor o => Sys2Proof.Machine.execSor o s
  | .sxor o => Sys2Proof.Machine.execSxor o s
  | .sandn o => Sys2Proof.Machine.execSandn o s
  | .sshl o => Sys2Proof.Machine.execSshl o s
  | .sshr o => Sys2Proof.Machine.execSshr o s
  | .ssra o => Sys2Proof.Machine.execSsra o s
  | .srot o => Sys2Proof.Machine.execSrot o s
  | .sclz o => Sys2Proof.Machine.execSclz o s
  | .sctz o => Sys2Proof.Machine.execSctz o s
  | .spop o => Sys2Proof.Machine.execSpop o s
  | .smin o => Sys2Proof.Machine.execSmin o s
  | .smax o => Sys2Proof.Machine.execSmax o s
  | .sminn o => Sys2Proof.Machine.execSminn o s
  | .smaxn o => Sys2Proof.Machine.execSmaxn o s
  | .ssel o => Sys2Proof.Machine.execSsel o s
  | .sli d imm => Sys2Proof.Machine.execSli d imm s
  | .slih d imm => Sys2Proof.Machine.execSlih d imm s
  | .smov d a kind idx h => Sys2Proof.Machine.execSmov d a kind idx h s
  | .scmp o => Sys2Proof.Machine.execScmp o s
  | .pand pd pa pb => Sys2Proof.Machine.execPand pd pa pb s
  | .por pd pa pb => Sys2Proof.Machine.execPor pd pa pb s
  | .pxor pd pa pb => Sys2Proof.Machine.execPxor pd pa pb s
  | .pnot pd pa => Sys2Proof.Machine.execPnot pd pa s
  | .pmov pd src f => Sys2Proof.Machine.execPmov pd src f s
  | .br disp => Sys2Proof.Machine.execBr disp s
  | .jmp tgt => Sys2Proof.Machine.execJmp tgt s
  | .call d disp => Sys2Proof.Machine.execCall d disp s
  | .ret a => Sys2Proof.Machine.execRet a s
  | .jr a disp => Sys2Proof.Machine.execJr a disp s
  | .loop lvl ci a stride cnt => Sys2Proof.Machine.execLoop lvl ci a stride cnt s
  | .lbody len lo hi e => Sys2Proof.Machine.execLbody len lo hi e s
  | .mfs d spec => Sys2Proof.Machine.execMfs d spec s
  | .mts a spec => Sys2Proof.Machine.execMts a spec s
  | .amov dir ar sr => Sys2Proof.Machine.execAmov dir ar sr s
  | .aadd ad aa im b imm => Sys2Proof.Machine.execAadd ad aa im b imm s
  | .vadd o => Sys2Proof.Machine.execVadd o s
  | .vsub o => Sys2Proof.Machine.execVsub o s
  | .vmul o => Sys2Proof.Machine.execVmul o s
  | .vfma o => Sys2Proof.Machine.execVfma o s
  | .vfms o => Sys2Proof.Machine.execVfms o s
  | .vfnma o => Sys2Proof.Machine.execVfnma o s
  | .vmin o => Sys2Proof.Machine.execVmin o s
  | .vmax o => Sys2Proof.Machine.execVmax o s
  | .vabs o => Sys2Proof.Machine.execVabs o s
  | .vneg o => Sys2Proof.Machine.execVneg o s
  | .vrcp o => Sys2Proof.Machine.execVrcp o s
  | .vrsqrt o => Sys2Proof.Machine.execVrsqrt o s
  | .vexp2 o => Sys2Proof.Machine.execVexp2 o s
  | .vlog2 o => Sys2Proof.Machine.execVlog2 o s
  | .vrnd o => Sys2Proof.Machine.execVrnd o s
  | .vtsum o => Sys2Proof.Machine.execVtsum o s
  | .vcmp o => Sys2Proof.Machine.execVcmp o s
  | .vsel o => Sys2Proof.Machine.execVsel o s
  | .vmulh o => Sys2Proof.Machine.execVmulh o s
  | .vsadd o => Sys2Proof.Machine.execVsadd o s
  | .vssub o => Sys2Proof.Machine.execVssub o s
  | .vshl o => Sys2Proof.Machine.execVshl o s
  | .vshr o => Sys2Proof.Machine.execVshr o s
  | .vsra o => Sys2Proof.Machine.execVsra o s
  | .vand o => Sys2Proof.Machine.execVand o s
  | .vor o => Sys2Proof.Machine.execVor o s
  | .vxor o => Sys2Proof.Machine.execVxor o s
  | .vandn o => Sys2Proof.Machine.execVandn o s
  | .vpopc o => Sys2Proof.Machine.execVpopc o s
  | .vcvt o => Sys2Proof.Machine.execVcvt o s
  | .vquant o => Sys2Proof.Machine.execVquant o s
  | .vdeq o => Sys2Proof.Machine.execVdeq o s
  | .vpack o => Sys2Proof.Machine.execVpack o s
  | .vunpk o => Sys2Proof.Machine.execVunpk o s
  | .vperm o => Sys2Proof.Machine.execVperm o s
  | .vrotm d a b im sr off => Sys2Proof.Machine.execVrotm d a b im sr off s
  | .vbcast o => Sys2Proof.Machine.execVbcast o s
  | .vshuf o => Sys2Proof.Machine.execVshuf o s
  | .vslide o => Sys2Proof.Machine.execVslide o s
  | .vredsum o => Sys2Proof.Machine.execVredsum o s
  | .vredmax o => Sys2Proof.Machine.execVredmax o s
  | .vredmin o => Sys2Proof.Machine.execVredmin o s
  | .vscan o => Sys2Proof.Machine.execVscan o s
  | .vtopk o => Sys2Proof.Machine.execVtopk o s
  | .vmov o => Sys2Proof.Machine.execVmov o s
  | .vsplat o => Sys2Proof.Machine.execVsplat o s
  | .vext o => Sys2Proof.Machine.execVext o s
  | .vins o => Sys2Proof.Machine.execVins o s
  | .vidx o => Sys2Proof.Machine.execVidx o s
  | .kand kd ka kb => Sys2Proof.Machine.execKand kd ka kb s
  | .kor kd ka kb => Sys2Proof.Machine.execKor kd ka kb s
  | .kxor kd ka kb => Sys2Proof.Machine.execKxor kd ka kb s
  | .kinv kd ka => Sys2Proof.Machine.execKinv kd ka s
  | .kpop sd ka => Sys2Proof.Machine.execKpop sd ka s
  | .kmov kd ka => Sys2Proof.Machine.execKmov kd ka s
  | .ldRow v r => Sys2Proof.Machine.execLdRow v r s
  | .ldLane v r lane ty => Sys2Proof.Machine.execLdLane v r lane ty s
  | .ldK kd r seg => Sys2Proof.Machine.execLdK kd r seg s
  | .ldPeek v ring j => Sys2Proof.Machine.execLdPeek v ring j s
  | .xsel r mx dir hw dc dr => Sys2Proof.Machine.execXsel r mx dir hw dc dr s
  | .stRow v r => Sys2Proof.Machine.execStRow v r s
  | .stRowk v r km ty => Sys2Proof.Machine.execStRowk v r km ty s
  | .stLane v r lane ty => Sys2Proof.Machine.execStLane v r lane ty s
  | .stFill sf r cnt => Sys2Proof.Machine.execStFill sf r cnt s
  | .stRing v ring => Sys2Proof.Machine.execStRing v ring s
  | .xsend v r sk dir hw => Sys2Proof.Machine.execXsend v r sk dir hw s
  | .mcall rt acc alt rep => Sys2Proof.Machine.execMcall rt acc alt rep s
  | .mset kind idx sa => Sys2Proof.Machine.execMset kind idx sa s
  | .mring ra rb => Sys2Proof.Machine.execMring ra rb s
  | .macz acc rep => Sys2Proof.Machine.execMacz acc rep s
  | .mread vd acc row mode => Sys2Proof.Machine.execMread vd acc row mode s
  | .mwrite vh vl acc row rep => Sys2Proof.Machine.execMwrite vh vl acc row rep s
  | .mroute nb sa => Sys2Proof.Machine.execMroute nb sa s
  | .mwait all w0 w1 snd => Sys2Proof.Machine.execMwait all w0 w1 snd s
  | .mfmt ent sa => Sys2Proof.Machine.execMfmt ent sa s
  | .cpDesc ch td an pm off h => Sys2Proof.Machine.execCpDesc ch td an pm off h s
  | .cpIn o => Sys2Proof.Machine.execCpIn o s
  | .cpOut o => Sys2Proof.Machine.execCpOut o s
  | .cpAcc o => Sys2Proof.Machine.execCpAcc o s
  | .cpGat o => Sys2Proof.Machine.execCpGat o s
  | .cpSca o => Sys2Proof.Machine.execCpSca o s
  | .cpSl o => Sys2Proof.Machine.execCpSl o s
  | .cpXf o => Sys2Proof.Machine.execCpXf o s
  | .cpRep o => Sys2Proof.Machine.execCpRep o s
  | .cpCurSet ch td sa => Sys2Proof.Machine.execCpCurSet ch td sa s
  | .cpCurSave ch td an pm off h => Sys2Proof.Machine.execCpCurSave ch td an pm off h s
  | .cpCurStatus ch an pm off h => Sys2Proof.Machine.execCpCurStatus ch an pm off h s
  | .rcast o => Sys2Proof.Machine.execRcast o s
  | .plQ o => Sys2Proof.Machine.execPlQ o s
  | .clRun o => Sys2Proof.Machine.execClRun o s
  | .clArm o => Sys2Proof.Machine.execClArm o s
  | .mlr o => Sys2Proof.Machine.execMlr o s
  | .wpopa t => Sys2Proof.Machine.execWpopa t s
  | .wpopb t => Sys2Proof.Machine.execWpopb t s
  | .wfeed part ta tb => Sys2Proof.Machine.execWfeed part ta tb s
  | .wgroup sa mpa sb mpb => Sys2Proof.Machine.execWgroup sa mpa sb mpb s
  | .wsum src => Sys2Proof.Machine.execWsum src s
  | .wretire pa pb => Sys2Proof.Machine.execWretire pa pb s
  | .wsend dst n sc m first cnt => Sys2Proof.Machine.execWsend dst n sc m first cnt s
  | .wfmt lvl => Sys2Proof.Machine.execWfmt lvl s
  | .wloop c src m imm => Sys2Proof.Machine.execWloop c src m imm s
  | .wjump c cond tgt => Sys2Proof.Machine.execWjump c cond tgt s
  | .wwait f sn => Sys2Proof.Machine.execWwait f sn s
  | .wend => Sys2Proof.Machine.execWend s
  | .groupEntry core => Sys2Proof.Machine.execGroupEntry core s
  | .conditionClears core slot => Sys2Proof.Machine.execConditionClears core slot s
  | .heldReissue lane => Sys2Proof.Machine.execHeldReissue lane s
  | .resultArrival op => Sys2Proof.Machine.execResultArrival op s
  | .landing core slot => Sys2Proof.Machine.execLanding core slot s
  | .loopPassEnd core slot => Sys2Proof.Machine.execLoopPassEnd core slot s
  | .knotArrival core slot => Sys2Proof.Machine.execKnotArrival core slot s
  | .knotAnnouncement part tree => Sys2Proof.Machine.execKnotAnnouncement part tree s
  | .knotRelease part tree => Sys2Proof.Machine.execKnotRelease part tree s
  | .exchangeGrant part tree => Sys2Proof.Machine.execExchangeGrant part tree s
  | .preemptSave part tree => Sys2Proof.Machine.execPreemptSave part tree s
  | .gangRestore part tree => Sys2Proof.Machine.execGangRestore part tree s
  | .withheldRelease part tree => Sys2Proof.Machine.execWithheldRelease part tree s
  | .copyRequest cmd => Sys2Proof.Machine.execCopyRequest cmd s
  | .copyRowWrite cmd row => Sys2Proof.Machine.execCopyRowWrite cmd row s
  | .fillRowWrite core slot => Sys2Proof.Machine.execFillRowWrite core slot s
  | .ropeBeat => Sys2Proof.Machine.execRopeBeat s
  | .xselRowWrite core mux => Sys2Proof.Machine.execXselRowWrite core mux s
  | .matrixEntryStart core slot => Sys2Proof.Machine.execMatrixEntryStart core slot s
  | .kblockRetire core slot => Sys2Proof.Machine.execKblockRetire core slot s
  | .entryRetire core slot => Sys2Proof.Machine.execEntryRetire core slot s
  | .routedRowSend msg => Sys2Proof.Machine.execRoutedRowSend msg s
  | .routedRowArrival msg => Sys2Proof.Machine.execRoutedRowArrival msg s
  | .xformRun core => Sys2Proof.Machine.execXformRun core s
  | .collector part td => Sys2Proof.Machine.execCollector part td s
  | .luAccess acc => Sys2Proof.Machine.execLuAccess acc s
  | .recastSeal cmd => Sys2Proof.Machine.execRecastSeal cmd s
  | .sealReceive cmd lu => Sys2Proof.Machine.execSealReceive cmd lu s
  | .recastRewrite cmd => Sys2Proof.Machine.execRecastRewrite cmd s
  | .invalidationMarker core slot handle tile => Sys2Proof.Machine.execInvalidationMarker core slot handle tile s
  | .markerWatchdog core slot => Sys2Proof.Machine.execMarkerWatchdog core slot s
  | .seOperationPerform op => Sys2Proof.Machine.execSeOperationPerform op s
  | .seGrantArrival op => Sys2Proof.Machine.execSeGrantArrival op s
  | .collectiveStart die comm => Sys2Proof.Machine.execCollectiveStart die comm s
  | .joinArrival msg => Sys2Proof.Machine.execJoinArrival msg s
  | .joinTimeout die comm => Sys2Proof.Machine.execJoinTimeout die comm s
  | .presenceQuery msg => Sys2Proof.Machine.execPresenceQuery msg s
  | .presenceTimeout die comm => Sys2Proof.Machine.execPresenceTimeout die comm s
  | .chunkSendStart die comm => Sys2Proof.Machine.execChunkSendStart die comm s
  | .chainPairArrival msg => Sys2Proof.Machine.execChainPairArrival msg s
  | .copyChunkArrival msg => Sys2Proof.Machine.execCopyChunkArrival msg s
  | .transferTimeout die comm => Sys2Proof.Machine.execTransferTimeout die comm s
  | .collectiveAbort die comm => Sys2Proof.Machine.execCollectiveAbort die comm s
  | .collectiveComplete die comm => Sys2Proof.Machine.execCollectiveComplete die comm s
  | .switchReduce group chunk => Sys2Proof.Machine.execSwitchReduce group chunk s
  | .switchGroupLoad group epoch members => Sys2Proof.Machine.execSwitchGroupLoad group epoch members s
  | .membershipApply die comm => Sys2Proof.Machine.execMembershipApply die comm s
  | .spareJoin die comm slot => Sys2Proof.Machine.execSpareJoin die comm slot s
  | .plQueryAccept ple => Sys2Proof.Machine.execPlQueryAccept ple s
  | .plQueryComplete ple => Sys2Proof.Machine.execPlQueryComplete ple s
  | .qtailWrite part queue v => Sys2Proof.Machine.execQtailWrite part queue v s
  | .qcfgEnable part queue v => Sys2Proof.Machine.execQcfgEnable part queue v s
  | .qcfgDisable part queue v => Sys2Proof.Machine.execQcfgDisable part queue v s
  | .qcfgConfig part queue v => Sys2Proof.Machine.execQcfgConfig part queue v s
  | .cheadWrite part queue v => Sys2Proof.Machine.execCheadWrite part queue v s
  | .ecfgEnable part v => Sys2Proof.Machine.execEcfgEnable part v s
  | .ecfgDisable part v => Sys2Proof.Machine.execEcfgDisable part v s
  | .eheadWrite part v => Sys2Proof.Machine.execEheadWrite part v s
  | .ebrkContinue part entry => Sys2Proof.Machine.execEbrkContinue part entry s
  | .ebrkTerminate part entry => Sys2Proof.Machine.execEbrkTerminate part entry s
  | .registerWrite offset size v => Sys2Proof.Machine.execRegisterWrite offset size v s
  | .recordRead part queue => Sys2Proof.Machine.execRecordRead part queue s
  | .placementDecision part => Sys2Proof.Machine.execPlacementDecision part s
  | .groupComplete part tree => Sys2Proof.Machine.execGroupComplete part tree s
  | .completionRecordWrite part queue => Sys2Proof.Machine.execCompletionRecordWrite part queue s
  | .preemptDecision part queue => Sys2Proof.Machine.execPreemptDecision part queue s
  | .partitionConfigure cfg => Sys2Proof.Machine.execPartitionConfigure cfg s
  | .hostCxlMemAccess part addr write bytes => Sys2Proof.Machine.execHostCxlMemAccess part addr write bytes s
  | .supplySag => Sys2Proof.Machine.execSupplySag s
  | .clockStepUp => Sys2Proof.Machine.execClockStepUp s
  | .dutyUpdate => Sys2Proof.Machine.execDutyUpdate s
  | .bootStep => Sys2Proof.Machine.execBootStep s
  | .getVersion => Sys2Proof.Machine.execGetVersion s
  | .getCapabilities => Sys2Proof.Machine.execGetCapabilities s
  | .negotiateAlgorithms => Sys2Proof.Machine.execNegotiateAlgorithms s
  | .getDigests => Sys2Proof.Machine.execGetDigests s
  | .getCertificate => Sys2Proof.Machine.execGetCertificate s
  | .challenge => Sys2Proof.Machine.execChallenge s
  | .getMeasurements => Sys2Proof.Machine.execGetMeasurements s
  | .vendorDefinedRequest => Sys2Proof.Machine.execVendorDefinedRequest s
  | .tsysNull => Sys2Proof.Machine.execTsysNull s
  | .communicatorCreate => Sys2Proof.Machine.execCommunicatorCreate s
  | .membershipChange => Sys2Proof.Machine.execMembershipChange s
  | .communicatorDelete => Sys2Proof.Machine.execCommunicatorDelete s
  | .cycleCount => Sys2Proof.Machine.execCycleCount s
  | .overflowAreaQuery => Sys2Proof.Machine.execOverflowAreaQuery s
  | .retry => Sys2Proof.Machine.execRetry s
  | .cont => Sys2Proof.Machine.execCont s
  | .terminate => Sys2Proof.Machine.execTerminate s
  | .freeze => Sys2Proof.Machine.execFreeze s
  | .brkRecordWrite => Sys2Proof.Machine.execBrkRecordWrite s
  | .faultResolve => Sys2Proof.Machine.execFaultResolve s
  | .migration => Sys2Proof.Machine.execMigration s
  | .stubForward => Sys2Proof.Machine.execStubForward s
  | .redirect => Sys2Proof.Machine.execRedirect s
  | .directoryRequest => Sys2Proof.Machine.execDirectoryRequest s
  | .stubTimeout => Sys2Proof.Machine.execStubTimeout s
  | .reclaimGrant => Sys2Proof.Machine.execReclaimGrant s
  | .remoteNack => Sys2Proof.Machine.execRemoteNack s
  | .remoteTimeout => Sys2Proof.Machine.execRemoteTimeout s
  | .knotTimeout => Sys2Proof.Machine.execKnotTimeout s
  | .knotSecondTimeout => Sys2Proof.Machine.execKnotSecondTimeout s
  | .terminationTimeout => Sys2Proof.Machine.execTerminationTimeout s
  | .partitionReset => Sys2Proof.Machine.execPartitionReset s
  | .routerIdleTimeout => Sys2Proof.Machine.execRouterIdleTimeout s
  | .routerWakeNotice => Sys2Proof.Machine.execRouterWakeNotice s
  | .umtuicCodewordError => Sys2Proof.Machine.execUmtuicCodewordError s
  | .d2dCrcError => Sys2Proof.Machine.execD2dCrcError s
  | .boundaryFailure => Sys2Proof.Machine.execBoundaryFailure s
  | .sramScrub => Sys2Proof.Machine.execSramScrub s
  | .sramUncorrectable => Sys2Proof.Machine.execSramUncorrectable s
  | .storageUncorrectable => Sys2Proof.Machine.execStorageUncorrectable s
  | .dramUncorrectable => Sys2Proof.Machine.execDramUncorrectable s
  | .dutyFrameBoundary => Sys2Proof.Machine.execDutyFrameBoundary s
  | .deviceReset => Sys2Proof.Machine.execDeviceReset s
  | .earlierEpochAnswer => Sys2Proof.Machine.execEarlierEpochAnswer s

end Sys2Proof.Machine
end

