-- ==== Sys2Proof/Machine/Sched.lean ====
section
/-! DEFINITION. What happens next: work that falls due, events whose cause is there, the bundles that the cores issue, the next cycle
(R29-R32, R44, R45, R53, R104-R106, R110-R117, R140); the words of an instruction placed where the next step fetches. -/
namespace Sys2Proof.Machine
open Sys2Proof

/-- One operation after another. -/
def Res.andThen (r : Res) (f : State → Res) : Res :=
  match r with
  | .next t => f t
  | .fault e => .fault e
  | .refused e => .refused e

/-! Issuing a bundle (R104-R106, R110-R117). -/

/-- Operations of the sync syllable that take effect with the end of their group (R39, R106, R112). -/
def atGroupEnd : Instr → Bool
  | .knot => true
  | .halt => true
  | _ => false
def State.setLane (s : State) (l : Lane) : State := { s with cur := { s.cur with lane := l, held := false } }
/-- One slot of a bundle: its syllable, when its predicate lets it perform, or the re-issue of the held one (R105, R106). -/
def State.issueLane (s : State) (b : Bundle) (i : Nat) (again : List (Nat × Lane)) (l : Lane) : Res :=
  match (b.slots.find? fun e => e.1 = l).map Prod.snd with
  | some y =>
    let s := s.setLane l
    Res.andThen (if s.me.performs y then exec y.op s else .next s) fun t => .next (t.setMe (t.me.setHold l y))
  | none =>
    if again.contains (i, l) then
      Res.andThen (exec (.heldReissue l) s) fun t =>
        match t.redo with
        | some op => exec op { t with redo := none }
        | none => .next t
    else .next s
/-- The slots of a bundle. -/
def State.issueLanes (b : Bundle) (i : Nat) (again : List (Nat × Lane)) : List Lane → State → Res
  | [], s => .next s
  | l :: r, s => Res.andThen (s.issueLane b i again l) (State.issueLanes b i again r)
/-- A group has issued its last bundle: the context goes on at the target or at the next bundle, what takes effect after the group
does, and a `knot` or `halt` stops the context (R31, R39, R41, R112, R136, R141). A target goes before a body that starts (log 64). -/
def State.endGroup (s : State) (core slot : Nat) (g : InGroup) : State :=
  let k := Machine.ck core slot
  let c := s.ctx k
  let dst := c.iss.target
  let c := if dst.isSome then c.leaveBody else c
  let form := ((g.bundles.head?).map fun b => b.2.2).getD []
  let after := c.iss.after ++ if c.iss.freezeAsked.isSome then [⟨.freeze, 0, g.start, g.tick0, form⟩] else []
  let s := s.setCtx k { c with grp := none, iss := { c.iss with pc := dst.getD g.next, target := none, after := after } }
  let s := s.runAfter core slot after
  let c := s.ctx k
  if c.iss.knot then
    (s.setCtx k { c with iss := { c.iss with blocked := if c.iss.freeze.isSome then c.iss.blocked else some .knotWait } }).stops core slot
  else if c.iss.halted then (s.stops core slot).settleRoutine core slot
  else s
/-- The tick of a bundle is over (R7, R118, R140). -/
def State.endBundle (s : State) (core slot : Nat) : State :=
  let k := Machine.ck core slot
  let c := s.ctx k
  match c.grp with
  | none => s
  | some g =>
    let t := c.iss.tick + 1
    let h := s.core core
    let s := s.setCore core { h with shadow := h.shadow.filter fun e => !(e.slot = slot && e.kind.sees e.tick t (t - 1)) }
    let body := c.body.map fun b => { b with left := b.left - 1, ended := b.left ≤ 1 }
    let g := { g with idx := g.idx + 1 }
    let s := s.setCtx k { c with grp := some g, body, iss := { c.iss with tick := t } }
    if g.idx < g.bundles.length then s else s.endGroup core slot g
/-- The bundle of a group in hand: landings first, the sync operation and the slots, the row of a fill, the end of the tick. -/
def State.runBundle (s : State) (core slot : Nat) (g : InGroup) : Res :=
  match g.bundles[g.idx]? with
  | none => .next s
  | some (pc, b, _) =>
    let s : State := { s with cur := { core, slot, lane := .sync, pc, link := g.next, held := false } }
    Res.andThen (exec (.landing core slot) s) fun s =>
    Res.andThen (if atGroupEnd b.sync then .next s else exec b.sync s) fun s =>
    Res.andThen (State.issueLanes b g.idx g.again Lane.slots s) fun s =>
    Res.andThen (if atGroupEnd b.sync then exec b.sync (s.setLane .sync) else .next s) fun s =>
    .next ((s.fillTick core slot).endBundle core slot)
/-- Whether a context's issue must wait for the exchange of another gang on its core (R44, R45). -/
def State.barred (s : State) (core slot : Nat) : Bool :=
  let h := s.core core
  let p := (s.ctx (Machine.ck core slot)).place
  (match h.exchanging with
    | some k => k ≠ slot
    | none => false) ||
  match h.reserved with
  | some x => x ≠ (p.part, p.tree)
  | none => false
/-- A core's turn in a cycle: the selector chooses, or the issuing context enters a group and issues a bundle (R29-R32, R110, R113). -/
def State.turnCore (s : State) (core : Nat) : Res :=
  let h := s.core core
  match h.issuing with
  | none =>
    let t := s.select core
    .next (if h.choose = some s.now && (t.core core).issuing.isSome then { t with turn := core :: t.turn } else t)
  | some slot =>
    let c := s.ctx (Machine.ck core slot)
    if h.choose.any fun n => s.now < n then .next s
    else match c.grp with
      | some g => s.runBundle core slot g
      | none =>
        if s.barred core slot then .next s
        else if !c.iss.placed || c.iss.halted || c.iss.freeze.isSome || c.iss.blocked.isSome then .next (s.stops core slot)
        else if !c.dutyOk then .next s
        else Res.andThen (exec (.groupEntry core) s) fun t =>
          match (t.ctx (Machine.ck core slot)).grp with
          | some g => t.runBundle core slot g
          | none => .next t

/-! Events whose cause is there. -/

/-- Contexts with something in them: core, slot, context. -/
def State.contexts (s : State) : List (Nat × Nat × Ctx) := s.ctxs.map fun e => (e.1 / 4, e.1 % 4, e.2)
/-- Gangs placed: partition, tree, gang. -/
def State.gangs (s : State) : List (Nat × Nat × Gang) :=
  [0, 1, 2, 3].flatMap fun (p : Nat) => (s.part p).gangs.map fun e => (p, e.1, e.2)
/-- Queues in use: partition and number. -/
def State.queues (s : State) : List (Nat × Nat) :=
  [0, 1, 2, 3].flatMap fun (p : Nat) => (s.part p).queues.map fun e => (p, e.1)
/-- Whether a head of higher effective priority than a saved gang's can be placed, while groups are placed: it goes first (R302, R311, R319). -/
def State.outranked (s : State) (part : Nat) (v : Saved) : Bool :=
  let p := s.part part
  s.places && (p.heads s.now).any fun e =>
    effPrio p v.gang.prio v.since s.now < effPrio p (rPrio e.2.words) e.2.since s.now && (s.findPlace part e.1 e.2).isSome
/-- Saved gangs by rank that are restored now: partition and tree (R311). -/
def State.restores (s : State) : List (Nat × Nat) :=
  [0, 1, 2, 3].flatMap fun (p : Nat) =>
    let key (v : Saved) : Nat := ((3 - effPrio (s.part p) v.gang.prio v.since s.now) * 2 ^ 64 + v.since) * 16 + v.tree
    ((sortBy (fun a b => key a ≤ key b) (s.part p).saved).filter fun v => s.restoreDue p v && !s.outranked p v).map fun v => (p, v.tree)
/-- Communicators whose engine has something to do: die and number. -/
def State.engines (s : State) : List (Nat × Nat) := s.fabric.cles.map fun e => (e.1 / 64, e.1 % 64)
/-- The first element for which something is due. -/
def firstDue {α : Type} (l : List α) (due : α → Bool) (ev : α → Instr × List Nat) : Option (Instr × List Nat) := (l.find? due).map ev
/-- An event of the cores, gangs and matrix units whose cause is there. -/
def State.coreEvent (s : State) : Option (Instr × List Nat) :=
  firstDue s.contexts (fun e => (e.2.2.body).any Body.ended) (fun e => (.loopPassEnd e.1 e.2.1, [])) <|>
  firstDue s.contexts (fun e => s.arrives e.1 e.2.1) (fun e => (.knotArrival e.1 e.2.1, [])) <|>
  firstDue s.gangs (fun e => s.dutyDue e.2.2) (fun e => (.dutyFrameBoundary, [e.1, e.2.1])) <|>
  firstDue s.gangs (fun e => s.grantReady e.1 e.2.1) (fun e => (.exchangeGrant e.1 e.2.1, [])) <|>
  firstDue s.gangs (fun e => s.saveDue e.1 e.2.1) (fun e => (.preemptSave e.1 e.2.1, [])) <|>
  firstDue s.restores (fun _ => true) (fun e => (.gangRestore e.1 e.2, [])) <|>
  firstDue s.gangs (fun e => s.gangDone e.1 e.2.1) (fun e => (.groupComplete e.1 e.2.1, [])) <|>
  firstDue s.contexts (fun e => s.entryReady e.1 e.2.1) (fun e => (.matrixEntryStart e.1 e.2.1, [])) <|>
  firstDue s.cores (fun e => s.xformDue e.1) (fun e => (.xformRun e.1, []))
/-- An event of the ropes, the synchronisation engines, the collective and the posting-list engines whose cause is there. -/
def State.engineEvent (s : State) : Option (Instr × List Nat) :=
  (if ropesDue s then some (.ropeBeat, []) else none) <|>
  s.seDue.map (fun i => (i, [])) <|>
  firstDue s.engines (fun e => s.applyDue e.1 e.2 && !s.eventWaits (.membershipApply e.1 e.2) []) (fun e => (.membershipApply e.1 e.2, [])) <|>
  firstDue s.engines (fun e => s.collDue e.1 e.2 && !s.eventWaits (.collectiveStart e.1 e.2) []) (fun e => (.collectiveStart e.1 e.2, [])) <|>
  firstDue s.engines (fun e => s.sendDue e.1 e.2 && !s.eventWaits (.chunkSendStart e.1 e.2) []) (fun e => (.chunkSendStart e.1 e.2, [])) <|>
  firstDue s.engines (fun e => s.collEnds e.1 e.2) (fun e => (.collectiveComplete e.1 e.2, [])) <|>
  firstDue s.fabric.msgs (fun m => s.routedReady m.pkt && !s.eventWaits (.routedRowSend m.id) []) (fun m => (.routedRowSend m.id, [])) <|>
  firstDue s.fabric.msgs (fun m => m.from_.isNone && s.routedDue m.pkt && !s.eventWaits (.routedRowArrival m.id) []) (fun m => (.routedRowArrival m.id, [])) <|>
  firstDue (s.dies.flatMap fun e => e.2.ple.map fun q => e.1 * 6 + q.1 % 6) (fun n => (s.plNext n).isSome) (fun n => (.plQueryAccept n, []))
/-- An event of the scheduler and the control cores whose cause is there. -/
def State.controlEvent (s : State) : Option (Instr × List Nat) :=
  firstDue s.queues (fun e => s.recordReady e.1 e.2) (fun e => (.completionRecordWrite e.1 e.2, [])) <|>
  firstDue s.queues (fun e => s.recordDue e.1 e.2) (fun e => (.recordRead e.1 e.2, [])) <|>
  firstDue [0, 1, 2, 3] s.placementDue (fun p => (.placementDecision p, [])) <|>
  firstDue s.queues (fun e => !(s.preempts e.1 e.2).isEmpty) (fun e => (.preemptDecision e.1 e.2, [])) <|>
  firstDue [0, 1, 2, 3] s.brkDue (fun p => (.brkRecordWrite, [p]))
/-- An event whose cause is there. -/
def State.background (s : State) : Option (Instr × List Nat) := s.coreEvent <|> s.engineEvent <|> s.controlEvent

/-! The next cycle. -/

/-- One row write of a core becomes visible, or none: which, and when, is open (R53; log 5). -/
def State.commitOne (s : State) (core : Nat) : State :=
  let h := s.core core
  let n := Config.index s.fresh % h.log.length
  (if s.chooses && h.mayCommit n then s.setCore core (h.commitAt n) else s).bump
/-- Row writes become visible, firmware makes its copies that have come due, and every core with a placed context has its turn again. -/
def State.advance (s : State) : State :=
  let s := s.cores.foldl (fun t e => if e.2.log.isEmpty then t else t.commitOne e.1) s
  let s := [0, 1, 2, 3].foldl (fun t p => t.copyEvents p (t.part p).ring.copies.length) s
  let on := ((s.contexts.filter fun e => e.2.2.iss.placed).map Prod.fst).eraseDups
  { s with now := s.now + 1, turn := on }

/-! What happens next. -/

/-- The first work that has fallen due: the earliest, and of one cycle the first in the list. -/
def State.dueNow (s : State) : Option Due :=
  (s.pending.filter fun d => d.at_ ≤ s.now).foldl (fun (b : Option Due) d => match b with
    | some x => if d.at_ < x.at_ then some d else some x
    | none => some d) none
/-- A blocked context whose condition has cleared. -/
def State.clears (s : State) : Option (Nat × Nat) :=
  (s.contexts.find? fun e => e.2.2.iss.blocked.isSome && s.condCleared e.1 e.2.1).map fun e => (e.1, e.2.1)
/-- What happens next: nothing more, an operation, a microword that is no instruction, a core's turn, the next cycle. -/
inductive Pick
  | stopped | run (i : Instr) (s : State) | unassigned (s : State) | turn (core : Nat) (s : State) | tick
  deriving DecidableEq, Repr
/-- Whether the boot has stopped and no group is left that could go on (R380). -/
def State.stopped (s : State) : Bool := s.control.svc = 3 && !s.ctxs.any fun e => e.2.iss.placed
/-- What is due comes first, then events whose cause is there, then the cores' turns, then conditions that have cleared (log 3). -/
def State.pick (s : State) : Pick :=
  if s.stopped then .stopped
  else match s.redo with
    | some i => .run i { s with redo := none }
    | none =>
      match s.dueNow with
      | some d =>
        let t : State := { s with pending := s.pending.erase d, subject := d.subject }
        match d.work with
        | .event i => .run i t
        | .micro core slot =>
          let t : State := { t with cur := { t.cur with core, slot } }
          match t.nextMicro with
          | some i => .run i t
          | none => .unassigned t
      | none =>
        match s.background with
        | some (i, l) => .run i { s with subject := l }
        | none =>
          match s.turn with
          | c :: r => .turn c { s with turn := r }
          | [] =>
            match s.clears with
            | some (core, slot) => .run (.conditionClears core slot) s
            | none => .tick
/-- Do what happens next. -/
def Pick.go (p : Pick) (s : State) : Res :=
  match p with
  | .stopped => .fault .bootStopped
  | .run i t => exec i t
  | .unassigned t => .next (t.microFail 2)
  | .turn core t => t.turnCore core
  | .tick => .next s.advance

/-! An instruction where the next step fetches. -/

/-- Write 64-bit words at consecutive device addresses. -/
def putWords (m : Memory) (a : Nat) : List Word64 → Memory
  | [] => m
  | w :: r => putWords (m.writeN a (bytesLE 8 w.toNat)) (a + 8) r
/-- The words of a bundle at partition address 0x1_0000 of partition 0, which stage two maps to DRAM frame 1, with a context placed on
core 0 that issues there now. -/
def State.placeWords (s : State) (ws : List Word64) : State :=
  let c := s.ctx 0
  let place := if c.iss.placed then { c.place with part := 0 } else { c.place with part := 0, base := 0, limit := 2559 }
  let iss := { c.iss with placed := true, pc := 0x10000, halted := false, freeze := none, blocked := none, ready := s.now, grant := none,
                          knot := false, arrived := false, routineEvent := none, throttled := false, after := [], target := none, skip := 0 }
  let h := s.core 0
  let p := s.part 0
  let s := s.setCtx 0 { c with iss, place, grp := none, body := none }
  let s := s.setCore 0 { h with issuing := some 0, choose := none, gated := false, exchanging := none, reserved := none, icache := [] }
  let s := s.setPart 0 { p with cfg := { p.cfg with first := 0, dies := if p.cfg.dies.isEmpty then [0] else p.cfg.dies, s2base := 0, s2len := max 16 p.cfg.s2len } }
  let mem := putWords (s.mem.writeN 8 (bytesLE 8 0x8000000000000001)) 0x10000 ws
  { s with mem, control := { s.control with svc := 2 }, pending := [], redo := none, turn := [0] }

end Sys2Proof.Machine
end

