-- ==== Sys2Proof/Machine/Step.lean ====
section
/-! DEFINITION. The step of the device, and an instruction placed where the next step fetches it. -/
namespace Sys2Proof.Machine
open Sys2Proof

/-- One step: one event, or one core's turn in a cycle, or the next cycle. -/
def step (s : State) : Host.Outcome State Fault Refusal := s.pick.go s

/-- The state with an instruction where the next step fetches: the bits above nbits are 0 (log 40). -/
def State.withFetchWord (s : State) (nbits w : Nat) : State := s.placeWords (wordsOf 8 (w % 2 ^ nbits))

end Sys2Proof.Machine
end

