-- ==== Sys2Proof/Safety.lean ====
section
/-! DEFINITION. The terms in which claims are stated: results that join a landing buffer, what an instruction leaves unchanged, runs, and
the invariant that every step keeps. -/
namespace Sys2Proof.Machine
open Sys2Proof

/-! Results (R114, R115). -/

/-- Results join the landing buffer of the context in hand, and nothing else changes. -/
def State.lands (s : State) (rs : List Result) : State := s.setMe { s.me with landing := s.me.landing ++ rs }
/-- A result that replaces the bits of a mask, L ticks from now; it holds a landing slot from two ticks on (R58). -/
def State.lander (s : State) (L : Nat) (d : Dest) (v mask : Row) (flags : BitVec 6) : Result :=
  { due := s.tick + L, dest := d, val := v, mask, flags, slot := 2 ≤ L, arrived := true, id := 0 }
/-- What a register holds once a result is written to it: in the bits of the result's mask its value, in the others what it held (R114, R148). -/
def Result.Updates {w : Nat} (r : Result) (old new : BitVec w) : Prop :=
  ∀ i, i < w → new.getLsbD i = if r.mask.getLsbD i then r.val.getLsbD i else old.getLsbD i
/-- Register n of a file is updated by a result, and every other one stays. -/
def Result.UpdatesFile {w : Nat} (r : Result) (d : BitVec w) (old new : Sp (BitVec w)) (n : Nat) : Prop :=
  r.Updates (Sp.get d old n) (Sp.get d new n) ∧ ∀ m, m ≠ n → Sp.get d new m = Sp.get d old m
/-- The registers after one result has been written, whatever its destination: it gathers its flags in `fmt`, updates its destination, and keeps
every other register; s0 and p0 discard, `mring` sets the pair, a transfer descriptor is replaced whole, and a cursor is a field of one (R91, R92,
R114, R127). -/
def Result.Lands (r : Result) (old new : Regs) : Prop :=
  let g := { old with fmt := old.fmt ||| (BitVec.setWidth 64 r.flags <<< 40) }
  match r.dest with
  | .s n => if n = 0 then new = g else new = { g with s := new.s } ∧ r.UpdatesFile 0 g.s new.s n
  | .a n => new = { g with a := new.a } ∧ r.UpdatesFile 0 g.a new.a n
  | .p n => if n = 0 then new = g else new = { g with p := new.p } ∧
      ∀ m, m < 16 → new.p.getLsbD m = if m = n ∧ r.mask.getLsbD 0 = true then r.val.getLsbD 0 else g.p.getLsbD m
  | .k n => new = { g with k := new.k } ∧ r.UpdatesFile (BitVec.allOnes 128) g.k new.k n
  | .v n => new = { g with v := new.v } ∧ r.UpdatesFile 0 g.v new.v n
  | .lc n => new = { g with lc := new.lc } ∧ r.UpdatesFile 0 g.lc new.lc n
  | .li n => new = { g with li := new.li } ∧ r.UpdatesFile 0 g.li new.li n
  | .stride n => new = { g with stride := new.stride } ∧ r.UpdatesFile 0 g.stride new.stride n
  | .iter n => new = { g with iter := new.iter } ∧ r.UpdatesFile 0 g.iter new.iter n
  | .mp n => new = { g with mp := new.mp } ∧ r.UpdatesFile 0 g.mp new.mp n
  | .ma n => new = { g with ma := new.ma } ∧ r.UpdatesFile 0 g.ma new.ma n
  | .nb n => new = { g with nb := new.nb } ∧ r.UpdatesFile 0 g.nb new.nb n
  | .fmtTab n => new = { g with fmtTab := new.fmtTab } ∧ r.UpdatesFile 0 g.fmtTab new.fmtTab n
  | .ring n => new = { g with ring := new.ring } ∧ r.UpdatesFile 0 g.ring new.ring n
  | .vrb => new = { g with vrb := new.vrb } ∧ r.Updates g.vrb new.vrb
  | .lpc => new = { g with lpc := new.lpc } ∧ r.Updates g.lpc new.lpc
  | .fmt => new = { g with fmt := new.fmt } ∧ r.Updates g.fmt new.fmt
  | .ringPair => new = { g with ringA := r.val.extractLsb' 0 3, ringB := r.val.extractLsb' 3 3 }
  | .td n => new = { g with td := new.td } ∧ Sp.get none new.td n = some (r.val.setWidth 512) ∧
      ∀ m, m ≠ n → Sp.get none new.td m = Sp.get none g.td m
  | .cursor n => new = { g with td := new.td } ∧ (∀ m, m ≠ n → Sp.get none new.td m = Sp.get none g.td m) ∧
      match Sp.get none g.td n with
      | none => Sp.get none new.td n = none
      | some d => ∃ e, Sp.get none new.td n = some e ∧
          ∀ i, i < 512 → e.getLsbD i = if 384 ≤ i ∧ i < 432 then r.val.getLsbD (i - 384) else d.getLsbD i
/-- A scalar value lands whole in a register. -/
def State.landsS (s : State) (L : Nat) (d : Dest) (v : Word64) : State := s.lands [s.lander L d (v.setWidth 1024) allOnes 0]
/-- A predicate lands. -/
def State.landsP (s : State) (pd : BitVec 4) (b : Bool) : State := s.lands [s.lander 1 (.p pd.toNat) (BitVec.ofNat 1024 (b2n b)) 1 0]
/-- A mask lands whole. -/
def State.landsK (s : State) (kd : BitVec 3) (x : BitVec 128) : State := s.lands [s.lander 2 (.k kd.toNat) (x.setWidth 1024) allOnes 0]

/-- Lane by lane what a vector result of n lanes of w bits holds: an active lane is written whole with its value, the bits of another
lane are not written (R148). -/
def LaneResult (r : Result) (w n : Nat) (act : Nat → Bool) (f : Nat → Nat × FFlags) : Prop :=
  ∀ i, i < n →
    (act i = true → laneN r.mask w i = 2 ^ w - 1 ∧ laneN r.val w i = (f i).1 % 2 ^ w) ∧
    (act i = false → laneN r.mask w i = 0)
/-- The flags of the active lanes together (R91, R148). -/
def flagsOver (act : Nat → Bool) (f : Nat → Nat × FFlags) (n : Nat) : FFlags :=
  (List.range n).foldl (fun x i => if act i then x ||| (f i).2 else x) 0
/-- An instruction completes with one lane-wise result in the vector register that it names d, L ticks from now, one less for a q name
(R115), in the physical register that the rotation base gives at issue (R142); nothing else changes. -/
def LandsLanes (i : Instr) (s : State) (d : BitVec 10) (L w n : Nat) (act : Nat → Bool) (f : Nat → Nat × FFlags) : Prop :=
  ∃ r : Result, exec i s = .next (s.lands [r]) ∧ r.due = s.tick + vLat d.toNat L ∧ r.dest = s.vDest d.toNat ∧ r.arrived = true ∧
    r.flags = flagsOver act f n ∧ LaneResult r w n act f
/-- The same for a common-layout operation whose lanes depend on the lanes of the first source, under its mask (R146-R148). -/
def Lanewise1 (i : Instr) (s : State) (o : VecOp) (L : Nat) (f : Nat → Nat × FFlags) : Prop :=
  LandsLanes i s o.d L o.w o.n (active o.ke (s.k o.km) o.n) fun j => f (laneN (s.v o.a) o.w j)
/-- Of both sources. -/
def Lanewise2 (i : Instr) (s : State) (o : VecOp) (L : Nat) (f : Nat → Nat → Nat × FFlags) : Prop :=
  LandsLanes i s o.d L o.w o.n (active o.ke (s.k o.km) o.n) fun j => f (laneN (s.v o.a) o.w j) (laneN (s.v o.b) o.w j)
/-- Of three sources. -/
def Lanewise3 (i : Instr) (s : State) (o : VecOp) (L : Nat) (f : Nat → Nat → Nat → Nat × FFlags) : Prop :=
  LandsLanes i s o.d L o.w o.n (active o.ke (s.k o.km) o.n) fun j =>
    f (laneN (s.v o.a) o.w j) (laneN (s.v o.b) o.w j) (laneN (s.v o.c) o.w j)
/-- A conversion completes with its elements placed by R155: element j of the part is read at width wf and written at width wt, and no other
bits are. -/
def LandsElements (i : Instr) (s : State) (o : CvtOp) (f : Nat → Nat → Nat × FFlags) : Prop :=
  let wf := o.from.width
  let wt := o.to.width
  let n := 1024 / max wf wt
  let act := active o.ke (s.k o.km) n
  let src (j : Nat) : Nat := laneN (s.v o.a) wf (if wf < wt then o.part.toNat * n + j else j)
  let place (j : Nat) : Nat := if wf > wt then o.part.toNat * n + j else j
  ∃ r : Result, exec i s = .next (s.lands [r]) ∧ r.due = s.tick + vLat o.d.toNat 4 ∧ r.dest = s.vDest o.d.toNat ∧
    r.flags = flagsOver act (fun j => f j (src j)) n ∧
    (∀ j, j < n → act j = true → laneN r.mask wt (place j) = 2 ^ wt - 1 ∧ laneN r.val wt (place j) = (f j (src j)).1 % 2 ^ wt) ∧
    ∀ m, m < 1024 / wt → (∀ j, j < n → act j = true → place j ≠ m) → laneN r.mask wt m = 0
/-- An instruction completes with one whole vector result. -/
def LandsRow (i : Instr) (s : State) (d : BitVec 10) (L : Nat) (v : Row) (flags : BitVec 6) : Prop :=
  exec i s = .next (s.lands [s.lander (vLat d.toNat L) (s.vDest d.toNat) v allOnes flags])

/-! Numbers (R84, R88-R90). -/

/-- The integer i for which a finite value is i x 2^e, when there is one. -/
def Num.units (e : Int) : Num → Option Int
  | .fin s m g =>
    let signed (n : Nat) : Int := if s then -n else n
    if e ≤ g then some (signed (m * 2 ^ (g - e).toNat)) else if m % 2 ^ (e - g).toNat = 0 then some (signed (m / 2 ^ (e - g).toNat)) else none
  | _ => none
/-- How n x 2^g compares with m x 2^e. -/
def cmpPow (n : Nat) (g : Int) (m : Nat) (e : Int) : Ordering := compare (n * 2 ^ (g - min g e).toNat) (m * 2 ^ (e - min g e).toNat)
/-- A code and its flags are a value of a given sign, rounded once to a float format, to nearest, ties to the even code; the value's magnitude, not 0,
is known by how each n x 2^g compares with it. A magnitude code c stands for m x 2^e, and the midpoint to the next code is (2m + 1) x 2^(e - 1); past
the largest finite code, and for the flags, R89 and R90 decide. -/
def RoundsTo (f : Fmt) (quant neg : Bool) (cmp : Nat → Int → Ordering) (r : Nat × FFlags) : Prop :=
  let sign := if neg then 2 ^ (f.width - 1) else 0
  let value (c : Nat) : Ordering := match decodeNum f c with | .fin _ m e => cmp m e | _ => .gt
  let midpoint (c : Nat) : Ordering := match decodeNum f c with | .fin _ m e => cmp (2 * m + 1) (e - 1) | _ => .gt
  let past : Prop := if f.hasInf then midpoint f.maxCode ≠ .gt else value f.maxCode = .lt
  (past → r = if f.hasInf && !quant then (sign + f.infCode, flOf ||| flIx) else (sign + f.maxCode, flSat ||| flIx)) ∧
  (¬past → ∃ c, c ≤ f.maxCode ∧ r.1 = sign + c ∧
    (c < f.maxCode → midpoint c ≠ .lt ∧ (midpoint c = .eq → c % 2 = 0)) ∧
    (0 < c → midpoint (c - 1) ≠ .gt ∧ (midpoint (c - 1) = .eq → c % 2 = 0)) ∧
    r.2 = if value c = .eq then 0 else flIx ||| (if cmp 1 (1 - (f.bias : Int)) = .gt then flUf else 0))
/-- The same for every exact value: NaN, infinities, zeros and the rest (R85, R89; the flags of a NaN by log 38). -/
def RoundedFrom (f : Fmt) (quant : Bool) (x : Machine.Num) (r : Nat × FFlags) : Prop :=
  let sign (s : Bool) := if s then 2 ^ (f.width - 1) else 0
  match x with
  | .nan => r = (f.nan, if f = .f8e4 then 0 else flIv)
  | .inf s => r = if f.hasInf && !quant then (sign s + f.infCode, 0) else (sign s + f.maxCode, flSat)
  | .fin s 0 _ => r = (sign s, 0)
  | .fin s (m + 1) e => RoundsTo f quant s (fun n g => cmpPow n g (m + 1) e) r
/-- An integer r is a value of i units, u of which make 1, to the nearest integer, ties to even. -/
def NearestInt (u : Nat) (i r : Int) : Prop := 2 * (r * u - i).natAbs ≤ u ∧ (2 * (r * u - i).natAbs = u → r % 2 = 0)

/-! What stays. -/

/-- Memory, as the model reads a byte of it, is unchanged. -/
def KeepsMemory (s t : State) : Prop := ∀ a, t.mem.read a = s.mem.read a
/-- Every other context is unchanged. -/
def KeepsOthers (s t : State) : Prop := ∀ k, k ≠ s.ck → t.ctx k = s.ctx k
/-- Every context is unchanged. -/
def KeepsContexts (s t : State) : Prop := ∀ k, t.ctx k = s.ctx k
/-- Every core is unchanged: scratchpad rows, guards, ropes, microprogram store. -/
def KeepsCores (s t : State) : Prop := ∀ n, t.core n = s.core n
/-- The device beyond cores and contexts is unchanged: dies, partitions, commands, accesses, operations of synchronisation engines,
fabric, control side, clock, the operation in hand. -/
def KeepsDevice (s t : State) : Prop :=
  t.dies = s.dies ∧ t.parts = s.parts ∧ t.cmds = s.cmds ∧ t.accesses = s.accesses ∧ t.seReqs = s.seReqs ∧ t.fabric = s.fabric ∧
    t.control = s.control ∧ t.now = s.now ∧ t.cur = s.cur
/-- A context keeps its registers, its matrix state, its place and its channels. -/
def Ctx.KeepsState (c d : Ctx) : Prop :=
  d.regs = c.regs ∧ d.matrix = c.matrix ∧ d.place = c.place ∧ d.chan = c.chan ∧ d.hold = c.hold

/-! Scratchpad rows. -/

/-- The results of a row operand: the address register that post-modification writes (R117, R167). -/
def State.posts (s : State) (r : RowRef) : List Result :=
  if r.pm then [s.lander 1 (.a r.an.toNat) ((BitVec.setWidth 64 (s.a r.an + BitVec.ofInt 32 r.off.toInt)).setWidth 1024) allOnes 0] else []
/-- An instruction of the ST slot that may write a row, use a rope or start a fill (R168-R175). -/
def isStore : Instr → Bool
  | .stRow _ _ | .stRowk _ _ _ _ | .stLane _ _ _ _ | .stFill _ _ _ | .stRing _ _ | .xsend _ _ _ _ _ | .xsel _ _ _ _ _ _ => true
  | _ => false
/-- The row that a store writes at its tick: a row operand's row, or the next row that its ring reserves (R168, R170). -/
def State.storedRow (s : State) : Instr → Option Nat
  | .stRow _ r | .stRowk _ r _ _ | .stLane _ r _ _ => some (s.rowOf r)
  | .stRing _ n => some (ringRow (s.me.regs.ringOf n.toNat) (ringResv (s.me.regs.ringOf n.toNat)))
  | _ => none
/-- The row operand of a store, which may post-modify its address register. -/
def storeRowRef : Instr → Option RowRef
  | .stRow _ r | .stRowk _ r _ _ | .stLane _ r _ _ | .stFill _ r _ | .xsend _ r _ _ _ | .xsel r _ _ _ _ _ => some r
  | _ => none

/-- A row write that an engine, a fill or a multiplexer makes takes core c to core d in the order that `lfence` makes (R53): where nothing waits for an
earlier fill, the write is visible, after every logged write of its context that comes before it, to its row or from before its `lfence`; while rows of
a fill from before its `lfence` are to come, it stays in the log; rows that neither it nor a logged write names stay. -/
def WrittenInOrder (c d : Core) (w : RowWrite) : Prop :=
  ((∀ e ∈ w :: c.log, d.fillFirst e = false) →
    d.row w.row = blend (applyLog (c.log.filter fun e => e.slot = w.slot) w.row (c.row w.row)) w.val w.mask ∧ (∀ e ∈ d.log, e.precedes w = false) ∧
    (∀ e ∈ c.log, e.slot ≠ w.slot → e ∈ d.log)) ∧
  (d.fillFirst w = true → d.rows = c.rows ∧ d.log = c.log ++ [w]) ∧
  ∀ a, a ≠ w.row → (∀ e ∈ c.log, e.row ≠ a) → d.row a = c.row a

/-! Matrix routines. -/

/-- A microword of the context in hand is done: the routine, changed as told, goes on at an address in the next cycle (R198); nothing else changes. -/
def GoesOn (i : Instr) (s : State) (r : MRun) : Prop :=
  exec i s = .next { s.setMe (s.me.setRun r) with pending := s.pending ++ [⟨s.now + 1, .micro s.cur.core s.cur.slot, []⟩] }
/-- A microword of the context in hand waits: it is performed again in the next cycle, and nothing else changes. -/
def Waits (i : Instr) (s : State) : Prop := exec i s = .next { s with pending := s.pending ++ [⟨s.now + 1, .micro s.cur.core s.cur.slot, []⟩] }
/-- A tile keeps its elements. -/
def KeepsTile (acc : Bool) (m n : Matrix) : Prop := ∀ r c, r < 32 → c < 32 → n.pair acc r c = m.pair acc r c

/-! Copy commands. -/

/-- An event of the device falls due at some later cycle. -/
def Scheduled (t : State) (i : Instr) (subject : List Nat) : Prop := ∃ n, ⟨n, .event i, subject⟩ ∈ t.pending
/-- A command of the context in hand is issued: it joins the commands in flight, keeps its channel busy for its beats, and its first request
leaves in this cycle (R203, R207). Registers but a ring's stay until results land; rows, memory and other contexts stay. -/
def Issues (s t : State) (i : Instr) (ch : Nat) (c : Cmd) : Prop :=
  t.cmds = s.cmds ++ [c] ∧ c.id = s.fresh ∧ c.op = i ∧ c.core = s.cur.core ∧ c.slot = s.cur.slot ∧ c.ch = ch ∧ c.tick = s.tick ∧ c.sent = 0 ∧
    (Sp.get Chan.reset t.me.chan ch).free = s.now + c.beats ∧ ⟨s.now, .event (.copyRequest s.fresh), []⟩ ∈ t.pending ∧
    t.me.regs = { s.me.regs with ring := t.me.regs.ring } ∧ t.me.matrix = s.me.matrix ∧ t.me.iss = s.me.iss ∧ KeepsOthers s t ∧ KeepsMemory s t ∧
    (∀ a, t.here.row a = s.here.row a) ∧ ∀ n, n ≠ s.cur.core → t.core n = s.core n
/-- A row is guarded for a command of the context in hand (R54, R207). -/
def Guards (s t : State) (row : Nat) (pend : Bool) : Prop := ⟨row, pend, s.fresh, s.cur.slot, none⟩ ∈ t.here.guards
/-- The transfer commands of the copy slot (R204). -/
def transferOp : Instr → Option CopyOp
  | .cpIn o | .cpOut o | .cpAcc o | .cpGat o | .cpSca o | .cpSl o | .cpRep o => some o
  | _ => none

/-! Synchronisation. -/

/-- A request goes to a synchronisation engine: it joins the requests in flight, later than now and not before an earlier one of the
same context to the same engine (R236, R237). -/
def Sends (s t : State) (i : Instr) (die : Nat) (h y z : Word64) : Prop :=
  ∃ at_, t.seReqs = s.seReqs ++ [⟨s.fresh, at_, s.cur.core, s.cur.slot, s.me.place, i, h, y, z, die, false, 0, none⟩] ∧ s.now < at_ ∧
    ∀ q ∈ s.seReqs, q.core = s.cur.core → q.slot = s.cur.slot → q.die = die → q.at_ ≤ at_
/-- Operations that return a value. -/
def seReturns : Instr → Bool
  | .seLd _ | .seAdd _ | .seMin _ | .seMax _ | .seAnd _ | .seOr _ | .seXor _ | .seSwap _ | .seCas _ | .seArrive _ | .seAlloc _ => true
  | _ => false
/-- Operations that wait for a grant. -/
def seWaits : Instr → Bool
  | .seAwait _ | .seSemdown _ => true
  | _ => false
/-- The operands of an operation of the synchronisation engine. -/
def seOp : Instr → Option SeOp
  | .seLd o | .seSt o | .seAdd o | .seMin o | .seMax o | .seAnd o | .seOr o | .seXor o | .seSwap o | .seCas o | .seArrive o | .seAwait o
  | .seSemdown o | .seSemup o | .seAlloc o | .seFree o => some o
  | _ => none

/-! Destinations. -/

/-- The address register that a row operand writes: none unless it is post-modified (R167). -/
def RowRef.dests (r : RowRef) : List Dest := if r.pm then [.a r.an.toNat] else []
/-- The registers that an instruction of the S, VA, VB, MX or LD slot, or `fmtset`, names as its destinations, under a rotation base
(R92, R109, R142); the address register is the one that post-modification writes (R167). -/
def dests (vrb : Nat) : Instr → List Dest
  | .sadd o | .ssub o | .smul o | .smulh o | .smulhn o | .sdiv o | .sdivn o | .srem o | .sremn o | .sand o | .sor o | .sxor o | .sandn o
  | .sshl o | .sshr o | .ssra o | .srot o | .sclz o | .sctz o | .spop o | .smin o | .smax o | .sminn o | .smaxn o => [.s o.d.toNat]
  | .ssel o => [.s o.d.toNat]
  | .sli d _ | .slih d _ | .call d _ | .mfs d _ | .kpop d _ => [.s d.toNat]
  | .smov d _ kind idx _ =>
    match kind.toNat with
    | 2 => [.k idx.toNat]
    | 6 => [.lc idx.toNat]
    | 7 => [.li idx.toNat]
    | _ => [.s d.toNat]
  | .scmp o => [.p (o.d.toNat % 16)]
  | .pand d _ _ | .por d _ _ | .pxor d _ _ | .pnot d _ | .pmov d _ _ => [.p d.toNat]
  | .loop l _ _ _ _ => [.lc l.toNat, .stride l.toNat, .li l.toNat, .iter l.toNat]
  | .mts _ spec => if spec = 5 then [.vrb] else if spec = 6 then [.fmt] else if 16 ≤ spec.toNat then [.ring (spec.toNat - 16)] else []
  | .amov dir ar sr => if dir then [.s sr.toNat] else [.a ar.toNat]
  | .aadd ad _ _ _ _ => [.a ad.toNat]
  | .fmtset _ => [.fmt]
  | .vadd o | .vsub o | .vmul o | .vfma o | .vfms o | .vfnma o | .vmin o | .vmax o | .vabs o | .vneg o | .vrcp o | .vrsqrt o | .vexp2 o
  | .vlog2 o | .vrnd o | .vsel o | .vmulh o | .vsadd o | .vssub o | .vshl o | .vshr o | .vsra o | .vand o | .vor o | .vxor o | .vandn o
  | .vpopc o | .vperm o | .vbcast o | .vshuf o | .vslide o | .vredsum o | .vredmax o | .vredmin o | .vscan o | .vmov o | .vidx o =>
    [.v (physical vrb o.d.toNat)]
  | .vtsum o => [.v (physical vrb o.d.toNat), .v (physical vrb (o.d + 1).toNat)]
  | .vtopk o => [.v (physical vrb o.d.toNat), .v (physical vrb (o.d.toNat + 1))]
  | .vcmp o => [.k (o.d.toNat % 8)]
  | .vcvt o | .vquant o | .vdeq o | .vpack o | .vunpk o => [.v (physical vrb o.d.toNat)]
  | .vrotm d _ _ _ _ _ => [.v (physical vrb d.toNat)]
  | .vsplat o | .vins o => [.v (physical vrb o.d.toNat)]
  | .vext o => [.s (o.d.toNat % 64)]
  | .kand d _ _ | .kor d _ _ | .kxor d _ _ | .kinv d _ | .kmov d _ => [.k d.toNat]
  | .ldRow v r | .ldLane v r _ _ => .v (physical vrb v.toNat) :: RowRef.dests r
  | .ldK kd r _ => .k kd.toNat :: RowRef.dests r
  | .ldPeek v _ _ => [.v (physical vrb v.toNat)]
  | .mset kind idx _ => [if kind then .ma idx.toNat else .mp idx.toNat]
  | .mring _ _ => [.ringPair]
  | .mroute nb _ => [.nb nb.toNat]
  | .mfmt e _ => [.fmtTab e.toNat]
  | .mread vd _ _ _ => [.v (physical vrb vd.toNat)]
  | _ => []
/-- Instructions that only compute: their one effect is that results join the landing buffer, and that the divider may be busy. -/
def computes : Instr → Bool
  | .snop | .fmtset _
  | .sadd _ | .ssub _ | .smul _ | .smulh _ | .smulhn _ | .sdiv _ | .sdivn _ | .srem _ | .sremn _ | .sand _ | .sor _ | .sxor _ | .sandn _
  | .sshl _ | .sshr _ | .ssra _ | .srot _ | .sclz _ | .sctz _ | .spop _ | .smin _ | .smax _ | .sminn _ | .smaxn _ | .ssel _ | .sli _ _
  | .slih _ _ | .smov _ _ _ _ _ | .scmp _ | .pand _ _ _ | .por _ _ _ | .pxor _ _ _ | .pnot _ _ | .pmov _ _ _ | .loop _ _ _ _ _
  | .mfs _ _ | .mts _ _ | .amov _ _ _ | .aadd _ _ _ _ _
  | .vadd _ | .vsub _ | .vmul _ | .vfma _ | .vfms _ | .vfnma _ | .vmin _ | .vmax _ | .vabs _ | .vneg _ | .vrcp _ | .vrsqrt _ | .vexp2 _
  | .vlog2 _ | .vrnd _ | .vtsum _ | .vcmp _ | .vsel _ | .vmulh _ | .vsadd _ | .vssub _ | .vshl _ | .vshr _ | .vsra _ | .vand _ | .vor _
  | .vxor _ | .vandn _ | .vpopc _ | .vcvt _ | .vquant _ | .vdeq _ | .vpack _ | .vunpk _ | .vperm _ | .vrotm _ _ _ _ _ _ | .vbcast _
  | .vshuf _ | .vslide _ | .vredsum _ | .vredmax _ | .vredmin _ | .vscan _ | .vtopk _ | .vmov _ | .vsplat _ | .vext _ | .vins _ | .vidx _
  | .kand _ _ _ | .kor _ _ _ | .kxor _ _ _ | .kinv _ _ | .kpop _ _ | .kmov _ _
  | .ldRow _ _ | .ldLane _ _ _ _ | .ldK _ _ _ | .ldPeek _ _ _
  | .mset _ _ _ | .mring _ _ | .mroute _ _ | .mfmt _ _ | .mread _ _ _ _ | .mwait _ _ _ _ | .drain _ => true
  | _ => false
/-- The microwords of a matrix routine (R197). -/
def isMicroword : Instr → Bool
  | .wpopa _ | .wpopb _ | .wfeed _ _ _ | .wgroup _ _ _ _ | .wsum _ | .wretire _ _ | .wsend _ _ _ _ _ _ | .wfmt _ | .wloop _ _ _ _
  | .wjump _ _ _ | .wwait _ _ | .wend => true
  | _ => false

/-! Records, services, resets, answers. -/

/-- A fabric record stands in a die's log (R361): its first word, made of these fields, and its information. -/
def Reports (t : State) (die code sub part core comm queue tree chip : Nat) (info aux : Word64) : Prop :=
  ∃ w ∈ (t.die die).fabric, w.take 3 =
    [pack [(56, code), (48, sub), (46, part), (44, die), (32, core), (26, comm), (22, queue), (18, tree), (0, chip)], info, aux]
/-- A context that was frozen goes on: no longer frozen, ready in the next cycle, its place in the program as before (R336). -/
def Resumed (s t : State) (core slot : Nat) : Prop :=
  let c := s.ctx (Machine.ck core slot)
  let d := t.ctx (Machine.ck core slot)
  d.iss.freeze = none ∧ d.iss.ready = s.now + 1 ∧ d.iss.pc = c.iss.pc ∧ d.iss.tick = c.iss.tick ∧ d.place = c.place ∧ d.matrix = c.matrix
/-- A gang's group has been ended: with a status when it is told, else with some (R336, R347, R368). -/
def Ended (t : State) (part tree : Nat) (status : Option Nat) : Prop :=
  ∃ g x, t.gangAt part tree = some g ∧ g.ending = some x ∧ ∀ n, status = some n → x = (n, t.now)
/-- What a partition reset leaves of a partition and its dies (R368). -/
def PartitionCleared (s t : State) (part : Nat) : Prop :=
  (t.part part).gangs = [] ∧ (t.part part).saved = [] ∧ (t.part part).cfg = (s.part part).cfg ∧
  (t.part part).gen = 0 ∧ (∀ q, (t.queue part q).qcfg = 0 ∧ (t.queue part q).head = none ∧ (t.queue part q).grps = []) ∧
  (∀ core slot, slot < 4 → coreDie core ∈ (s.part part).cfg.dies → t.ctx (Machine.ck core slot) = Ctx.reset ∧ ∀ a, (t.core core).row a = 0) ∧
  (∀ a ∈ t.accesses, a.who.part ≠ part) ∧ (∀ m ∈ t.fabric.msgs, m.part ≠ part) ∧ (∀ c ∈ t.fabric.cache, c.part ≠ part) ∧ (∀ c ∈ t.cmds, coreDie c.core ∉ (s.part part).cfg.dies) ∧
  t.fabric.comms = s.fabric.comms ∧ t.fabric.splice = s.fabric.splice
/-- A response leaves on the mailbox, and the request is taken (R323). -/
def Responds (s t : State) (r : List Byte) : Prop :=
  t.control.mailbox = s.control.mailbox ++ [r] ∧ t.control.request = [] ∧ KeepsContexts s t ∧ t.mem = s.mem
/-- Members of a collective on this chip other than one. -/
def Told (s t : State) (c : Coll) (p : Nat → Packet) : Prop := ∀ r ∈ s.mates c, ∃ m ∈ t.fabric.msgs, m.pkt = p r

/-- A packet is next in the order of those of its communicator from its chip (R262); packets of this chip come in any order. -/
def InTurn (s : State) (msg : Nat) : Prop :=
  ∀ m ∈ s.fabric.msgs, m.id = msg → m.from_ = none ∨
    ∀ x ∈ s.fabric.msgs.takeWhile (fun x => x.id ≠ msg), x.from_ ≠ m.from_ ∨ x.pkt.at_.2 ≠ m.pkt.at_.2
/-- The state in which a packet is taken in its turn. -/
def State.taking (s : State) (msg : Nat) : State :=
  { s with fabric := { s.fabric with msgs := s.fabric.msgs.map fun x => if x.id = msg then { x with from_ := none } else x } }

/-! Runs. -/

/-- What every step keeps: memory stays in its canonical form, so that equal memories are equal data. -/
def State.Inv (s : State) : Prop := s.mem.wf = true
/-- States that steps lead to. -/
inductive Reaches (s : State) : State → Prop
  | here : Reaches s s
  | next {t u : State} : Reaches s t → step t = .next u → Reaches s u

end Sys2Proof.Machine
end

