-- ==== Sys2Proof/Certificates/Slice0/Obligations.lean ====
section
/-! DEFINITION. What is to be proved of the model: decoding and encoding, steps and groups, each family of instructions, the engines, events,
invariants. Each statement names the rules it formalises. -/
open Sys2Proof Sys2Proof.Machine

/-! Encoding. -/

/-- R103, R122-R125, R129, R147, R167, R189, R204, R228, R251: words that the manual's worked examples print decode to the instructions
that they stand for. -/
def Obligations.PrintedWordsDecode : Prop :=
  decodeTableWord 64 0x0400000000000080 = some .knot ∧
  decodeSync 0x48a0c4028000 = .ok (.seArrive ⟨10, 3, 4, 0, 40, false⟩) ∧
  decodeOp .s false 0x2507c00000000200 = .ok (.call 62 512) ∧
  decodeOp .s false 0x2800020002000000 = .ok (.loop 0 false 1 1 0) ∧
  decodeOp .va false 0x045310c1004c5000 = .ok (.vfma ⟨392, 386, 2, 394, 0, false, 0, 0⟩) ∧
  decodeOp .va false 0x1100020080400004 = .ok (.vcmp ⟨1, 1, 2, 0, 0, false, 0, 4⟩) ∧
  decodeOp .ld false 0x0143003001000000 = .ok (.ldRow 384 ⟨1, true, 1⟩) ∧
  decodeOp .st false 0x040000602c130000 = .ok (.stFill 0 ⟨3, false, 44⟩ 19) ∧
  decodeOp .mx true 0x0103060000000000 = .ok (.mcall 0 true true (some 3)) ∧
  decodeOp .cp false 0x0202460010000000 = .ok (.cpIn ⟨1, 2, 3, false, 0, 4, 0, false, false, 0, 0⟩) ∧
  decodeOp .cp false 0x0d04a00c02000000 = .ok (.clRun ⟨2, 5, 0, 6, 1, 0⟩)
/-- R105, R107, R123-R125, R332: the syllable of a well-formed slot operation, with its hold bit and its predicate, decodes to that operation,
hold bit and predicate; a repeated operation has no predicate. -/
def Obligations.SyllableDecodeOfEncode : Prop :=
  ∀ (l m : Lane) (y : Syl) (n : Nat) (fs : List (Nat × Nat)) (w : Word64),
    y.op.wf = true → slotFields y.op = some (m, n, fs) → (l = m ∨ (l = .vb ∧ m = .va)) → (repeats y.op = true → y.pn = false ∧ y.pred = 0) →
    encodeSyl y = some w → decodeOp l (repeats y.op) w = .ok y.op ∧ sylOf l (repeats y.op) w y.op = y
/-- R104, R122, R197, R228, R332: sync syllables and microwords of well-formed instructions decode to those instructions. -/
def Obligations.SyncAndMicrowordDecodeOfEncode : Prop :=
  -- R104, R122, R228, R332: the sync syllable of a well-formed sync operation decodes to that operation.
  (∀ (i : Instr) (w : BitVec 48), i.wf = true → encodeSync i = some w → decodeSync w = .ok i) ∧
  -- R197: a well-formed microword decodes to itself.
  (∀ (i : Instr) (w : Word64), i.wf = true → encodeMicro i = some w → decodeMicro w = some i)
/-- R332: what decodes is well formed: an operand field that breaks its rule is refused. -/
def Obligations.DecodedIsWellFormed : Prop :=
  (∀ (l : Lane) (f : Bool) (w : Word64) (i : Instr), decodeOp l f w = .ok i → i.wf = true) ∧
  (∀ (w : BitVec 48) (i : Instr), decodeSync w = .ok i → i.wf = true) ∧
  (∀ (w : Word64) (i : Instr), decodeMicro w = some i → i.wf = true)

/-! Steps, groups, results. -/

/-- R104-R106, R110, R112-R114: steps run what has been decoded: one operation, or a whole bundle. -/
def Obligations.StepRunsDecodedOperations : Prop :=
  -- R104, R105, R110, R112-R114: on a core's turn, the issuing context's bundle in hand holds one slot operation that its predicate lets perform; the
  -- step lands what is due, performs that operation, sets the slot's hold state and ends the tick. The same for a bundle that holds one sync operation:
  -- `knot` and `halt` take effect with the end of the bundle, every other one at its tick.
  (∀ (s t u : State) (core slot : Nat) (g : InGroup) (pc : Word64) (b : Bundle) (form : List Word64) (l : Lane) (y : Syl),
    s.pick = .turn core t → (t.core core).issuing = some slot → ((t.core core).choose.any fun n => t.now < n) = false →
    (t.ctx (ck core slot)).grp = some g → g.bundles[g.idx]? = some (pc, b, form) → g.again = [] → b.sync = .snop → b.slots = [(l, y)] →
    l ∈ Lane.slots →
    exec (.landing core slot) { t with cur := { core, slot, lane := .sync, pc, link := g.next, held := false } } = .next u →
    (u.setLane l).me.performs y = true →
    ∀ v, exec y.op (u.setLane l) = .next v →
      step s = .next (((v.setMe (v.me.setHold l y)).fillTick core slot).endBundle core slot)) ∧
  (∀ (s t u : State) (core slot : Nat) (g : InGroup) (pc : Word64) (b : Bundle) (form : List Word64),
    s.pick = .turn core t → (t.core core).issuing = some slot → ((t.core core).choose.any fun n => t.now < n) = false →
    (t.ctx (ck core slot)).grp = some g → g.bundles[g.idx]? = some (pc, b, form) → g.again = [] → b.slots = [] →
    exec (.landing core slot) { t with cur := { core, slot, lane := .sync, pc, link := g.next, held := false } } = .next u →
    ∀ v, exec b.sync (if atGroupEnd b.sync then u.setLane .sync else u) = .next v →
      step s = .next ((v.fillTick core slot).endBundle core slot)) ∧
  -- R104-R106, R110, R112-R114: a bundle of any number of syllables, of a group in hand or of one entered in this step: what is due lands, then the sync
  -- operation, the slots one after another, `knot` or `halt`, and the tick ends.
  (∀ (s t r u v w x : State) (core slot : Nat) (g : InGroup) (pc : Word64) (b : Bundle) (form : List Word64),
    let c := t.ctx (ck core slot)
    s.pick = .turn core t → (t.core core).issuing = some slot → ((t.core core).choose.any fun n => t.now < n) = false →
    (c.grp = some g ∧ r = t) ∨ (c.grp = none ∧ t.barred core slot = false ∧ c.iss.placed = true ∧ c.iss.halted = false ∧ c.iss.freeze = none ∧
      c.iss.blocked = none ∧ c.dutyOk = true ∧ exec (.groupEntry core) t = .next r ∧ (r.ctx (ck core slot)).grp = some g) →
    g.bundles[g.idx]? = some (pc, b, form) →
    exec (.landing core slot) { r with cur := { core, slot, lane := .sync, pc, link := g.next, held := false } } = .next u →
    (if atGroupEnd b.sync then v = u else exec b.sync u = .next v) → State.issueLanes b g.idx g.again Lane.slots v = .next w →
    (if atGroupEnd b.sync then exec b.sync (w.setLane .sync) = .next x else x = w) →
      step s = .next ((x.fillTick core slot).endBundle core slot)) ∧
  -- R105, R106: the slots: a syllable performs when its predicate lets it, and sets its slot's hold state either way; a slot without one performs its
  -- held operation again when the group's entry has said so, and else does nothing.
  ∀ (s t : State) (b : Bundle) (i : Nat) (again : List (Nat × Lane)) (l : Lane) (ls : List Lane),
    let found := (b.slots.find? fun e => e.1 = l).map Prod.snd
    State.issueLanes b i again [] s = .next s ∧
    (s.issueLane b i again l = .next t → State.issueLanes b i again (l :: ls) s = State.issueLanes b i again ls t) ∧
    (∀ y, found = some y → (s.setLane l).me.performs y = true → exec y.op (s.setLane l) = .next t →
      s.issueLane b i again l = .next (t.setMe (t.me.setHold l y))) ∧
    (∀ y, found = some y → (s.setLane l).me.performs y = false →
      s.issueLane b i again l = .next ((s.setLane l).setMe ((s.setLane l).me.setHold l y))) ∧
    (found = none → (i, l) ∉ again → s.issueLane b i again l = .next s) ∧
    (found = none → (i, l) ∈ again → exec (.heldReissue l) s = .next t → t.redo = none → s.issueLane b i again l = .next t) ∧
    ∀ op, found = none → (i, l) ∈ again → exec (.heldReissue l) s = .next t → t.redo = some op →
      s.issueLane b i again l = exec op { t with redo := none }
/-- R21, R103, R110, R112, R113, R136, R139: a context that enters a group holds the bundles that the words at its program counter decode to, read from its loop
buffer where that holds them and elsewhere from memory, or from a line of the core's instruction cache (its lines and their number are the model's
choice, log 32), each at its address, from the first on; its registers stay. The address after the group is the one after its last bundle, by that
bundle's stored length (R136): a control transfer's second delay bundle ends its group, so a `call` in it links to the bundle after that. A body that
was skipped while its frame was not mapped is passed over first. -/
def Obligations.GroupEntryTakesDecodedBundles : Prop :=
  (∀ (s t : State) (core slot : Nat) (g : InGroup),
    let u := s.passOver core slot
    let c := u.ctx (ck core slot)
    (s.core core).issuing = some slot → (s.ctx (ck core slot)).grp = none → exec (.groupEntry core) s = .next t →
    (t.ctx (ck core slot)).grp = some g →
    ∃ fs bs, u.fetchGroup core c.loopBuffer c.place.part 8 c.iss.pc = (fs, none) ∧ decodeGroup fs 0 = .inl bs ∧
      g.bundles.map (fun e => (e.1, e.2.1)) = (fs.map Fetched.addr).zip bs ∧ g.idx = 0 ∧ g.start = c.iss.pc ∧ c.iss.skip = 0 ∧
      (∀ f, fs.getLast? = some f → g.next = f.addr + BitVec.ofNat 64 (8 * bundleWords f.head)) ∧
      (∀ i, (fs[i]?.map Fetched.addr).isSome = true → fs[i]?.map Fetched.addr =
        some (c.iss.pc + BitVec.ofNat 64 (8 * ((fs.take i).map fun f => bundleWords f.head).sum))) ∧
      g.tick0 = c.iss.tick ∧ (t.ctx (ck core slot)).regs = (s.ctx (ck core slot)).regs) ∧
  (∀ (s : State) (core slot : Nat), (s.ctx (ck core slot)).iss.skip = 0 → s.passOver core slot = s) ∧
  ∀ (s : State) (core part : Nat) (buf : Sp Word64) (a : Word64),
    (∀ w, Sp.find buf a.toNat = some w → s.fetchWord core buf part a = some w) ∧
    (Sp.find buf a.toNat = none → (s.core core).lineAt part (a.toNat / 64) = none → s.fetchWord core buf part a = s.readPart part a.toNat) ∧
    (∀ l, Sp.find buf a.toNat = none → (s.core core).lineAt part (a.toNat / 64) = some l → (s.readPart part a.toNat).isSome = true →
      s.fetchWord core buf part a = s.readPart part a.toNat ∨ s.fetchWord core buf part a = some (l.words.getD (a.toNat % 64 / 8) 0))
/-- R30, R108, R112, R113, R231, R330-R332, R336: a group that cannot be read as bundles is not entered: its context freezes with an event record that
says why. After the last bundle of its group a `tsys` freezes the context with event 7 and a `brk` with event 8; the record names the code, the
operation's bundle, the group's start and its first tick, and the context is one that continues, not one that retries. That the record of an illegal
encoding holds the bundle's issued form, by the predicates at the group's entry, is the model's deduction (log 56). -/
def Obligations.EventsFreezeTheirContexts : Prop :=
  -- R30, R108, R113, R330-R332, R336: a group whose bytes hold an illegal encoding is not entered: the context is frozen with its program counter,
  -- tick, registers and memory as they were, and one record with the field's place and value and the issued form of the bundle joins the records of
  -- the control core of its die; of a first bundle with nothing held, that form is the head word and the stored syllables that perform by the
  -- predicates as the group's entry sees them (R108 gives the issued form; that an ILLEGAL record has it so is log 56, the model's deduction).
  (∀ (s : State) (core slot i : Nat) (fs : List Fetched) (f : Fetched) (l : Lane) (e : FieldErr),
      let u := s.passOver core slot
      let c := u.ctx (ck core slot)
      let form := u.formOf core slot fs i
      (s.core core).issuing = some slot → c.iss.routineEvent = none → c.iss.pc.toNat % 8 = 0 → c.iss.skip = 0 →
      u.fetchGroup core c.loopBuffer c.place.part 8 c.iss.pc = (fs, none) → decodeGroup fs 0 = .inr (i, f, l, e) →
      (∃ t, exec (.groupEntry core) s = .next t ∧
        (t.ctx (ck core slot)).iss.freeze = some ⟨2, e.sub, true, s.now⟩ ∧ (t.ctx (ck core slot)).iss.pc = c.iss.pc ∧
        (t.ctx (ck core slot)).iss.tick = c.iss.tick ∧ (t.ctx (ck core slot)).regs = c.regs ∧ (t.ctx (ck core slot)).grp = none ∧
        (t.die (coreDie core)).events = s.queueRecord core slot
          (eventRecord (eventHead c core slot 2 e.sub i l.num false false c.iss.pc c.iss.tick) (BitVec.ofNat 64 e.off) (BitVec.ofNat 64 e.val) form) ∧
        KeepsMemory s t) ∧
      (i = 0 → c.hold = [] → c.landing = [] → c.ringDue = [] → form = f.head :: Lane.slots.map fun n =>
        match (((presentLanes f.head).zip f.syls).find? fun x => x.1 = n).map Prod.snd with
        | some w => if (f.head.getLsbD 8 = true ∧ n = .mx) ∨ c.regs.readP (fldN w 51 4) ≠ w.getLsbD 55 then w else 0
        | none => 0)) ∧
  -- R331: a program counter that is not a multiple of 8 makes a FETCH event, sub-code 1, with the address as its information.
  (∀ (s : State) (core slot : Nat),
      let c := (s.passOver core slot).ctx (ck core slot)
      (s.core core).issuing = some slot → c.iss.routineEvent = none → c.iss.pc.toNat % 8 ≠ 0 →
      ∃ t, exec (.groupEntry core) s = .next t ∧ (t.ctx (ck core slot)).iss.freeze = some ⟨1, 1, true, s.now⟩ ∧
        (t.die (coreDie core)).events = s.queueRecord core slot
          (eventRecord (eventHead c core slot 1 1 0 0 false false c.iss.pc c.iss.tick) c.iss.pc 0 [])) ∧
  -- R336: records queue in order of arrival, those of one core and cycle in ascending slot order.
  (∀ (s : State) (core slot : Nat) (r : List Word64) (l m : List (List Word64)),
      let later := [1, 2, 3].filter fun k => slot < k && (s.ctx (ck core k)).iss.freeze.any fun f => f.since = s.now
      (s.die (coreDie core)).events = l ++ m → m.length = later.length →
      (∀ x ∈ m, fldN (x.getD 0 0) 16 12 = core ∧ fldN (x.getD 0 0) 28 2 ∈ later) → s.queueRecord core slot r = l ++ r :: m) ∧
  -- R231, R331, R336: system calls and breakpoints.
  (∀ (s : State) (core slot : Nat) (a : After) (r : List After) (code : BitVec 16) (n : Nat),
    (a.op = .tsys code ∧ n = 7) ∨ (a.op = .brk code ∧ n = 8) →
    ((s.runAfter core slot (a :: r)).ctx (ck core slot)).iss.freeze = some ⟨n, 0, false, s.now⟩ ∧
    ((s.runAfter core slot (a :: r)).ctx (ck core slot)).iss.after = r ∧
    ((s.runAfter core slot (a :: r)).die (coreDie core)).events = s.queueRecord core slot
      (eventRecord (eventHead (s.ctx (ck core slot)) core slot n 0 a.bidx 0 false false a.pc a.tick) (BitVec.ofNat 64 code.toNat) 0 a.form))
/-- R33, R91, R114, R127: at its landing tick a result is written to its destination register, whichever register that is, in the bits of its mask, and
gathers its flags in `fmt`; no other register changes. A result that is not yet due, or whose value has not arrived, stays in flight. (One result in
flight: R114's order of several is the order of the list.) -/
def Obligations.LandingWritesAtItsTick : Prop :=
  ∀ (s : State) (core slot : Nat) (r : Result),
    let c := s.ctx (ck core slot)
    c.landing = [r] → c.ringDue = [] →
    ∃ t, exec (.landing core slot) s = .next t ∧
      let d := t.ctx (ck core slot)
      (c.iss.tick < r.due ∨ r.arrived = false → d.landing = [r] ∧ d.regs = c.regs) ∧
      (r.due ≤ c.iss.tick → r.arrived = true → d.landing = [] ∧ r.Lands c.regs d.regs) ∧
      d.iss = c.iss ∧ d.matrix = c.matrix ∧ (∀ k, k ≠ ck core slot → t.ctx k = s.ctx k) ∧ KeepsMemory s t
/-- R91, R127: s0 and p0 keep their values, and flags only gather. -/
def Obligations.HardwiredRegistersAndGatheredFlags : Prop :=
  -- R127: s0 reads as 0 and p0 as 1 whatever lands in them, and a result for s0 or p0 changes no register but the flags of `fmt`.
  (∀ (g : Regs) (r : Result), (g.land r).readS 0 = 0 ∧ (g.land r).readP 0 = true ∧
      ((r.dest = .s 0 ∨ r.dest = .p 0) → g.land r = { g with fmt := g.fmt ||| (BitVec.setWidth 64 r.flags <<< 40) })) ∧
  -- R91: flags only ever gather: a result that lands elsewhere than in `fmt` leaves every flag of `fmt` that was set, sets its own, and keeps
  -- `fmt`'s other bits.
  (∀ (g : Regs) (r : Result), r.dest ≠ .fmt →
      ∀ i, i < 64 → (g.land r).fmt.getLsbD i = (g.fmt.getLsbD i || (40 ≤ i && r.flags.getLsbD (i - 40))))

/-! Scalar, predicate and control instructions. Their result lands in the destination at t + L; x is the first source, y the second. -/

/-- R117, R119, R129-R131: sums, products and quotients of the scalar unit. -/
def Obligations.ScalarArithmetic : Prop :=
  -- R117, R129, R130: sums and products: modulo 2^64; high halves by the signed and the unsigned reading.
  (∀ (o : AluOp) (s : State),
      let x := s.s o.a
      let y := s.aluY o
      let d : Dest := .s o.d.toNat
      exec (.sadd o) s = .next (s.landsS 1 d (BitVec.ofInt 64 (x.toInt + y.toInt))) ∧
      exec (.ssub o) s = .next (s.landsS 1 d (BitVec.ofInt 64 (x.toInt - y.toInt))) ∧
      exec (.smul o) s = .next (s.landsS 3 d (BitVec.ofInt 64 (x.toInt * y.toInt))) ∧
      exec (.smulh o) s = .next (s.landsS 3 d (BitVec.ofInt 64 (x.toInt * y.toInt / 2 ^ 64))) ∧
      exec (.smulhn o) s = .next (s.landsS 3 d (BitVec.ofNat 64 (x.toNat * y.toNat / 2 ^ 64)))) ∧
  -- R117, R119, R130, R131: division truncates toward zero and lands at t + 12; division by 0 gives all ones and the dividend; the divider is busy
  -- for 12 ticks.
  (∀ (o : AluOp) (s : State),
      let x := s.s o.a
      let y := s.aluY o
      let d : Dest := .s o.d.toNat
      let b := s.setMe { s.me with busy := (0, s.tick + 12, s.tick) :: s.me.busy.filter fun e => e.1 ≠ 0 }
      exec (.sdiv o) s = .next (b.landsS 12 d (if y = 0 then BitVec.allOnes 64 else BitVec.ofInt 64 (x.toInt.tdiv y.toInt))) ∧
      exec (.sdivn o) s = .next (b.landsS 12 d (if y = 0 then BitVec.allOnes 64 else BitVec.ofNat 64 (x.toNat / y.toNat))) ∧
      exec (.srem o) s = .next (b.landsS 12 d (if y = 0 then x else BitVec.ofInt 64 (x.toInt - y.toInt * x.toInt.tdiv y.toInt))) ∧
      exec (.sremn o) s = .next (b.landsS 12 d (if y = 0 then x else BitVec.ofNat 64 (x.toNat - y.toNat * (x.toNat / y.toNat)))))
/-- R117, R130, R132: logic, shifts, bit counts, minima and maxima of the scalar unit. -/
def Obligations.ScalarBitOperations : Prop :=
  -- R117, R130, R132: bitwise operations and shifts, bit by bit; the shift amount is y read as an unsigned 64-bit number.
  (∀ (o : AluOp) (s : State),
      let x := s.s o.a
      let y := s.aluY o
      let bits (i : Instr) (f : Nat → Bool) : Prop := ∃ v : Word64, exec i s = .next (s.landsS 1 (.s o.d.toNat) v) ∧ ∀ n, n < 64 → v.getLsbD n = f n
      bits (.sand o) (fun n => x.getLsbD n && y.getLsbD n) ∧
      bits (.sor o) (fun n => x.getLsbD n || y.getLsbD n) ∧
      bits (.sxor o) (fun n => x.getLsbD n != y.getLsbD n) ∧
      bits (.sandn o) (fun n => x.getLsbD n && !y.getLsbD n) ∧
      bits (.sshl o) (fun n => y.toNat ≤ n && x.getLsbD (n - y.toNat)) ∧
      bits (.sshr o) (fun n => x.getLsbD (n + y.toNat)) ∧
      bits (.ssra o) (fun n => if n + y.toNat < 64 then x.getLsbD (n + y.toNat) else x.getLsbD 63) ∧
      bits (.srot o) (fun n => x.getLsbD ((n + 64 - y.toNat % 64) % 64))) ∧
  -- R117, R130: counts of bits, and minima and maxima by the signed and the unsigned reading.
  (∀ (o : AluOp) (s : State),
      let x := s.s o.a
      let y := s.aluY o
      let d : Dest := .s o.d.toNat
      (∃ n, exec (.sclz o) s = .next (s.landsS 1 d (BitVec.ofNat 64 n)) ∧ n ≤ 64 ∧ (∀ i, i < n → x.getLsbD (63 - i) = false) ∧
        (n < 64 → x.getLsbD (63 - n) = true)) ∧
      (∃ n, exec (.sctz o) s = .next (s.landsS 1 d (BitVec.ofNat 64 n)) ∧ n ≤ 64 ∧ (∀ i, i < n → x.getLsbD i = false) ∧
        (n < 64 → x.getLsbD n = true)) ∧
      exec (.spop o) s = .next (s.landsS 1 d (BitVec.ofNat 64 ((List.range 64).filter x.getLsbD).length)) ∧
      exec (.smin o) s = .next (s.landsS 1 d (if x.toInt ≤ y.toInt then x else y)) ∧
      exec (.smax o) s = .next (s.landsS 1 d (if x.toInt ≤ y.toInt then y else x)) ∧
      exec (.sminn o) s = .next (s.landsS 1 d (if x.toNat ≤ y.toNat then x else y)) ∧
      exec (.smaxn o) s = .next (s.landsS 1 d (if x.toNat ≤ y.toNat then y else x)))
/-- R134, R135: scalar comparisons and predicate logic. -/
def Obligations.ComparisonsAndPredicates : Prop :=
  -- R134: the condition that a code of `scmp.cc` names lands in the destination predicate, signed or unsigned as the table says; an immediate
  -- is sign-extended first.
  (∀ (s : State) (o : SelOp),
      let x := s.s o.a
      let y : Word64 := if o.i then BitVec.ofInt 64 o.imm.toInt else s.s o.b
      let pd : BitVec 4 := o.d.setWidth 4
      (o.x = 0 → exec (.scmp o) s = .next (s.landsP pd (decide (x = y)))) ∧
      (o.x = 1 → exec (.scmp o) s = .next (s.landsP pd (decide (x ≠ y)))) ∧
      (o.x = 2 → exec (.scmp o) s = .next (s.landsP pd (decide (x.toInt < y.toInt)))) ∧
      (o.x = 3 → exec (.scmp o) s = .next (s.landsP pd (decide (x.toInt ≤ y.toInt)))) ∧
      (o.x = 4 → exec (.scmp o) s = .next (s.landsP pd (decide (x.toInt > y.toInt)))) ∧
      (o.x = 5 → exec (.scmp o) s = .next (s.landsP pd (decide (x.toInt ≥ y.toInt)))) ∧
      (o.x = 6 → exec (.scmp o) s = .next (s.landsP pd (decide (x.toNat < y.toNat)))) ∧
      (o.x = 7 → exec (.scmp o) s = .next (s.landsP pd (decide (x.toNat ≤ y.toNat)))) ∧
      (o.x = 8 → exec (.scmp o) s = .next (s.landsP pd (decide (x.toNat > y.toNat)))) ∧
      (o.x = 9 → exec (.scmp o) s = .next (s.landsP pd (decide (x.toNat ≥ y.toNat))))) ∧
  -- R135: predicate logic.
  (∀ (s : State) (pd pa pb : BitVec 4) (a : BitVec 6),
      exec (.pand pd pa pb) s = .next (s.landsP pd (s.p pa && s.p pb)) ∧
      exec (.por pd pa pb) s = .next (s.landsP pd (s.p pa || s.p pb)) ∧
      exec (.pxor pd pa pb) s = .next (s.landsP pd (xor (s.p pa) (s.p pb))) ∧
      exec (.pnot pd pa) s = .next (s.landsP pd (!s.p pa)) ∧
      exec (.pmov pd (pa.setWidth 6) false) s = .next (s.landsP pd (s.p pa)) ∧
      exec (.pmov pd a true) s = .next (s.landsP pd (decide (s.s a ≠ 0))))
/-- R117, R129, R136: a control transfer names its target, which the context takes after its delay bundles; `call` lands the address after the
second of them. Nothing else of the context changes. -/
def Obligations.ControlTransfers : Prop :=
  ∀ (s : State) (d a : BitVec 6) (disp : BitVec 32) (tgt : BitVec 48),
    let goes (w : Word64) : State := s.setMe { s.me with iss := { s.me.iss with target := some w } }
    exec (.br disp) s = .next (goes (BitVec.ofInt 64 (s.cur.pc.toInt + 8 * disp.toInt))) ∧
    exec (.jmp tgt) s = .next (goes (BitVec.ofNat 64 (8 * tgt.toNat))) ∧
    exec (.call d disp) s = .next ((goes (BitVec.ofInt 64 (s.cur.pc.toInt + 8 * disp.toInt))).landsS 1 (.s d.toNat) s.cur.link) ∧
    exec (.ret a) s = .next (goes (s.s a)) ∧
    exec (.jr a disp) s = .next (goes (BitVec.ofInt 64 ((s.s a).toInt + 8 * disp.toInt)))
/-- R103, R138-R140: loop levels, bodies, passes. -/
def Obligations.LoopsAndBodies : Prop :=
  -- R138: `loop` sets a level's count, stride, index and iteration counter.
  (∀ (s : State) (lvl : BitVec 3) (a : BitVec 6) (stride : BitVec 16) (cnt : BitVec 25) (ci : Bool),
      let n := lvl.toNat
      let v : Word64 := if ci then BitVec.ofNat 64 cnt.toNat else BitVec.ofNat 64 ((s.s a).toNat % 2 ^ 32)
      exec (.loop lvl ci a stride cnt) s =
        .next (s.lands [s.lander 1 (.lc n) (v.setWidth 1024) allOnes 0, s.lander 1 (.stride n) (stride.setWidth 1024) allOnes 0,
          s.lander 1 (.li n) 0 allOnes 0, s.lander 1 (.iter n) 0 allOnes 0])) ∧
  -- R103, R112, R139: `lbody`, which ends its group, with a level of count 0 goes past the body, which begins after that group, by the lengths that its
  -- head words give; else it captures the body, clears the
  -- levels' indices and iteration counters, sets p8 to 1 and p9 to p15 to 0, and makes `lpc` name the body.
  (∀ (s : State) (len : BitVec 6) (lo hi e : BitVec 3),
      let c := s.me
      let start := s.cur.link
      let past := s.passBundles c.place.part start (len.toNat + 1)
      ((∃ k, lo.toNat ≤ k ∧ k ≤ hi.toNat ∧ k < 6 ∧ Sp.get 0 c.regs.lc k = 0) →
        exec (.lbody len lo hi e) s = .next (s.setMe { c with iss := { c.iss with target := some past.1, skip := past.2 } })) ∧
      ((∀ k, lo.toNat ≤ k → k ≤ hi.toNat → k < 6 → Sp.get 0 c.regs.lc k ≠ 0) →
        ∃ t, exec (.lbody len lo hi e) s = .next t ∧ t.me.body = some ⟨start, len.toNat + 1, len.toNat + 2, false, []⟩ ∧ t.me.regs = c.regs ∧
          t.me.iss = c.iss ∧
          (∀ k, lo.toNat ≤ k → k ≤ hi.toNat → k < 6 → s.lander 1 (.li k) 0 allOnes 0 ∈ t.me.landing ∧ s.lander 1 (.iter k) 0 allOnes 0 ∈ t.me.landing) ∧
          (∀ k, 8 ≤ k → k < 16 → s.lander 1 (.p k) (if k = 8 then 1 else 0) 1 0 ∈ t.me.landing) ∧
          s.lander 1 .lpc ((pack [(63, 1), (59, e.toNat), (56, lo.toNat), (53, hi.toNat), (47, len.toNat), (3, fldN start 3 44)]).setWidth 1024) allOnes 0
            ∈ t.me.landing)) ∧
  (∀ (s : State) (part n : Nat) (pc : Word64), s.passBundles part pc 0 = (pc, 0) ∧
      (∀ h, s.readPart part pc.toNat = some h → s.passBundles part pc (n + 1) = s.passBundles part (pc + BitVec.ofNat 64 (8 * bundleWords h)) n) ∧
      (s.readPart part pc.toNat = none → s.passBundles part pc (n + 1) = (pc, n + 1))) ∧
  -- R140: at the end of a pass the rotation base advances by one; the levels step from the innermost outward as long as each has run out; p8 takes
  -- whether another pass of the nest follows, p9 to p15 take what p8 to p14 were; the body is replayed while a pass or an epilogue pass is left.
  (∀ (s : State) (core slot : Nat) (b : Body),
      let c := s.ctx (ck core slot)
      let l := c.regs.lpc
      let erem := fldN l 59 3
      let nest (k : Nat) : Prop := fldN l 56 3 ≤ k ∧ k ≤ fldN l 53 3 ∧ k < 6
      let goes (k : Nat) : Prop := (Sp.get 0 c.regs.iter k + 1).toNat < (Sp.get 0 c.regs.lc k).toNat
      let reached (k : Nat) : Prop := l.getLsbD 62 = false ∧ nest k ∧ ∀ j, k < j → nest j → ¬goes j
      let pass : Prop := l.getLsbD 62 = false ∧ ∃ k, nest k ∧ goes k
      c.body = some b → b.ended = true →
      ∃ t, exec (.loopPassEnd core slot) s = .next t ∧
        let d := t.ctx (ck core slot)
        let replays : Prop := d.body = some { b with left := b.len, ended := false } ∧ d.iss = { c.iss with pc := b.start }
        d.regs.vrb = c.regs.vrb + 1 ∧
        (∀ k, reached k → goes k → Sp.get 0 d.regs.iter k = Sp.get 0 c.regs.iter k + 1 ∧
          Sp.get 0 d.regs.li k = Sp.get 0 c.regs.li k + (Sp.get 0 c.regs.stride k).signExtend 32) ∧
        (∀ k, reached k → ¬goes k → Sp.get 0 d.regs.iter k = 0 ∧ Sp.get 0 d.regs.li k = 0) ∧
        (∀ k, ¬reached k → Sp.get 0 d.regs.iter k = Sp.get 0 c.regs.iter k ∧ Sp.get 0 d.regs.li k = Sp.get 0 c.regs.li k) ∧
        (d.regs.p.getLsbD 8 = true ↔ pass) ∧ (∀ k, 9 ≤ k → k < 16 → d.regs.p.getLsbD k = c.regs.p.getLsbD (k - 1)) ∧
        (∀ k, k < 8 → d.regs.p.getLsbD k = c.regs.p.getLsbD k) ∧ d.landing = c.landing ∧
        d.regs = { c.regs with vrb := d.regs.vrb, iter := d.regs.iter, li := d.regs.li, p := d.regs.p, lpc := d.regs.lpc } ∧
        (pass → d.regs.lpc = l ∧ replays) ∧
        (¬pass → 0 < erem → d.regs.lpc = setFld (setFld l 62 1 1) 59 3 (erem - 1) ∧ replays) ∧
        (¬pass → erem = 0 → d.regs.lpc = setFld l 62 2 0 ∧ d.body = none ∧ d.iss = c.iss) ∧
        (∀ k, k ≠ ck core slot → t.ctx k = s.ctx k) ∧ KeepsCores s t ∧ KeepsMemory s t)
/-- R28, R52, R92, R93, R128, R133, R143, R144: scalar constants, selection and transfers between register files; special and address registers. -/
def Obligations.ScalarMovesAndSpecialRegisters : Prop :=
  -- R133: constants, selection and every kind of transfer between register files.
  (∀ (s : State) (d a : BitVec 6) (imm : BitVec 32) (o : SelOp) (idx : BitVec 3) (h : Bool),
      let g := s.me.regs
      let off := if h then 64 else 0
      exec (.sli d imm) s = .next (s.landsS 1 (.s d.toNat) (BitVec.ofInt 64 imm.toInt)) ∧
      exec (.slih d imm) s = .next (s.landsS 1 (.s d.toNat) (BitVec.ofNat 64 (imm.toNat * 2 ^ 32 + (s.s d).toNat % 2 ^ 32))) ∧
      exec (.ssel o) s = .next (s.landsS 1 (.s o.d.toNat) (if s.p o.x then s.s o.a else if o.i then BitVec.ofInt 64 o.imm.toInt else s.s o.b)) ∧
      exec (.smov d a 0 idx h) s = .next (s.landsS 1 (.s d.toNat) (s.s a)) ∧
      exec (.smov d a 1 idx h) s = .next (s.landsS 1 (.s d.toNat) (BitVec.ofNat 64 ((s.k idx).toNat / 2 ^ off))) ∧
      exec (.smov d a 2 idx h) s =
        .next (s.lands [s.lander 1 (.k idx.toNat) ((s.s a).setWidth 1024 <<< off) (maskAt off 64) 0]) ∧
      exec (.smov d a 3 idx h) s = .next (s.landsS 1 (.s d.toNat) (BitVec.ofNat 64 ((List.range 16).foldl (fun n i => n + b2n (g.readP i) * 2 ^ i) 0))) ∧
      exec (.smov d a 4 idx h) s = .next (s.landsS 1 (.s d.toNat) (BitVec.ofNat 64 (Sp.get 0 g.lc idx.toNat).toNat)) ∧
      exec (.smov d a 5 idx h) s = .next (s.landsS 1 (.s d.toNat) (BitVec.ofInt 64 (Sp.get 0 g.li idx.toNat).toInt)) ∧
      exec (.smov d a 6 idx h) s = .next (s.landsS 1 (.lc idx.toNat) (s.s a)) ∧
      exec (.smov d a 7 idx h) s = .next (s.landsS 1 (.li idx.toNat) (s.s a))) ∧
  -- R28, R52, R92, R93, R128, R143, R144: each special register reads as the manual says, `mts` writes the three that software may write, `amov` and
  -- `aadd` are modulo 2^32.
  ∀ (s : State) (d a : BitVec 6) (ar aa : BitVec 4) (n : Nat) (imm : BitVec 24) (i : Bool),
    let c := s.me
    let mfs (n : Nat) (v : Word64) : Prop := exec (.mfs d (BitVec.ofNat 6 n)) s = .next (s.landsS 1 (.s d.toNat) v)
    mfs 0 (BitVec.ofNat 64 s.tick) ∧ mfs 1 (BitVec.ofNat 64 c.place.phase.toNat) ∧
    mfs 2 (pack [(32, c.place.group.toNat), (4, c.place.queue), (0, c.place.tree)]) ∧ mfs 3 (BitVec.ofNat 64 s.cur.slot) ∧
    mfs 4 (BitVec.ofNat 64 s.cur.core) ∧ mfs 5 (BitVec.ofNat 64 c.regs.vrb.toNat) ∧ mfs 6 c.regs.fmt ∧ mfs 7 c.regs.lpc ∧
    mfs 8 (pack [(32, c.place.limit), (0, c.place.base)]) ∧ (n < 8 → mfs (16 + n) (Sp.get 0 c.regs.ring n)) ∧
    exec (.mts a 5) s = .next (s.lands [{ s.lander 1 .vrb ((s.s a).setWidth 1024) allOnes 0 with slot := false }]) ∧
    exec (.mts a 6) s = .next (s.lands [{ s.lander 3 .fmt ((s.s a &&& 0x3f000f303f3f).setWidth 1024) allOnes 0 with slot := false }]) ∧
    (n < 8 → exec (.mts a (BitVec.ofNat 6 (16 + n))) s =
      .next (s.lands [{ s.lander 1 (.ring n) ((s.s a &&& 0xffff000000000001).setWidth 1024) allOnes 0 with slot := false }])) ∧
    exec (.amov false ar a) s = .next (s.landsS 1 (.a ar.toNat) (s.s a)) ∧
    exec (.amov true ar a) s = .next (s.landsS 1 (.s a.toNat) (BitVec.ofNat 64 (s.a ar).toNat)) ∧
    ∃ v : Word64, exec (.aadd ar aa i a imm) s = .next (s.landsS 1 (.a ar.toNat) v) ∧
      (v.toNat : Int) % 2 ^ 32 = ((s.a aa).toNat + (if i then imm.toInt else (s.s a).toInt)) % 2 ^ 32

/-- R58, R109, R111, R114, R140, R142, R167: what computing and control instructions leave unchanged. -/
def Obligations.ComputingAndControlFrames : Prop :=
  -- R58, R109, R111, R114, R142, R167: the frame of the computing instructions: when one completes, its results join the landing buffer, each for a
  -- register that the instruction names as a destination; until they land every register, flag and special register of the context stays, and so
  -- do its matrix state, its place and its channels, all other contexts, all cores with their scratchpad rows, all of memory, and the rest of the device.
  (∀ (i : Instr) (s t : State), computes i = true → exec i s = .next t →
      (∃ rs, t.me.landing = s.me.landing ++ rs ∧ ∀ r ∈ rs, r.dest ∈ dests s.me.regs.vrb.toNat i) ∧ s.me.KeepsState t.me ∧ t.me.iss = s.me.iss ∧
      KeepsOthers s t ∧ KeepsCores s t ∧ KeepsMemory s t ∧ KeepsDevice s t) ∧
  -- R114, R140: the frame of the control instructions: a transfer and `lbody` change, in their own context, only where it goes on (`lbody` with
  -- what it could not yet pass over), its landing
  -- buffer and its body; every register stays until a result lands; memory, rows, other contexts and the rest of the device stay.
  (∀ (i : Instr) (s t : State), (isTransfer i = true ∨ ∃ len lo hi e, i = .lbody len lo hi e) → exec i s = .next t →
      s.me.KeepsState t.me ∧ t.me.iss = { s.me.iss with target := t.me.iss.target, skip := t.me.iss.skip } ∧
      (isTransfer i = true → t.me.iss.skip = s.me.iss.skip) ∧ t.me.busy = s.me.busy ∧
      KeepsOthers s t ∧ KeepsCores s t ∧ KeepsMemory s t ∧ KeepsDevice s t)

/-! Numbers. -/

/-- R84, R85, R88, R89, R90, R101, R150: the exact arithmetic and the one rounding behind every float and conversion: codes decode to their values, sums
and products are exact, and a result is the nearest value of its format, ties to even, with its flags. Of `vexp2` and `vlog2`, the exact cases: their
other values are computed to the digits of log 14. Which flags a NaN, and a conversion that clamps, set is log 38, the model's deduction. -/
def Obligations.NumbersRoundOnceToNearest : Prop :=
  -- R84: the value of a code, by its sign, exponent and mantissa fields.
  (∀ (f : Fmt) (s : Bool) (e m : Nat), f.isFloat = true → e < 2 ^ f.expo → m < 2 ^ f.mant →
    let code := (if s then 2 ^ (f.width - 1) else 0) + e * 2 ^ f.mant + m
    let special : Prop := f.hasInf = true ∧ e = 2 ^ f.expo - 1
    (special → decodeNum f code = if m = 0 then .inf s else .nan) ∧ (f = .f8e4 → e = 15 → m = 7 → decodeNum f code = .nan) ∧
    (¬special → ¬(f = .f8e4 ∧ e = 15 ∧ m = 7) → decodeNum f code =
      if e = 0 then .fin s m (1 - (f.bias : Int) - f.mant) else .fin s (2 ^ f.mant + m) ((e : Int) - f.bias - f.mant))) ∧
  -- R88, R101, R102: finite values add and multiply exactly; an exact sum of 0 is +0 unless both are negative; they are ordered by value, -0 below +0.
  (∀ (x y : Machine.Num) (e g i j : Int), x.units e = some i → y.units g = some j →
    (x.mul y).units (e + g) = some (i * j) ∧ (x.mul y).isNeg = (x.isNeg != y.isNeg) ∧ x.neg.units e = some (-i) ∧ x.neg.isNeg = !x.isNeg ∧
    (e = g → (x.add y).units e = some (i + j) ∧ (i + j = 0 → (x.add y).isNeg = (x.isNeg && y.isNeg)) ∧
      (i ≠ j → x.lt y = decide (i < j)) ∧ (i = j → (x.lt y = true ↔ i = 0 ∧ x.isNeg = true ∧ y.isNeg = false)))) ∧
  (∀ (s t : Bool) (x : Machine.Num), x.isFin = true →
    (Num.inf s).add x = .inf s ∧ x.add (.inf s) = .inf s ∧ (Num.inf s).add (.inf t) = (if s = t then .inf s else .nan) ∧
    (Num.inf s).mul (.inf t) = .inf (s != t) ∧ (Num.inf s).mul x = (if x.isZero then .nan else .inf (s != x.isNeg)) ∧
    x.mul (.inf s) = (Num.inf s).mul x) ∧
  -- R85, R88-R90: rounding to a float format.
  (∀ (f : Fmt) (quant : Bool) (x : Machine.Num), f.isFloat = true → RoundedFrom f quant x (roundTo f quant x)) ∧
  -- R88-R90: conversion to an integer format: to the nearest integer, or toward zero, clamped to the format's range, or to the quantising one.
  (∀ (f : Fmt) (quant rz : Bool), f.isFloat = false →
    let hi : Int := if f.isSigned then 2 ^ (f.width - 1) - 1 else 2 ^ f.width - 1
    let lo : Int := if f.isSigned then (if quant then -hi else -hi - 1) else 0
    let code (r : Int) : Nat := (r % 2 ^ f.width).toNat
    convert f quant rz .nan = (0, flIv) ∧ convert f quant rz (.inf true) = (code lo, flSat) ∧ convert f quant rz (.inf false) = (code hi, flSat) ∧
    ∀ (x : Machine.Num) (k : Nat) (i : Int), x.units (-k) = some i → ∃ r : Int,
      (rz = false → NearestInt (2 ^ k) i r) ∧ (rz = true → r.natAbs * 2 ^ k ≤ i.natAbs ∧ i.natAbs < (r.natAbs + 1) * 2 ^ k ∧ 0 ≤ r * i) ∧
      convert f quant rz x = if r < lo then (code lo, flSat) else if hi < r then (code hi, flSat) else (code r, if r * 2 ^ k = i then 0 else flIx)) ∧
  -- R149, R150: the reciprocal, the reciprocal square root and the nearest integral value of a finite operand that is not 0; exact powers and logarithms.
  ∀ (f : Fmt) (x : Nat) (s : Bool) (m : Nat) (e : Int), f.clsF = true → decodeNum f x = .fin s (m + 1) e →
    RoundsTo f false s (fun n g => cmpPow (n * (m + 1)) (g + e) 1 0) (fRcp f x) ∧
    (s = false → RoundsTo f false false (fun n g => cmpPow (n * n * (m + 1)) (2 * g + e) 1 0) (fRsqrt f x)) ∧
    (∀ (k : Nat) (i : Int), (decodeNum f x).units (-k) = some i → ∃ r : Int, NearestInt (2 ^ k) i r ∧
      (decodeNum f (fRnd f x).1).units 0 = some r ∧ (decodeNum f (fRnd f x).1).isNeg = s ∧ (fRnd f x).2 = if r * 2 ^ k = i then 0 else flIx) ∧
    (∀ n, (decodeNum f x).units 0 = some n → fExp2 f x = roundTo f false (.fin false 1 n)) ∧
    ((decodeNum f x).units 0 = none → (fExp2 f x).2.getLsbD 4 = true) ∧
    (∀ k : Nat, s = false → m + 1 = 2 ^ k → fLog2 f x = roundTo f false (Num.ofInt (e + k))) ∧
    (s = false → (∀ k : Nat, m + 1 ≠ 2 ^ k) → (fLog2 f x).2.getLsbD 4 = true)

/-! Vector instructions. -/

/-- R88, R89, R90, R101, R102, R148, R149: float arithmetic lane by lane: the exact value, rounded once; a NaN operand gives the canonical NaN
without a flag, a NaN from other operands raises `invalid`. -/
def Obligations.VectorFloatArithmetic : Prop :=
  ∀ (o : VecOp) (s : State), o.fmt.isFloat = true →
    let f := o.fmt
    let q := decodeNum f
    let round (nanIn : Bool) (v : Machine.Num) : Nat × FFlags := if v = .nan then (f.nan, if nanIn then 0 else flIv) else roundTo f false v
    let nan2 (x y : Nat) : Bool := (q x).isNan || (q y).isNan
    let mac (i : Instr) (g : Machine.Num → Machine.Num → Machine.Num → Machine.Num) : Prop :=
      Lanewise3 i s o 4 fun x y z => round ((q x).isNan || (q y).isNan || (q z).isNan) (g (q x) (q y) (q z))
    Lanewise2 (.vadd o) s o 4 (fun x y => round (nan2 x y) ((q x).add (q y))) ∧
    Lanewise2 (.vsub o) s o 4 (fun x y => round (nan2 x y) ((q x).add (q y).neg)) ∧
    Lanewise2 (.vmul o) s o 4 (fun x y => round (nan2 x y) ((q x).mul (q y))) ∧
    mac (.vfma o) (fun x y z => (x.mul y).add z) ∧
    mac (.vfms o) (fun x y z => (x.mul y).add z.neg) ∧
    mac (.vfnma o) (fun x y z => (x.mul y).neg.add z) ∧
    Lanewise2 (.vmin o) s o 4 (fun x y => (if nan2 x y then f.nan else if (q y).lt (q x) then y else x, 0)) ∧
    Lanewise2 (.vmax o) s o 4 (fun x y => (if nan2 x y then f.nan else if (q x).lt (q y) then y else x, 0)) ∧
    Lanewise1 (.vabs o) s o 4 (fun x => (if (q x).isNan then f.nan else x % 2 ^ (o.w - 1), 0)) ∧
    Lanewise1 (.vneg o) s o 4 (fun x => (if (q x).isNan then f.nan else x ^^^ 2 ^ (o.w - 1), 0)) ∧
    Lanewise1 (.vrcp o) s o 6 (fRcp f) ∧ Lanewise1 (.vrsqrt o) s o 6 (fRsqrt f) ∧ Lanewise1 (.vexp2 o) s o 6 (fExp2 f) ∧
    Lanewise1 (.vlog2 o) s o 6 (fLog2 f) ∧ Lanewise1 (.vrnd o) s o 4 (fRnd f)
/-- R90, R149, R150: the special operands of `vrcp`, `vrsqrt`, `vexp2` and `vlog2`: each row of the manual's table, in every float type of a
vector. -/
def Obligations.FunctionsOfSpecialOperands : Prop :=
  ∀ (f : Fmt) (x : Nat), f.clsF = true →
    let sign := 2 ^ (f.width - 1)
    let inf := f.infCode
    let one := f.bias * 2 ^ f.mant
    (decodeNum f x = .nan → fRcp f x = (f.nan, 0) ∧ fRsqrt f x = (f.nan, 0) ∧ fExp2 f x = (f.nan, 0) ∧ fLog2 f x = (f.nan, 0)) ∧
    (decodeNum f x = .inf false → fRcp f x = (0, 0) ∧ fRsqrt f x = (0, 0) ∧ fExp2 f x = (inf, 0) ∧ fLog2 f x = (inf, 0)) ∧
    (decodeNum f x = .inf true → fRcp f x = (sign, 0) ∧ fRsqrt f x = (f.nan, flIv) ∧ fExp2 f x = (0, 0) ∧ fLog2 f x = (f.nan, flIv)) ∧
    (∀ e, decodeNum f x = .fin false 0 e →
      fRcp f x = (inf, flDz) ∧ fRsqrt f x = (inf, flDz) ∧ fExp2 f x = (one, 0) ∧ fLog2 f x = (sign + inf, flDz)) ∧
    (∀ e, decodeNum f x = .fin true 0 e →
      fRcp f x = (sign + inf, flDz) ∧ fRsqrt f x = (sign + inf, flDz) ∧ fExp2 f x = (one, 0) ∧ fLog2 f x = (sign + inf, flDz)) ∧
    ∀ m e, decodeNum f x = .fin true (m + 1) e → fRsqrt f x = (f.nan, flIv) ∧ fLog2 f x = (f.nan, flIv)
/-- R86, R148, R149, R153, R162: integer, logic and move instructions of the vector units. -/
def Obligations.VectorIntegerAndLogic : Prop :=
  -- R86, R148, R149, R153, R162: integer arithmetic lane by lane: modulo 2^w, or clamped with the saturation flag; logic and shifts by bits.
  (∀ (o : VecOp) (s : State), o.fmt.isFloat = false →
      let w := o.w
      let v := intOf o.fmt
      let modulo (x : Int) : Nat × FFlags := ((x % (2 ^ w : Nat)).toNat, 0)
      let lo : Int := if o.fmt.isSigned then -(2 ^ (w - 1) : Nat) else 0
      let hi : Int := if o.fmt.isSigned then (2 ^ (w - 1) : Nat) - 1 else (2 ^ w : Nat) - 1
      let clamp (x : Int) : Nat × FFlags :=
        ((modulo (if x < lo then lo else if hi < x then hi else x)).1, if x < lo ∨ hi < x then flSat else 0)
      let shift (i : Instr) (g : Nat → Nat → Nat) : Prop := LandsLanes i s o.d 2 w o.n (active o.ke (s.k o.km) o.n) fun j =>
        (g (laneN (s.v o.a) w j) (if o.x.getLsbD 0 then o.c.toNat else laneN (s.v o.b) w j), 0)
      Lanewise2 (.vadd o) s o 2 (fun x y => modulo (v x + v y)) ∧
      Lanewise2 (.vsub o) s o 2 (fun x y => modulo (v x - v y)) ∧
      Lanewise2 (.vmul o) s o 2 (fun x y => modulo (v x * v y)) ∧
      Lanewise2 (.vmin o) s o 2 (fun x y => modulo (min (v x) (v y))) ∧
      Lanewise2 (.vmax o) s o 2 (fun x y => modulo (max (v x) (v y))) ∧
      Lanewise1 (.vabs o) s o 2 (fun x => modulo (v x).natAbs) ∧
      Lanewise1 (.vneg o) s o 2 (fun x => modulo (-v x)) ∧
      Lanewise2 (.vmulh o) s o 2 (fun x y => modulo (v x * v y / (2 ^ w : Nat))) ∧
      Lanewise2 (.vsadd o) s o 2 (fun x y => clamp (v x + v y)) ∧
      Lanewise2 (.vssub o) s o 2 (fun x y => clamp (v x - v y)) ∧
      shift (.vshl o) (fun x y => if w ≤ y then 0 else x * 2 ^ y) ∧
      shift (.vshr o) (fun x y => x / 2 ^ y) ∧
      shift (.vsra o) (fun x y => (modulo (signed w x / (2 ^ min y w : Nat))).1) ∧
      Lanewise1 (.vpopc o) s o 2 (fun x => (((List.range w).filter x.testBit).length, 0)) ∧
      LandsLanes (.vidx o) s o.d 2 w o.n (active o.ke (s.k o.km) o.n) (fun j => modulo (o.c.toNat + j))) ∧
  -- R148, R149, R162: bitwise logic and `vmov` work on the lanes' bits whatever the type.
  (∀ (o : VecOp) (s : State),
      Lanewise2 (.vand o) s o 2 (fun x y => (x &&& y, 0)) ∧ Lanewise2 (.vor o) s o 2 (fun x y => (x ||| y, 0)) ∧
      Lanewise2 (.vxor o) s o 2 (fun x y => (x ^^^ y, 0)) ∧ Lanewise2 (.vandn o) s o 2 (fun x y => (x &&& (x ^^^ y), 0)) ∧
      Lanewise1 (.vmov o) s o 2 (fun x => (x, 0)))
/-- R102, R146, R152, R163: a comparison sets the bit of its mask that governs a lane when the lane is active and the condition holds, and no other bit;
`vsel` takes every lane from a or b by its mask bit; mask instructions work bit by bit. -/
def Obligations.VectorComparisonsAndMasks : Prop :=
  ∀ (s : State) (o : VecOp) (kd ka kb : BitVec 3) (sd : BitVec 6),
    let f := o.fmt
    let eq (x y : Nat) : Bool := if f.isFloat then (decodeNum f x).eqv (decodeNum f y) else decide (intOf f x = intOf f y)
    let lt (x y : Nat) : Bool :=
      if f.isFloat then (decodeNum f x).lt (decodeNum f y) && !eq x y else decide (intOf f x < intOf f y)
    let cond (x y : Nat) : Bool :=
      (o.x = 0 && eq x y) || (o.x = 1 && !eq x y) || (o.x = 2 && lt x y) || (o.x = 3 && (lt x y || eq x y)) ||
        (o.x = 4 && lt y x) || (o.x = 5 && (lt y x || eq x y))
    (o.x.toNat < 6 → ∃ m, exec (.vcmp o) s = .next (s.landsK (o.d.setWidth 3) m) ∧ ∀ j, j < 128 → (m.getLsbD j = true ↔
      ∃ i, i < o.n ∧ (if o.n ≤ 128 then i else i / 2) = j ∧ active o.ke (s.k o.km) o.n i = true ∧
        cond (laneN (s.v o.a) o.w i) (laneN (s.v o.b) o.w i) = true)) ∧
    LandsLanes (.vsel o) s o.d 2 o.w o.n (fun _ => true)
      (fun i => (laneN (if (s.k o.km).getLsbD (mbit o.n i) then s.v o.a else s.v o.b) o.w i, 0)) ∧
    exec (.kand kd ka kb) s = .next (s.landsK kd (s.k ka &&& s.k kb)) ∧ exec (.kor kd ka kb) s = .next (s.landsK kd (s.k ka ||| s.k kb)) ∧
    exec (.kxor kd ka kb) s = .next (s.landsK kd (s.k ka ^^^ s.k kb)) ∧ exec (.kinv kd ka) s = .next (s.landsK kd (~~~s.k ka)) ∧
    exec (.kmov kd ka) s = .next (s.landsK kd (s.k ka)) ∧
    exec (.kpop sd ka) s = .next (s.landsS 2 (.s sd.toNat) (BitVec.ofNat 64 ((List.range 128).filter (s.k ka).getLsbD).length))
/-- R89, R90, R98, R154-R157: conversions place element j by its part, rounded once; an integer target clamps with the saturation flag;
`vquant` and `vdeq` scale by the element's scale word; a NaN code or scale gives the canonical NaN, in `vdeq` without a flag (R90, R166; log 38); `vpack`
puts the lanes of a before those of b. -/
def Obligations.VectorConversions : Prop :=
  ∀ (s : State) (o : CvtOp),
    let n := 1024 / max o.from.width o.to.width
    let word (j : Nat) : Nat := laneN (s.v o.b) 32 (if o.bw then 0 else j * 32 / n)
    let scale (j : Nat) : Machine.Num := decodeNum .f16 (word j % 2 ^ 16)
    let zero (j : Nat) : Machine.Num := Machine.Num.ofInt (signed 8 (word j / 2 ^ 16))
    let invalid (x : Machine.Num) (j : Nat) (y : Machine.Num) : FFlags := if y.isNan && !x.isNan && !(scale j).isNan then flIv else 0
    let clamp (x : Int) : Nat × FFlags :=
      ((max (intLo o.to false) (min (intHi o.to) x) % (2 ^ o.to.width : Nat)).toNat, if x < intLo o.to false ∨ intHi o.to < x then flSat else 0)
    (o.part.toNat < o.ratio → LandsElements (.vcvt o) s o (fun _ x => convert o.to false o.rz (decodeNum o.from x))) ∧
    (o.part.toNat < o.ratio → LandsElements (.vquant o) s o (fun j x =>
      let p := (decodeNum .f32 x).mul (scale j)
      let y := if o.to.isFloat then p else p.add (zero j)
      ((convert o.to true false y).1, (convert o.to true false y).2 ||| invalid (decodeNum .f32 x) j y))) ∧
    (o.part.toNat < o.ratio → LandsElements (.vdeq o) s o (fun j x =>
      let c := if o.from.isFloat then decodeNum o.from x else (decodeNum o.from x).sub (zero j)
      let y := c.mul (scale j)
      if y.isNan then (o.to.nan, invalid c j y) else convert o.to false false y)) ∧
    (o.to.width = 2 * o.from.width → o.part.toNat < 2 → LandsElements (.vunpk o) s o (fun _ x => clamp (intOf o.from x))) ∧
    (o.from.width = 2 * o.to.width → LandsLanes (.vpack o) s o.d 4 o.to.width (2 * (1024 / o.from.width))
      (active o.ke (s.k o.km) (2 * (1024 / o.from.width))) (fun i =>
        clamp (intOf o.from (if i < 1024 / o.from.width then laneN (s.v o.a) o.from.width i
          else laneN (s.v o.b) o.from.width (i - 1024 / o.from.width)))))
/-- R148, R158, R159, R162: where the lanes of permutations and transfers come from. -/
def Obligations.VectorPermutationsAndTransfers : Prop :=
  -- R158, R159: permutations: where each lane, or each byte, of the result comes from.
  (∀ (s : State) (o : VecOp) (d a b : BitVec 10) (i : Bool) (sr : BitVec 6) (off : BitVec 7),
      let from_ (g : Instr) (f : Nat → Nat) : Prop := LandsLanes g s o.d 3 o.w o.n (active o.ke (s.k o.km) o.n) fun j => (f j, 0)
      let x := laneN (s.v o.a) o.w
      let y := laneN (s.v o.b) o.w
      let c (j : Nat) : Nat := if j < o.n then x j else y (j - o.n)
      from_ (.vperm o) (fun j => x (y j % o.n)) ∧
      from_ (.vbcast o) (fun _ => x o.c.toNat) ∧
      (o.x = 0 → from_ (.vshuf o) (fun j => if j % 2 = 0 then x (j / 2) else y ((j - 1) / 2))) ∧
      (o.x = 1 → from_ (.vshuf o) (fun j => if j % 2 = 0 then x (o.n / 2 + j / 2) else y (o.n / 2 + (j - 1) / 2))) ∧
      (o.x = 2 → from_ (.vshuf o) (fun j => c (2 * j))) ∧
      (o.x = 3 → from_ (.vshuf o) (fun j => c (2 * j + 1))) ∧
      (o.x = 4 → from_ (.vshuf o) (fun j => x (o.n - 1 - j))) ∧
      from_ (.vslide o) (fun j => c (j + o.c.toNat)) ∧
      ∃ v : Row, LandsRow (.vrotm d a b i sr off) s d 3 v 0 ∧ ∀ j, j < 128 →
        let k := j + (if i then off.toNat else (s.s sr).toNat % 128)
        laneN v 8 j = if k < 128 then laneN (s.v a) 8 k else laneN (s.v b) 8 (k - 128)) ∧
  -- R148, R162: transfers between scalar and vector registers.
  (∀ (s : State) (o : XferOp),
      let f := Fmt.get o.ty.toNat
      let n := 1024 / f.width
      let act := active o.ke (s.k o.km) n
      let x : Word64 := if o.i then BitVec.ofInt 64 o.imm.toInt else s.s o.sr
      LandsLanes (.vsplat o) s o.d 2 f.width n act (fun _ => (x.toNat, 0)) ∧
      exec (.vext o) s = .next (s.landsS 2 (.s (o.d.toNat % 64))
        (BitVec.ofInt 64 (if f.isSigned then signed f.width (laneN (s.v o.a) f.width o.imm.toNat) else laneN (s.v o.a) f.width o.imm.toNat))) ∧
      LandsLanes (.vins o) s o.d 2 f.width n (fun j => act j && decide (j = o.imm.toNat)) (fun _ => ((s.s o.sr).toNat, 0)))
/-- R101, R102, R160: reductions put one value into lane 0 and clear the rest: the sum modulo 2^w, the exact sum rounded once, an
extremum; `vscan` gives each lane the sum of the active lanes up to it. -/
def Obligations.VectorReductions : Prop :=
  ∀ (s : State) (o : VecOp),
    let f := o.fmt
    let act (k : Nat) : List Nat := ((List.range k).filter (active o.ke (s.k o.km) o.n)).map (laneN (s.v o.a) o.w)
    let xs := act o.n
    let row (x : Nat) : Row := BitVec.ofNat 1024 (x % 2 ^ o.w)
    let total (l : List Nat) : Nat := (l.foldl (fun n x => n + intOf f x) 0 % (2 ^ o.w : Nat)).toNat
    let sum : List Nat → Nat × FFlags
      | [] => (0, 0)
      | x :: l =>
        let v := (l.map (decodeNum f)).foldl Machine.Num.add (decodeNum f x)
        if v = .nan then (f.nan, flIv) else roundTo f false v
    (f.isFloat = false → LandsRow (.vredsum o) s o.d 6 (row (total xs)) 0 ∧
      LandsLanes (.vscan o) s o.d 6 o.w o.n (fun _ => true) (fun i => (total (act (i + 1)), 0)) ∧
      (∀ x ∈ xs, (∀ y ∈ xs, intOf f y ≤ intOf f x) → LandsRow (.vredmax o) s o.d 6 (row x) 0) ∧
      (∀ x ∈ xs, (∀ y ∈ xs, intOf f x ≤ intOf f y) → LandsRow (.vredmin o) s o.d 6 (row x) 0) ∧
      (xs = [] → LandsRow (.vredmax o) s o.d 6 (row ((intLo f false) % (2 ^ o.w : Nat)).toNat) 0 ∧
        LandsRow (.vredmin o) s o.d 6 (row ((intHi f) % (2 ^ o.w : Nat)).toNat) 0)) ∧
    (f.clsF = true → LandsRow (.vredsum o) s o.d 6 (row (sum xs).1) (sum xs).2 ∧
      LandsLanes (.vscan o) s o.d 6 o.w o.n (fun _ => true) (fun i => sum (act (i + 1))) ∧
      ((∃ x ∈ xs, decodeNum f x = .nan) → LandsRow (.vredmax o) s o.d 6 (row f.nan) 0 ∧ LandsRow (.vredmin o) s o.d 6 (row f.nan) 0) ∧
      ((∀ x ∈ xs, decodeNum f x ≠ .nan) →
        (∀ x ∈ xs, (∀ y ∈ xs, y = x ∨ (decodeNum f y).lt (decodeNum f x) = true) → LandsRow (.vredmax o) s o.d 6 (row x) 0) ∧
        (∀ x ∈ xs, (∀ y ∈ xs, y = x ∨ (decodeNum f x).lt (decodeNum f y) = true) → LandsRow (.vredmin o) s o.d 6 (row x) 0)) ∧
      (xs = [] → LandsRow (.vredmax o) s o.d 6 (row (f.infCode + 2 ^ (o.w - 1))) 0 ∧ LandsRow (.vredmin o) s o.d 6 (row f.infCode) 0))
/-- R102, R161: `vtopk` ranks every active lane before the lanes that come after it in the order of its `low` flag, NaN lanes last, equal
lanes by index, and lands the first m values and their lane indices; beyond the active lanes, value 0 and index all ones. -/
def Obligations.TopKRanksLanes : Prop :=
  ∀ (s : State) (o : VecOp),
    let x := laneN (s.v o.a) o.w
    let before (i j : Nat) : Prop := ranksBefore o.fmt (o.x.getLsbD 0) i (x i) j (x j) = true
    ∃ rank : List Nat, rank.Perm ((List.range o.n).filter (active o.ke (s.k o.km) o.n)) ∧ rank.Pairwise before ∧
      ∃ vals inds : Row,
        exec (.vtopk o) s = .next (s.lands [s.lander (vLat o.d.toNat 8) (s.vDest o.d.toNat) vals allOnes 0,
          s.lander (vLat (o.d.toNat + 1) 8) (s.vDest (o.d.toNat + 1)) inds allOnes 0]) ∧
        ∀ j, j < o.n →
          (j < o.c.toNat → (∀ i, rank[j]? = some i → laneN vals o.w j = x i ∧ laneN inds o.w j = i % 2 ^ o.w) ∧
            (rank[j]? = none → laneN vals o.w j = 0 ∧ laneN inds o.w j = 2 ^ o.w - 1)) ∧
          (o.c.toNat ≤ j → laneN vals o.w j = 0 ∧ laneN inds o.w j = 0)
/-- R10, R99, R151: `vtsum` adds each active lane into the pair of its two destinations: hi takes the rounded sum, lo gathers the rounding error;
a NaN or an infinite hi clears lo. That a finite sum which becomes infinite sets ix along with of is log 38, the model's deduction from R90. -/
def Obligations.PairSums : Prop :=
  ∀ (s : State) (o : VecOp),
    let add (x y : Nat) : Nat := (fAdd .f32 x y).1
    let sub (x y : Nat) : Nat := (fSub .f32 x y).1
    let act := active o.ke (s.k o.km) 32
    let x := laneN (s.v o.a) 32
    let hi := laneN (s.v o.d) 32
    let lo := laneN (s.v (o.d + 1)) 32
    let stops (j : Nat) : Bool := (decodeNum .f32 (x j)).isNan || (decodeNum .f32 (hi j)).isNan || !(decodeNum .f32 (add (hi j) (x j))).isFin
    let err (j : Nat) : Nat :=
      let b := sub (add (hi j) (x j)) (hi j)
      add (sub (hi j) (sub (add (hi j) (x j)) b)) (sub (x j) b)
    ∃ r1 r2, exec (.vtsum o) s = .next (s.lands [r1, r2]) ∧ r1.dest = s.vDest o.d.toNat ∧ r2.dest = s.vDest (o.d + 1).toNat ∧
      r1.due = s.tick + vLat o.d.toNat 5 ∧ r2.due = s.tick + vLat (o.d + 1).toNat 5 ∧ r2.flags = 0 ∧
      LaneResult r1 32 32 act (fun j => (add (hi j) (x j), 0)) ∧
      LaneResult r2 32 32 act (fun j => (if stops j then 0 else add (lo j) (err j), 0)) ∧
      r1.flags = flagsOver act (fun j => (0, if stops j then (fAdd .f32 (hi j) (x j)).2
        else (fAdd .f32 (lo j) (err j)).2 &&& (flIx ||| flUf))) 32

/-! Scratchpad rows and ropes. -/

/-- R117, R118, R167, R168, R170: loads land, after three ticks, the row as the context sees it, one lane of it in every lane, a quarter for a
mask, or a ring's row without popping it; post-modification writes the address register. -/
def Obligations.LoadsLandRows : Prop :=
  ∀ (s : State) (v : BitVec 10) (r : RowRef) (lane : BitVec 8) (ty : BitVec 4) (kd seg ring : BitVec 3) (j : BitVec 11),
    let a := if r.pm then (s.a r.an).toNat else (s.a r.an + BitVec.ofInt 32 r.off.toInt).toNat
    let row := s.here.seen s.cur.slot s.tick (s.tick - 1) a
    let w := (Fmt.get ty.toNat).width
    let g := s.me.regs.ringOf ring.toNat
    exec (.ldRow v r) s = .next (s.lands (s.lander (vLat v.toNat 3) (s.vDest v.toNat) row allOnes 0 :: s.posts r)) ∧
    (∃ x, exec (.ldLane v r lane ty) s = .next (s.lands (s.lander (vLat v.toNat 3) (s.vDest v.toNat) x allOnes 0 :: s.posts r)) ∧
      ∀ i, i < 1024 / w → laneN x w i = laneN row w lane.toNat) ∧
    (∃ x, exec (.ldK kd r seg) s = .next (s.lands (s.lander 3 (.k kd.toNat) x allOnes 0 :: s.posts r)) ∧
      x.setWidth 128 = row.extractLsb' (128 * seg.toNat) 128) ∧
    LandsRow (.ldPeek v ring j) s v 3 (s.here.seen s.cur.slot s.tick (s.tick - 1) (ringBase g + (ringHead g + j.toNat) % 2 ^ ringLsize g)) 0
/-- R53, R118, R168, R169, R175, R207: a context's own loads see its store, its fill's row and its multiplexer's row from two ticks later on, in the bits
written, and what an engine writes at once; its commands capture a store from one tick later on and a multiplexer's row at once; once the write is
visible, every context sees it, and its own loads see what they saw. -/
def Obligations.OwnWritesBeforeVisibleOnes : Prop :=
  ∀ (c : Core) (w : RowWrite) (u : Nat), c.log = [] → c.shadow = [] → 1 ≤ u →
    let d := { c with log := [w] }
    let new := blend (c.row w.row) w.val w.mask
    (d.seen w.slot u (u - 1) w.row = if w.kind = .engine ∨ w.tick + 2 ≤ u then new else c.row w.row) ∧
    (d.seen w.slot u u w.row = if w.kind = .engine ∨ w.kind = .rope ∨ (w.kind = .store ∧ w.tick < u) ∨ w.tick + 2 ≤ u then new else c.row w.row) ∧
    (∀ k, k ≠ w.slot → d.seen k u (u - 1) w.row = c.row w.row) ∧
    (∀ k, k ≠ w.slot → (d.commitAt 0).seen k u (u - 1) w.row = blend (c.row w.row) w.val w.mask) ∧
    ((d.commitAt 0).seen w.slot u (u - 1) w.row = d.seen w.slot u (u - 1) w.row) ∧
    ∀ a, a ≠ w.row → ∀ k, d.seen k u (u - 1) a = c.row a ∧ (d.commitAt 0).seen k u (u - 1) a = c.row a
/-- R53, R54, R56, R117, R167-R170: stores, fills and ring appends. When a ring row lands for a context that waits is the model's choice (log 18). -/
def Obligations.StoresFillsAndRingAppends : Prop :=
  -- R53, R117, R167, R168: stores of a whole row, of the lanes under a mask, of one lane: the source is read at the tick, and what is written joins
  -- the core's unseen writes.
  (∀ (s : State) (v : BitVec 10) (r : RowRef) (km : BitVec 3) (ty : BitVec 4) (lane : BitVec 8),
      let w := (Fmt.get ty.toNat).width
      let stores (i : Instr) (written : Row → Prop) : Prop := ∃ t mask, exec i s = .next t ∧ written mask ∧
        t.here = { s.here with log := s.here.log ++ [⟨s.cur.slot, s.tick, s.rowOf r, s.v v, mask, Sp.get 0 s.here.epoch s.cur.slot, .store⟩] } ∧
        t.me = { s.me with landing := s.me.landing ++ s.posts r }
      stores (.stRow v r) (· = allOnes) ∧
      stores (.stRowk v r km ty) (fun m => ∀ i, i < 1024 / w → laneN m w i = if (s.k km).getLsbD (mbit (1024 / w) i) then 2 ^ w - 1 else 0) ∧
      (lane.toNat < 1024 / w → stores (.stLane v r lane ty) (fun m => ∀ i, i < 1024 / w → laneN m w i = if i = lane.toNat then 2 ^ w - 1 else 0))) ∧
  -- R53, R54, R56, R169, R170: `st.fill` guards its rows and writes one row per tick of its context, in the order that `lfence` makes; `st.ring` reserves the
  -- ring's next row, writes it, guards it, for its own context too, and lets it land two ticks later.
  ((∀ (s : State) (sf cnt : BitVec 6) (r : RowRef), ∃ t, exec (.stFill sf r cnt) s = .next t ∧
      (∀ j, j ≤ cnt.toNat → ⟨s.rowOf r + j, true, s.fresh, s.cur.slot, some (s.tick + j)⟩ ∈ t.here.guards) ∧
      (∃ x, t.here.fills = s.here.fills ++ [⟨s.fresh, s.cur.slot, s.tick, s.rowOf r, cnt.toNat + 1, 0, x, Sp.get 0 s.here.epoch s.cur.slot⟩] ∧ ∀ i, i < 16 → rowWord x i = s.s sf) ∧
      t.me.landing = s.me.landing ++ s.posts r ∧ t.fresh = s.fresh + 1) ∧
    (∀ (s : State) (core slot : Nat) (f : Fill), (s.core core).fills.find? (fun f => f.slot = slot) = some f →
      ∃ t, exec (.fillRowWrite core slot) s = .next t ∧
        WrittenInOrder (s.core core) (t.core core) ⟨slot, f.tick + f.done, f.base + f.done, f.val, allOnes, f.epoch, .fill⟩ ∧
        (∀ g ∈ (t.core core).guards, ¬(g.row = f.base + f.done ∧ g.cause = f.id ∧ g.pend = true)) ∧ KeepsContexts s t ∧ KeepsMemory s t) ∧
    ∀ (s : State) (v : BitVec 10) (n : BitVec 3),
      let g := s.me.regs.ringOf n.toNat
      let m := ringResv g % 4096
      let row := ringBase g + m % 2 ^ ringLsize g
      ∃ t, exec (.stRing v n) s = .next t ∧
        t.here.log = s.here.log ++ [⟨s.cur.slot, s.tick, row, s.v v, allOnes, Sp.get 0 s.here.epoch s.cur.slot, .store⟩] ∧
        t.here.guards = s.here.guards ++ [⟨row, true, s.fresh, s.cur.slot, none⟩] ∧ t.here.pending s.cur.slot row = true ∧
        ringResv (t.me.regs.ringOf n.toNat) = (ringResv g + 1) % 4096 ∧ ringHead (t.me.regs.ringOf n.toNat) = ringHead g ∧
        ringTail (t.me.regs.ringOf n.toNat) = ringTail g ∧ t.me.ringDue = s.me.ringDue ++ [⟨s.tick + 2, n.toNat, m, s.fresh, row, s.now + 2⟩] ∧
        t.me.owed = s.me.owed ++ [(n.toNat, m)])
/-- R114, R167-R175: the frame of the ST slot: apart from the row that the store writes, every row reads as before, for every context and at every tick;
registers stay until an address register lands; only `st.ring` changes a ring register; memory, other cores and other contexts stay. -/
def Obligations.StoreFrame : Prop :=
  ∀ (i : Instr) (s t : State), isStore i = true → exec i s = .next t →
    (∀ a, s.storedRow i ≠ some a → ∀ k u lim, t.here.seen k u lim a = s.here.seen k u lim a) ∧
    (∀ n, n ≠ s.cur.core → t.core n = s.core n) ∧
    t.me.regs = { s.me.regs with ring := t.me.regs.ring } ∧ ((∀ v n, i ≠ .stRing v n) → t.me.regs.ring = s.me.regs.ring) ∧
    (∃ rs, t.me.landing = s.me.landing ++ rs ∧ ∀ x ∈ rs, ∃ r, storeRowRef i = some r ∧ x.dest ∈ RowRef.dests r) ∧
    t.me.matrix = s.me.matrix ∧ t.me.place = s.me.place ∧ t.me.chan = s.me.chan ∧ t.me.hold = s.me.hold ∧ t.me.iss = s.me.iss ∧
    KeepsOthers s t ∧ KeepsMemory s t ∧ t.parts = s.parts ∧ t.dies = s.dies ∧ t.cmds = s.cmds ∧ t.control = s.control
/-- R54, R171-R176: sends, beats and captures. -/
def Obligations.RopeExchange : Prop :=
  -- R171, R173, R174: `xsend` drives the row beat by beat, one beat a cycle, from its own strip on; the first reaches the strip's latch three
  -- cycles later.
  (∀ (s : State) (v : BitVec 10) (r : RowRef) (sk dir hw : Bool),
      let x := if sk then s.v v else s.loadRow (s.rowOf r)
      let n := if hw then 16 else 8
      ∃ t bs, exec (.xsend v r sk dir hw) s = .next t ∧ t.fabric.beats = s.fabric.beats ++ bs ∧ bs.length = n ∧
        (∀ j b, bs[j]? = some b → b.core = s.cur.core ∧ b.dir = dir ∧ b.strip = coreStrip s.cur.core ∧ b.at_ = s.now + j + 3 ∧ b.full = !hw ∧
          b.bytes.toNat = laneN x (if hw then 64 else 128) j) ∧
        (if dir then t.here.laneW else t.here.laneE) = s.now + n ∧ t.me.landing = s.me.landing ++ s.posts r) ∧
  -- R171-R173: a beat advances one strip a cycle in its direction, nine cycles over a die boundary; it ends at the edge of its footprint, and at a boundary when it has
  -- full width.
  (∀ (s : State) (b : Beat), s.fabric.beats = [b] →
      let edge : Prop := if b.dir then b.strip ≤ b.lo else b.hi ≤ b.strip
      let cross : Prop := if b.dir then b.strip % 30 = 0 else b.strip % 30 = 29
      ∃ t, exec .ropeBeat s = .next t ∧ (s.now ≤ b.at_ → t.fabric.beats = [b]) ∧
        (b.at_ < s.now → edge ∨ (cross ∧ b.full = true) → t.fabric.beats = []) ∧
        (b.at_ < s.now → ¬edge → ¬(cross ∧ b.full = true) → ∃ c, t.fabric.beats = [c] ∧ c.bytes = b.bytes ∧ c.dir = b.dir ∧
          c.strip = (if b.dir then b.strip - 1 else b.strip + 1) ∧ (cross → c.at_ = b.at_ + 9) ∧ (¬cross → c.at_ = b.at_ + 1)) ∧
        (∀ n a, (t.core n).row a = (s.core n).row a) ∧ KeepsContexts s t ∧ KeepsMemory s t) ∧
  -- R171, R175, R176: in cycle c_r + j a multiplexer captures, as part j, the bytes on its lane at its core's strip, the low 8 at half width: the OR of the
  -- beats there, and zeros where there is none or the lane lies outside the package. A core's lane on another die is its through track downstream.
  (∀ (s : State) (core : Nat) (m : Mux), m ∈ (s.core core).muxes → m.start + m.parts.length = s.now → m.parts.length < (if m.hw then 16 else 8) →
      let own := coreDie core
      let stands (b : Beat) : Prop := b.strip = coreStrip core ∧ b.at_ = s.now ∧ b.dir = m.dir ∧ ∃ die course row, m.lane = some (die, course, row) ∧
        if die = own then b.core = die * 576 + (course * 24 + row)
        else b.l = course * 24 + row ∧ coreDie b.core ≠ own ∧ (if m.dir then own < die else die < own)
      ∃ t p bad, exec .ropeBeat s = .next t ∧ { m with parts := m.parts ++ [p], bad } ∈ (t.core core).muxes ∧
        (bad = true ↔ m.bad = true ∨ ∃ b ∈ t.fabric.beats, stands b ∧ b.parity = false) ∧
        ∀ i, i < 128 → (p.getLsbD i = true ↔ (m.hw = true → i < 64) ∧ ∃ b ∈ t.fabric.beats, stands b ∧ b.bytes.getLsbD i = true)) ∧
  -- R54, R175: `xsel` guards its row and selects the lane of the core at its offsets, when the package has one; with the last part the row is written whole, part after part, and
  -- the guard clears.
  ((∀ (s : State) (r : RowRef) (mx dir hw : Bool) (dc : BitVec 8) (dr : BitVec 6),
      let n := if hw then 16 else 8
      let pc : Int := (24 * coreDie s.cur.core + coreCourse s.cur.core : Nat) + dc.toInt
      let row : Int := (coreRow s.cur.core : Nat) + dr.toInt
      ∃ t m, exec (.xsel r mx dir hw dc dr) s = .next t ∧ t.here.muxes = s.here.muxes ++ [m] ∧ m.row = s.rowOf r ∧ m.start = s.now ∧ m.dir = dir ∧
        m.hw = hw ∧ m.id = s.fresh ∧ (∀ x ∈ m.lane, (0 ≤ pc ∧ pc < 96 ∧ 0 ≤ row ∧ row < 24) ∧ (24 * x.1 + x.2.1 : Nat) = pc ∧ (x.2.2 : Int) = row ∧ x.2.1 < 24) ∧
        (0 ≤ pc → pc < 96 → 0 ≤ row → row < 24 → m.lane.isSome = true) ∧
        (∀ k, t.here.pending k (s.rowOf r) = true) ∧ ⟨s.now + n, .event (.xselRowWrite s.cur.core s.fresh), []⟩ ∈ t.pending ∧
        t.me.landing = s.me.landing ++ s.posts r) ∧
    ∀ (s : State) (core id : Nat) (m : Mux), (s.core core).muxes.find? (fun m => m.id = id) = some m → m.bad = false →
      ∃ t v, exec (.xselRowWrite core id) s = .next t ∧
        (m.parts.length = (if m.hw then 16 else 8) → ∀ j b, m.parts[j]? = some b →
          laneN v (if m.hw then 64 else 128) j = b.toNat % 2 ^ (if m.hw then 64 else 128)) ∧
        WrittenInOrder (s.core core) (t.core core) ⟨m.slot, (s.ctx (ck core m.slot)).iss.tick, m.row, v, allOnes, m.epoch, .rope⟩ ∧
        (∀ g ∈ (t.core core).guards, ¬(g.row = m.row ∧ g.cause = m.id ∧ g.pend = true)) ∧
        (∀ e ∈ (t.core core).muxes, e.id ≠ id) ∧ KeepsContexts s t ∧ KeepsMemory s t)

/-! Matrix unit. -/

/-- R92, R100, R186, R187, R192, R194, R195: what the matrix registers take; `mread` lands a row of the tile, each element rounded once from
hi + lo, or its hi words, or its lo words; `mwait` has waited at the group's entry. -/
def Obligations.MatrixRegistersAndReadout : Prop :=
  ∀ (s : State) (idx ra rb : BitVec 3) (nb : BitVec 2) (ent : BitVec 4) (sa : BitVec 6) (vd : BitVec 10) (acc al w0 w1 sn : Bool) (row : BitVec 5),
    let m := s.me.matrix
    let f := readFmt (s.me.regs.fmt.setWidth 32)
    let reads (mode : BitVec 2) (w : Nat) (e : Nat → Nat) : Prop :=
      ∃ x, LandsRow (.mread vd acc row mode) s vd 6 x 0 ∧ ∀ j, j < 1024 / w → laneN x w j = if j < 32 then e j % 2 ^ w else 0
    exec (.mset false idx sa) s = .next (s.landsS 1 (.mp idx.toNat) (s.s sa)) ∧
    exec (.mset true idx sa) s = .next (s.landsS 1 (.ma idx.toNat) (s.s sa)) ∧
    exec (.mring ra rb) s = .next (s.landsS 1 .ringPair (BitVec.ofNat 64 (8 * rb.toNat + ra.toNat))) ∧
    exec (.mroute nb sa) s = .next (s.landsS 1 (.nb nb.toNat) (s.s sa)) ∧
    exec (.mfmt ent sa) s = .next (s.landsS 1 (.fmtTab ent.toNat) (s.s sa &&& 0x0f303f3f)) ∧
    exec (.mwait al w0 w1 sn) s = .next s ∧
    reads 0 f.width (fun j => (roundTo f false (pairNum (m.pair acc row.toNat j).1 (m.pair acc row.toNat j).2)).1) ∧
    reads 1 32 (fun j => (m.pair acc row.toNat j).1) ∧ reads 2 32 (fun j => (m.pair acc row.toNat j).2)
/-- R93, R107, R187-R190, R193: `mcall`, `macz` and `mwrite` each add one entry at the end of the queue, with its repetitions and the state captured
at issue; no register changes. -/
def Obligations.MatrixOperationsJoinTheQueue : Prop :=
  ∀ (s : State) (rt row : BitVec 5) (acc alt : Bool) (rep : Option (BitVec 8)) (vh vl : BitVec 10),
    let g := s.me.regs
    let joins (i : Instr) : Prop := ∃ t e, exec i s = .next t ∧ t.me.matrix = { s.me.matrix with queue := s.me.matrix.queue ++ [e] } ∧ e.op = i ∧
      e.id = s.fresh ∧ e.rep = (match rep with | some n => n.toNat + 1 | none => 1) ∧ e.mp = g.mp ∧ e.ma = g.ma ∧ e.nb = g.nb ∧ e.li = g.li ∧
      e.ringA = g.ringA.toNat ∧ e.ringB = g.ringB.toNat ∧ e.fmt = g.fmt.setWidth 32 ∧ e.fmtTab = g.fmtTab ∧ e.after = s.me.fenceMx ∧
      (∀ h l a r p, i = .mwrite h l a r p → e.hi = s.v h ∧ e.lo = s.v l) ∧ t.me.regs = g ∧ t.me.landing = s.me.landing ∧ KeepsOthers s t ∧
      KeepsMemory s t
    joins (.mcall rt acc alt rep) ∧ joins (.macz acc rep) ∧ joins (.mwrite vh vl acc row rep)
/-- R188, R190, R191, R193: the life of a matrix-queue entry. -/
def Obligations.MatrixEntriesStartAndRetire : Prop :=
  -- R188, R190, R193: an entry starts when the one before it has retired and its fences are done: `macz` clears its tile, `mwrite` writes one row of it,
  -- both retire a cycle later; `mcall` starts its routine at once.
  (∀ (s : State) (core slot : Nat), s.entryReady core slot = true →
      let c := s.ctx (ck core slot)
      let soon : Due := ⟨s.now + 1, .event (.entryRetire core slot), []⟩
      (∀ acc rep, c.entry.op = .macz acc rep → ∃ t, exec (.matrixEntryStart core slot) s = .next t ∧
        (∀ r j, r < 32 → j < 32 → (t.ctx (ck core slot)).matrix.pair acc r j = (0, 0)) ∧ KeepsTile (!acc) c.matrix (t.ctx (ck core slot)).matrix ∧
        soon ∈ t.pending ∧ (t.ctx (ck core slot)).regs = c.regs) ∧
      (∀ vh vl acc row rep, c.entry.op = .mwrite vh vl acc row rep → ∃ t, exec (.matrixEntryStart core slot) s = .next t ∧
        (∀ j, j < 32 → (t.ctx (ck core slot)).matrix.pair acc row.toNat j = (laneN c.entry.hi 32 j, laneN c.entry.lo 32 j)) ∧
        (∀ r j, r < 32 → j < 32 → r ≠ row.toNat → (t.ctx (ck core slot)).matrix.pair acc r j = c.matrix.pair acc r j) ∧
        KeepsTile (!acc) c.matrix (t.ctx (ck core slot)).matrix ∧ soon ∈ t.pending ∧ (t.ctx (ck core slot)).regs = c.regs) ∧
      ∀ rt acc alt rep start, c.entry.op = .mcall rt acc alt rep → Sp.get none (s.core core).routines rt.toNat = some start →
        ∃ t r, exec (.matrixEntryStart core slot) s = .next t ∧ (t.ctx (ck core slot)).matrix.run = some r ∧ r.pc = start ∧ r.acc = acc ∧
          r.start = s.now ∧ r.ended = none ∧ r.fmt = c.entry.fmt ∧ r.ma = c.entry.ma ∧ r.blocksA = [] ∧ r.blocksB = [] ∧ r.feeds = [] ∧
          ⟨s.now, .micro core slot, []⟩ ∈ t.pending ∧ (t.ctx (ck core slot)).matrix.tile = c.matrix.tile) ∧
  -- R188, R191: an entry whose routine has ended leaves the queue, or its next repetition stands in its place: `mwrite` one row on, `mcall` on the
  -- other tile when `alt` is set.
  (∀ (s : State) (core slot : Nat) (e : MEntry) (q : List MEntry) (r : MRun),
      let c := s.ctx (ck core slot)
      c.matrix.queue = e :: q → c.matrix.run = some r → r.ended.isSome = true →
      ∃ t, exec (.entryRetire core slot) s = .next t ∧
        let m := (t.ctx (ck core slot)).matrix
        m.run = none ∧ m.tile = c.matrix.tile ∧ (e.rep ≤ 1 → m.queue = q) ∧
        (1 < e.rep → ∃ d, m.queue = d :: q ∧ d.rep = e.rep - 1 ∧ d.mp = e.mp ∧ d.fmt = e.fmt ∧
          (∀ acc p, e.op = .macz acc p → d.op = e.op) ∧
          (∀ vh vl acc row p, e.op = .mwrite vh vl acc row p → d.op = .mwrite vh vl acc (row + 1) p) ∧
          (∀ rt acc alt p, e.op = .mcall rt acc alt p → d.op = .mcall rt (acc != alt) alt p ∧
            ∀ i, i < 4 → Sp.get 0 d.ma i = Sp.get 0 r.ma i + BitVec.ofInt 32 (signed 16 (fldN (Sp.get 0 e.mp 7) (16 * i) 16)))))
/-- R10, R97, R99, R181, R196: a K-block that retires adds its 64 beats to every element of the entry's tile, from rows each of which is as it was at its feed
or as it is now; pops advance the ring's head by the block's rows; the other tile stays. What a beat adds is the exact sum of its products, rounded once,
and it is added to the pair by `twosum`. -/
def Obligations.KBlocksRetireIntoTheTile : Prop :=
  -- R99: a beat of products: their exact sum, rounded once; -0 only when every product is.
  (∀ (a b : Operand) (per gsz m n j : Nat) (e g : Int) (x y : Nat → Int),
    (∀ k, k < per → (a.val m (j * per + k)).units e = some (x k) ∧ (b.val n (j * per + k)).units g = some (y k)) → 0 < per →
    (a.grouped && b.grouped) = false → ∃ z : Machine.Num,
      let total := ((List.range per).map fun k => x k * y k).sum
      z.units (e + g) = some total ∧
      (total = 0 → z.isNeg = (List.range per).all fun k => (a.val m (j * per + k)).isNeg != (b.val n (j * per + k)).isNeg) ∧
      beatValue a b per gsz m n j = some (roundTo .f32 false z).1) ∧
  -- R97: grouped integers add once per group, at the beat that completes it: the sum of the products of codes less their zero points, times both scales.
  (∀ (a b : Operand) (per gsz m n j : Nat), (a.grouped && b.grouped) = true →
    let k := (j + 1) * per - gsz
    ((j + 1) * per % gsz ≠ 0 → beatValue a b per gsz m n j = none) ∧
    ∀ (e g x y : Int), (j + 1) * per % gsz = 0 → (a.scale m k).units e = some x → (b.scale n k).units g = some y → ∃ z : Machine.Num,
      z.units (e + g) = some (((List.range gsz).map fun i => a.int m (k + i) * b.int n (k + i)).sum * x * y) ∧
      beatValue a b per gsz m n j = some (roundTo .f32 false z).1) ∧
  -- R181: the beats of a cell, one after another.
  (∀ (a b : Operand) (per gsz m n c : Nat) (p : Nat × Nat), cellBeats a b per gsz m n c 0 p =
    (List.range c).foldl (fun q j => match beatValue a b per gsz m n j with | some x => addTo q x | none => q) p) ∧
  -- R10, R99: a value is added to a pair: to hi alone where one of them is NaN or hi becomes infinite, else by `twosum`, whose every step rounds.
  (∀ hi lo x : Nat,
    let q := decodeNum .f32
    let plus (a b : Nat) : Nat := (roundTo .f32 false ((q a).add (q b))).1
    let minus (a b : Nat) : Nat := (roundTo .f32 false ((q a).add (q b).neg)).1
    let sum := plus hi x
    let part := minus sum hi
    let special : Prop := q x = .nan ∨ q hi = .nan ∨ (q sum).isFin = false
    (special → addTo (hi, lo) x = (sum, 0)) ∧
    (¬special → addTo (hi, lo) x = (sum, plus lo (plus (minus hi (minus sum part)) (minus x part))))) ∧
  -- R181, R196: retirement.
  ∀ (s : State) (core slot : Nat) (r : MRun) (f : Feed) (fs : List Feed),
    let c := s.ctx (ck core slot)
    let rowsNow (b : Block) (i : Nat) : Row := (s.core core).seen slot (c.iss.tick + 64) (c.iss.tick + 64) (ringRow (c.regs.ringOf b.ring) (b.first + i))
    let mixed (rows old : List Row) (b : Block) : Prop :=
      ∀ i, i < old.length → i < b.rows → rows[i]? = old[i]? ∨ rows[i]? = some (rowsNow b i)
    let popped (on : Bool) (l : List Block) (n : Nat) : Nat := match on, l with
      | true, b :: _ => if b.ring = n then b.rows else 0
      | _, _ => 0
    c.matrix.run = some r → r.feeds = f :: fs → f.retire ≤ s.now →
    ∃ t ra rb, exec (.kblockRetire core slot) s = .next t ∧ mixed ra f.rowsA f.a ∧ mixed rb f.rowsB f.b ∧
      let d := t.ctx (ck core slot)
      let g : Feed := { f with rowsA := ra, rowsB := rb }
      (f.nan = false → ∀ i j, i < 32 → j < 32 → d.matrix.pair r.acc i j =
        cellBeats (feedOperand g false) (feedOperand g true) (perBeat f.fmt) (gszOf f.fmt) i j 64 0 (c.matrix.pair r.acc i j)) ∧
      (f.nan = true → ∀ i j, i < 32 → j < 32 → d.matrix.pair r.acc i j = addTo (c.matrix.pair r.acc i j) Fmt.f32.nan) ∧
      KeepsTile (!r.acc) c.matrix d.matrix ∧
      (∃ u, d.matrix.run = some u ∧ u.feeds = fs ∧ u.blocksA = (if f.popA then r.blocksA.drop 1 else r.blocksA) ∧
        u.blocksB = (if f.popB then r.blocksB.drop 1 else r.blocksB)) ∧
      (∀ n, ringHead (d.regs.ringOf n) = (ringHead (c.regs.ringOf n) + popped f.popA r.blocksA n + popped f.popB r.blocksB n) % 4096 ∧
        ringTail (d.regs.ringOf n) = ringTail (c.regs.ringOf n) ∧ ringResv (d.regs.ringOf n) = ringResv (c.regs.ringOf n)) ∧
      (f.popA = false → f.popB = false → d.regs = c.regs) ∧ d.regs.v = c.regs.v ∧ d.regs.s = c.regs.s ∧ KeepsCores s t ∧ KeepsMemory s t
/-- R94, R197, R198: the microwords that steer a routine; a `wretire` with no unretired feed pops nothing (the model's deduction, log 37). -/
def Obligations.SteeringMicrowords : Prop :=
  ∀ (s : State) (r : MRun), s.me.active = some r →
    let e := s.me.entry
    (∀ a ma b mb, GoesOn (.wgroup a ma b mb) s { r with sa := if a then some ma else none, sb := if b then some mb else none, pc := r.pc + 1 }) ∧
    (∀ l, GoesOn (.wfmt l) s { r with fmt := Sp.get 0 e.fmtTab ((Sp.get 0 e.li l.toNat).toNat % 16), pc := r.pc + 1 }) ∧
    (∀ c m v, GoesOn (.wloop c false m v) s { r with mlc := Sp.put 0 r.mlc c.toNat v, pc := r.pc + 1 }) ∧
    (∀ c m v, GoesOn (.wloop c true m v) s { r with mlc := Sp.put 0 r.mlc c.toNat ((Sp.get 0 e.mp m.toNat).setWidth 32), pc := r.pc + 1 }) ∧
    (∀ c a, GoesOn (.wjump c 0 a) s { r with pc := a.toNat }) ∧
    (∀ c a, GoesOn (.wjump c 1 a) s { r with pc := if Sp.get 0 r.mlc c.toNat = 0 then a.toNat else r.pc + 1 }) ∧
    (∀ c a, let n := Sp.get 0 r.mlc c.toNat - 1
      GoesOn (.wjump c 2 a) s { r with mlc := Sp.put 0 r.mlc c.toNat n, pc := if n ≠ 0 then a.toNat else r.pc + 1 }) ∧
    (∀ f n, (f = true ∧ r.feeds ≠ []) ∨ (n = true ∧ r.sends ≠ []) → Waits (.wwait f n) s) ∧
    (∀ f n, (f = true → r.feeds = []) → (n = true → r.sends = []) → GoesOn (.wwait f n) s { r with pc := r.pc + 1 }) ∧
    (r.feeds ≠ [] ∨ r.sends ≠ [] → Waits .wend s) ∧
    (r.feeds = [] → r.sends = [] → ∃ t, exec .wend s = .next t ∧
      t.me.matrix.run = some { r with ended := some s.now, blocksA := [], blocksB := [] } ∧
      t.pending = s.pending ++ [⟨s.now + 1, .event (.entryRetire s.cur.core s.cur.slot), []⟩] ∧ t.me.regs = s.me.regs) ∧
    (∀ pa pb, r.feeds = [] → GoesOn (.wretire pa pb) s { r with pc := r.pc + 1 }) ∧
    ∀ pa pb fs f, r.feeds = fs ++ [f] → (∀ g ∈ fs, g.id ≠ f.id) →
      GoesOn (.wretire pa pb) s { r with feeds := fs ++ [{ f with popA := f.popA || pa, popB := f.popB || pb }], pc := r.pc + 1 }
/-- R181, R184, R196, R198, R200: microwords that bind, feed, sum and send. -/
def Obligations.DataMicrowords : Prop :=
  -- R181, R184, R196, R198: `wpopa` and `wpopb` bind the next block of a ring when its rows have landed; `wfeed` starts a K-block of the newest blocks, whose retirement
  -- is 96 cycles later; without bound blocks the routine ends in error.
  (∀ (s : State) (r : MRun) (t b : Bool), s.me.active = some r →
      let word : Instr := if b then .wpopb t else .wpopa t
      let ring := if b then s.me.entry.ringB else s.me.entry.ringA
      let g := s.me.regs.ringOf ring
      let bound := ((r.blocksA ++ r.blocksB).filter fun x => x.ring = ring).foldl (fun n x => n + x.rows) 0
      let ptr := (ringHead g + bound) % 4096
      let n := blockRows r.fmt b t (if b then r.sb.isSome else r.sa.isSome)
      let left := (ringTail g + 4096 - ptr) % 4096
      (n ≤ 2 ^ ringLsize g → left < n → Waits word s) ∧
      (n ≤ 2 ^ ringLsize g → n ≤ left → ∃ x : Block, x.ring = ring ∧ x.first = ptr ∧ x.rows = n ∧ x.trans = t ∧ x.data.length = n ∧
        GoesOn word s (if b then { r with blocksB := r.blocksB ++ [x], pc := r.pc + 1 } else { r with blocksA := r.blocksA ++ [x], pc := r.pc + 1 })) ∧
      (2 ^ ringLsize g < n → s.me.iss.halted = false → s.me.iss.routineEvent = none → ∃ u, exec word s = .next u ∧
        u.me.iss.routineEvent = some (4, r.routine, r.pc)) ∧
      (∀ p ta tb, r.blocksA = [] ∨ r.blocksB = [] → s.me.iss.halted = false → s.me.iss.routineEvent = none →
        ∃ u, exec (.wfeed p ta tb) s = .next u ∧ u.me.iss.routineEvent = some (3, r.routine, r.pc) ∧ u.me.run.pc = 4096) ∧
      (∀ p ta tb xs x ys y, r.blocksA = xs ++ [x] → r.blocksB = ys ++ [y] → r.feedFrom ≤ s.now → s.here.arrayFree ≤ s.now →
        (∀ k, k ≠ s.cur.slot → s.feedReady s.cur.core k = false) → s.cur.slot < 4 → ∃ u f, exec (.wfeed p ta tb) s = .next u ∧
          u.me.run.feeds = r.feeds ++ [f] ∧ f.a = x ∧ f.b = y ∧ f.part = p.toNat ∧ f.fmt = r.fmt ∧ f.retire = s.now + 96 ∧ u.me.run.pc = r.pc + 1 ∧
          u.here.arrayFree = s.now + 64 ∧ ⟨s.now + 96, .event (.kblockRetire s.cur.core s.cur.slot), []⟩ ∈ u.pending) ∧
      ∀ p ta tb, r.blocksA ≠ [] → r.blocksB ≠ [] → s.now < r.feedFrom ∨ s.now < s.here.arrayFree → Waits (.wfeed p ta tb) s) ∧
  -- R53, R198, R200: `wsum` adds the named tile's pairs as they were, hi and then lo (its own tile's too, log 37), and `wsend` delivers rows of the tile, once
  -- every feed has retired: to scratchpad rows of the window, in the order that `lfence` makes, or as one packet a row.
  (∀ (s : State) (r : MRun) (src dst sc : Bool) (n : BitVec 2) (m : BitVec 3) (first cnt : BitVec 5), s.me.active = some r →
      (r.feeds ≠ [] → Waits (.wsum src) s ∧ Waits (.wsend dst n sc m first cnt) s) ∧
      (r.feeds = [] → ∃ t, exec (.wsum src) s = .next t ∧ t.me.run = { r with pc := r.pc + 1 } ∧ t.me.regs = s.me.regs ∧
        KeepsTile (!r.acc) s.me.matrix t.me.matrix ∧
        ∀ i j, i < 32 → j < 32 → t.me.matrix.pair r.acc i j =
          addTo (addTo (s.me.matrix.pair r.acc i j) (s.me.matrix.pair src i j).1) (s.me.matrix.pair src i j).2) ∧
      (r.feeds = [] →
        let base := (Sp.get 0 r.ma n.toNat).toNat
        let row (j : Nat) : Nat := (base + j) % 2 ^ 32
        let scale := if sc then some (fldN (Sp.get 0 s.me.entry.mp m.toNat) 0 32) else none
        let sent (x : Row) (j : Nat) : Prop := ∀ k, k < 1024 / (readFmt r.fmt).width → laneN x (readFmt r.fmt).width k =
          if k < 32 then readoutPair (readFmt r.fmt) scale (s.me.matrix.pair r.acc ((first.toNat + j) % 32) k) % 2 ^ (readFmt r.fmt).width else 0
        let early (w : Nat) (f : Fill) : Prop := f.slot = s.cur.slot ∧ f.epoch < w
        ∃ t, exec (.wsend false n sc m first cnt) s = .next t ∧
          ((∀ x ∈ s.here.log, s.here.fillFirst x = false) → (∀ f ∈ s.here.fills, ¬early s.me.entry.epoch f) →
            ∀ j, j ≤ cnt.toNat → s.me.inWindow (row j) = true → sent (t.here.row (row j)) j) ∧
          ((∃ f ∈ s.here.fills, early s.me.entry.epoch f) → t.here.rows = s.here.rows ∧
            ∀ j, j ≤ cnt.toNat → s.me.inWindow (row j) = true → ∃ w ∈ t.here.log, w.row = row j ∧ w.epoch = s.me.entry.epoch ∧ w.mask = allOnes ∧ sent w.val j) ∧
          (∀ a, s.me.inWindow a = false ∨ (∀ j, j ≤ cnt.toNat → a ≠ row j) → (∀ x ∈ s.here.log, x.row ≠ a) → t.here.row a = s.here.row a) ∧
          t.me.run.pc = r.pc + 1 ∧ Sp.get 0 t.me.run.ma n.toNat = Sp.get 0 r.ma n.toNat + BitVec.ofNat 32 (cnt.toNat + 1)) ∧
      (r.feeds = [] → ∃ t ps, exec (.wsend true n sc m first cnt) s = .next t ∧ t.fabric.msgs = s.fabric.msgs ++ ps ∧ ps.length = cnt.toNat + 1 ∧
        t.me.run.sends = r.sends ++ ps.map Msg.id ∧ t.me.run.pc = r.pc + 1 ∧ KeepsCores s t ∧ KeepsMemory s t))

/-! Sync instructions and synchronisation engines. -/

/-- R39, R53, R92, R93, R104, R106, R112, R217, R229-R231: sync operations and the order that `qfence` makes. -/
def Obligations.SyncOperationsAndFences : Prop :=
  -- R39, R53, R92, R93, R104, R106, R112, R217, R229-R231: what each sync operation does at its tick: nothing, an order of row writes, a write of
  -- `fmt` after three ticks, a place in the operations that take effect after the group, an arrival at the knot, a halt.
  (∀ (s : State) (ch : BitVec 2) (code : BitVec 16) (val : BitVec 32) (g : InGroup) (e : Word64 × Bundle × List Word64),
      let c := s.me
      let after (op : Instr) : State :=
        s.setMe { c with iss := { c.iss with after := c.iss.after ++ [⟨op, g.idx, g.start, g.tick0, e.2.2⟩] } }
      exec .snop s = .next s ∧ exec (.drain ch) s = .next s ∧
      exec .lfence s = .next (s.setHere { s.here with epoch := Sp.put 0 s.here.epoch s.cur.slot (Sp.get 0 s.here.epoch s.cur.slot + 1) }) ∧
      exec (.fmtset val) s =
        .next (s.lands [{ s.lander 3 .fmt ((val &&& 0x0f303f3f).setWidth 1024) (BitVec.ofNat 1024 (2 ^ 32 - 1)) 0 with slot := false }]) ∧
      exec .knot s = .next (s.setMe { c with hold := [], iss := { c.iss with knot := true } }) ∧
      exec .halt s = .next (s.setMe { c with hold := [], iss := { c.iss with halted := true } }) ∧
      (c.grp = some g → g.bundles[g.idx]? = some e →
        exec .yield s = .next (after .yield) ∧ exec (.tsys code) s = .next (after (.tsys code)) ∧ exec (.brk code) s = .next (after (.brk code)))) ∧
  -- R230: `qfence` puts the context's operations in progress of the named queues before every later one of the named queues.
  (∀ (s : State) (mask : BitVec 7),
      let c := s.me
      let named (d : Cmd) : Bool := match d.op with
        | .plQ _ => mask.getLsbD 5
        | .clRun _ | .clArm _ | .mlr _ => mask.getLsbD 6
        | _ => mask.getLsbD d.ch
      ∃ t ids, exec (.qfence mask) s = .next t ∧
        (∀ x, x ∈ ids ↔ (∃ d ∈ s.cmds, d.id = x ∧ d.core = s.cur.core ∧ d.slot = s.cur.slot ∧ d.done = false ∧ named d = true) ∨
          (mask.getLsbD 4 = true ∧ ∃ e ∈ c.matrix.queue, e.id = x)) ∧
        (∀ n, n < 4 → (Sp.get Chan.reset t.me.chan n).fence = (Sp.get Chan.reset c.chan n).fence ++ if mask.getLsbD n then ids else []) ∧
        t.me.fenceMx = c.fenceMx ++ (if mask.getLsbD 4 then ids else []) ∧ t.me.fencePl = c.fencePl ++ (if mask.getLsbD 5 then ids else []) ∧
        t.me.fenceCl = c.fenceCl ++ (if mask.getLsbD 6 then ids else []) ∧ t.me.regs = c.regs ∧ t.me.iss = c.iss ∧ t.me.landing = c.landing)
/-- R116, R233-R237, R239-R241: every operation of a synchronisation engine goes to the die of its handle (`se.alloc` to its own die's) with its operands as read at its tick;
one that returns holds its landing slot until the reply is there; one that waits names the wait. -/
def Obligations.EngineOperationsAreSent : Prop :=
  ∀ (i : Instr) (o : SeOp) (s : State), seOp i = some o →
    let die := if isAlloc i then coreDie s.cur.core else (s.s o.h).toNat / 2 ^ 56 % 4
    ∃ t, exec i s = .next t ∧ Sends s t i die (s.s o.h) (s.s o.b) (s.s o.c) ∧ t.fresh = s.fresh + 1 ∧ t.me.regs = s.me.regs ∧
      t.me.landing = s.me.landing ++
        (if seReturns i then [⟨s.tick + o.land.toNat, .s o.d.toNat, 0, allOnes, 0, true, false, s.fresh⟩] else []) ∧
      t.me.iss = (if seWaits i then { s.me.iss with grant := some s.fresh } else s.me.iss) ∧
      t.me.matrix = s.me.matrix ∧ KeepsOthers s t ∧ KeepsCores s t ∧ KeepsMemory s t ∧ t.dies = s.dies ∧ t.parts = s.parts
/-- R232, R234, R235, R237, R239-R241: what an engine does to a variable, in its SRAM or in its overflow area in memory, and to its waiters. -/
def Obligations.EngineVariablesAndBarriers : Prop :=
  -- R232, R234, R235, R237, R239-R241: an operation that the engine does not refuse is performed whole, on the variable that its handle names: variable k of
  -- the engine's SRAM, or the 16 bytes at base + 16 k of the partition's overflow area (d: where stage two puts them). Every other variable and byte stays.
  (∀ (s : State) (q : SeReq) (o : SeOp) (d : Nat),
      let part := q.place.part
      let die := q.handle.toNat / 2 ^ 56 % 4
      let k := q.handle.toNat % 2 ^ 40
      let memory := q.handle.getLsbD 63
      let a := (overflowArea (s.part part).cfg die).1 + 16 * k
      let entry := (s.part part).cfg.s2base + 8 * (a / 65536)
      let value (t : State) : BitVec 128 := if memory then BitVec.ofNat 128 (ofBytesLE (t.mem.readN d 16)) else Sp.get 0 (t.die die).se.vars k
      let key := if memory then 2 ^ 40 + k else k
      let waiters (t : State) := (t.die die).se.waiters
      let old := value s
      let y := q.y
      let done (t : State) (v : BitVec 128) (reply : Option Word64) : Prop := exec (.seOperationPerform q.id) s = .next t ∧ value t = v ∧
        (∀ j, memory = true ∨ j ≠ k → Sp.get 0 (t.die die).se.vars j = Sp.get 0 (s.die die).se.vars j) ∧
        (∀ b, memory = false ∨ b < d ∨ d + 16 ≤ b → t.mem.read b = s.mem.read b) ∧ (∀ n, n ≠ die → t.die n = s.die n) ∧ KeepsContexts s t ∧
        (∀ x, reply = some x → ∀ r ∈ t.seReqs, r.id = q.id → r.performed = true ∧ r.reply = x) ∧
        (reply = none → ∀ r ∈ t.seReqs, r.id ≠ q.id)
      let waits (t : State) (w : Waiter) : Prop := waiters t = waiters s ++ [w]
      let granted (t : State) (id : Nat) : Prop := Scheduled t (.seGrantArrival id) []
      s.seReqs.find? (fun r => r.id = q.id && !r.performed) = some q → s.seRefusal q part = none → q.die = die →
      (memory = true → s.phys part a = some d ∧ d % 16 = 0 ∧ (d + 16 ≤ entry ∨ entry + 8 ≤ d)) →
      -- R235: the data operations: the named word takes the new value, the other stays, and what returns is the old word.
      (let x : Word64 := if o.wd then old.extractLsb' 64 64 else old.extractLsb' 0 64
       let becomes (v : Word64) (ret : Bool) : Prop := ∃ t, waiters t = waiters s ∧
         done t (if o.wd then v ++ old.extractLsb' 0 64 else old.extractLsb' 64 64 ++ v) (if ret then some x else none)
       (q.op = .seLd o → becomes x true) ∧ (q.op = .seSt o → becomes y false) ∧ (q.op = .seAdd o → becomes (x + y) true) ∧
       (q.op = .seMin o → becomes (if y.toInt < x.toInt then y else x) true) ∧ (q.op = .seMax o → becomes (if x.toInt < y.toInt then y else x) true) ∧
       (q.op = .seAnd o → becomes (x &&& y) true) ∧ (q.op = .seOr o → becomes (x ||| y) true) ∧ (q.op = .seXor o → becomes (x ^^^ y) true) ∧
       (q.op = .seSwap o → becomes y true) ∧ (q.op = .seCas o → becomes (if x = q.z then y else x) true)) ∧
      -- R239, R240: an arrival changes the barrier as below, and one that completes a phase releases the awaiters whose phases are now complete, no others.
      (q.op = .seArrive o → ∃ t, done t (barrier old y).1 (some (barrier old y).2.1) ∧ ∀ w ∈ waiters s,
        let late := ((barrier old y).1.toNat % 2 ^ 8 + 256 - w.tag) % 256
        let freed : Prop := (barrier old y).2.2 = true ∧ w.key = key ∧ w.units = none ∧ 1 ≤ late ∧ late ≤ 128
        (freed → w ∉ waiters t ∧ granted t w.id) ∧ (¬freed → w ∈ waiters t)) ∧
      -- R240: `se.await` is granted at once when its phase is complete, else it waits, last in the list.
      (q.op = .seAwait o → ∃ t, done t old none ∧
        let late := (old.toNat % 2 ^ 8 + 256 - y.toNat % 2 ^ 8) % 256
        (1 ≤ late ∧ late ≤ 128 → waiters t = waiters s ∧ granted t q.id) ∧
        (late = 0 ∨ 128 < late → waits t ⟨q.id, q.core, q.slot, key, y.toNat % 2 ^ 8, none⟩)) ∧
      -- R241: `se.semdown` takes its units when they are there and no earlier request waits, else it waits; `se.semup` adds units and grants from the front.
      (let count (v : BitVec 128) : Nat := v.toNat % 2 ^ 64
       let first := (waiters s).filter fun w => w.key = key && w.units.isSome
       let total := (count old + y.toNat) % 2 ^ 64
       let units (n : Nat) : Nat := ((first.take n).map fun w => w.units.getD 0).sum
       (q.op = .seSemdown o → y.toNat ≤ count old → first = [] → ∃ t v, done t v none ∧ count v = count old - y.toNat ∧
         v.toNat / 2 ^ 64 = old.toNat / 2 ^ 64 ∧ waiters t = waiters s ∧ granted t q.id) ∧
       (q.op = .seSemdown o → count old < y.toNat ∨ first ≠ [] → ∃ t, done t old none ∧ waits t ⟨q.id, q.core, q.slot, key, 0, some y.toNat⟩) ∧
       (q.op = .seSemup o → ∃ t v n, done t v none ∧ n ≤ first.length ∧ units n ≤ total ∧ count v = total - units n ∧
         v.toNat / 2 ^ 64 = old.toNat / 2 ^ 64 ∧ (∀ w, first[n]? = some w → total - units n < w.units.getD 0) ∧
         (∀ w ∈ first.take n, w ∉ waiters t ∧ granted t w.id) ∧ ∀ w ∈ waiters s, w ∉ first.take n → w ∈ waiters t)) ∧
      -- R234: `se.free` of a variable that was handed out returns it to the pool, once it has no waiters; of a memory handle it does nothing.
      (q.op = .seFree o → ∃ t, done t old none ∧ waiters t = waiters s ∧
        (memory = true → (t.die die).se = (s.die die).se) ∧
        (memory = false → k ∈ (s.die die).se.used → (∀ w ∈ waiters s, w.key ≠ k) → k ∉ (t.die die).se.used) ∧
        (memory = false → k ∈ (s.die die).se.used → (∃ w ∈ waiters s, w.key = k) → k ∈ (t.die die).se.used ∧ k ∈ (t.die die).se.freeing))) ∧
  -- R234: `se.alloc` hands out a free variable of the engine, with both words 0, or answers all ones when there is none.
  (∀ (s : State) (q : SeReq) (o : SeOp),
      let e := (s.die q.die).se
      let free (i : Nat) : Prop := i < 786432 ∧ i ∉ e.used ∧ i ∉ e.lost
      let replied (t : State) (x : Word64) : Prop := ∀ r ∈ t.seReqs, r.id = q.id → r.performed = true ∧ r.reply = x
      s.seReqs.find? (fun r => r.id = q.id && !r.performed) = some q → q.op = .seAlloc o →
      ((∃ i, free i) → ∃ t i, exec (.seOperationPerform q.id) s = .next t ∧ free i ∧ replied t (BitVec.ofNat 64 (q.die * 2 ^ 56 + i)) ∧
        (t.die q.die).se.used = i :: e.used ∧ Sp.get 0 (t.die q.die).se.vars i = 0 ∧
        (∀ j, j ≠ i → Sp.get 0 (t.die q.die).se.vars j = Sp.get 0 e.vars j) ∧ KeepsContexts s t ∧ t.mem = s.mem) ∧
      ((∀ i, ¬free i) → ∃ t, exec (.seOperationPerform q.id) s = .next t ∧ replied t (BitVec.allOnes 64) ∧ (t.die q.die).se = e ∧ t.mem = s.mem)) ∧
  -- R239: arriving at a barrier: at its phase the count rises, or with the last arrival the phase advances and the count is 0; one phase
  -- late, the overdue count rises and saturates; another tag changes nothing; the reply carries count, phase and status.
  (∀ (v : BitVec 128) (y : Word64),
      let tag := y.toNat % 2 ^ 8
      let phase := v.toNat % 2 ^ 8
      let ovf := v.toNat / 2 ^ 16 % 2 ^ 16
      let arrived := v.toNat / 2 ^ 64 % 2 ^ 32
      let target := v.toNat / 2 ^ 96
      let w := (barrier v y).1.toNat
      (barrier v y).2.1.toNat = (w / 2 ^ 64 % 2 ^ 32) * 2 ^ 32 + w % 2 ^ 8 * 2 ^ 16 +
        (if tag = phase then (if target ≤ arrived + 1 then 1 else 0) else if tag = (phase + 255) % 256 then 2 else 3) ∧
      (barrier v y).2.2 = (decide (tag = phase) && decide (target ≤ arrived + 1)) ∧ w / 2 ^ 96 = target ∧
      (tag = phase → target ≤ arrived + 1 → w % 2 ^ 8 = (phase + 1) % 256 ∧ w / 2 ^ 64 % 2 ^ 32 = 0 ∧ w / 2 ^ 16 % 2 ^ 16 = ovf) ∧
      (tag = phase → arrived + 1 < target → w % 2 ^ 8 = phase ∧ w / 2 ^ 64 % 2 ^ 32 = arrived + 1 ∧ w / 2 ^ 16 % 2 ^ 16 = ovf) ∧
      (tag = (phase + 255) % 256 → w % 2 ^ 8 = phase ∧ w / 2 ^ 64 % 2 ^ 32 = arrived ∧ w / 2 ^ 16 % 2 ^ 16 = min (ovf + 1) 65535) ∧
      (tag ≠ phase → tag ≠ (phase + 255) % 256 → (barrier v y).1 = v))
/-- R33, R116, R236, R240, R241: a reply that arrives fills its waiting result, which lands when due; a grant that arrives ends the wait that it names. -/
def Obligations.RepliesAndGrantsArrive : Prop :=
  (∀ (s : State) (q : SeReq), s.seReqs.find? (fun r => r.id = q.id && r.performed) = some q →
    let k := ck q.core q.slot
    ∃ t, exec (.resultArrival q.id) s = .next t ∧ (∀ r ∈ t.seReqs, r.id ≠ q.id) ∧ (t.ctx k).regs = (s.ctx k).regs ∧
      (∀ (n : Nat) (e : Result), (s.ctx k).landing[n]? = some e → ∃ d, (t.ctx k).landing[n]? = some d ∧ d.due = e.due ∧ d.dest = e.dest ∧
        (e.id = q.id → e.arrived = false → d.arrived = true ∧ d.val = q.reply.setWidth 1024) ∧ (e.id ≠ q.id ∨ e.arrived = true → d = e)) ∧
      (∀ j, j ≠ k → t.ctx j = s.ctx j) ∧ KeepsMemory s t) ∧
  ∀ (s : State) (op k : Nat), s.waiting op = some k →
    ∃ t, exec (.seGrantArrival op) s = .next t ∧ (t.ctx k).iss = { (s.ctx k).iss with grant := none } ∧ (t.ctx k).regs = (s.ctx k).regs ∧
      (∀ j, j ≠ k → t.ctx j = s.ctx j) ∧ KeepsMemory s t

/-! Copy engine, layout units, posting-list engines. -/

/-- R54, R56, R203, R204, R206-R213, R349: `cp.in`, `cp.out`, `cp.acc`, `cp.gat`, `cp.sca`, `cp.sl` and `cp.rep` complete for every operand: each captures at
its tick its descriptor, box record, cursor, links and source rows and joins the commands in flight; its rows are guarded; one that its descriptor or
box forbids is recorded and writes ones to its destination rows instead. -/
def Obligations.CopyTransfersAreIssued : Prop :=
  ∀ (s : State) (o : CopyOp) (i : Instr), i ∈ [.cpIn o, .cpOut o, .cpAcc o, .cpGat o, .cpSca o, .cpSl o, .cpRep o] →
    let p := s.planTransfer i o
    let g (n : Nat) := s.me.regs.ringOf n
    let first := if o.pm then s.a o.an else s.a o.an + BitVec.ofInt 32 o.off.toInt
    let ringRows := (p.ring.map Prod.snd).getD 0
    (∃ t, exec i s = .next t) ∧
    (∀ (j a : Nat), (p.src ++ p.dest)[j]? = some a → a = (first.toNat + j) % 2 ^ 32) ∧
    (∀ ring n, p.ring = some (ring, n) → ring = o.ring.toNat ∧ p.dest = []) ∧
    (p.err = none → ∃ t c, exec i s = .next t ∧ Issues s t i o.ch.toNat c ∧ c.beats = p.beats ∧ c.td = s.tdSlot o.td.toNat ∧
      c.box = halfOf (s.snapRow (s.rowAt o.ab o.boff.toNat)) o.bh ∧ c.box2 = halfOf (s.snapRow (s.rowAt o.ab o.boff.toNat)) (!o.bh) ∧
      c.cursor = (c.td.map dCursor).getD 0 ∧ c.li.take 6 = s.linkOffsets c.box ∧ c.src = p.src.map s.snapRow ∧ (p.ring = none → c.dest = p.dest) ∧
      (∀ ring n, p.ring = some (ring, n) → c.dest = (List.range n).map (fun j => ringRow (g ring) ((ringResv (g ring) + j) % 4096)) ∧
        ringResv (t.me.regs.ringOf ring) = (ringResv (g ring) + n) % 4096) ∧
      (∀ r ∈ p.src ++ p.idx, Guards s t r false) ∧ (∀ r ∈ c.dest, Guards s t r true) ∧
      ∃ rs, t.me.landing = s.me.landing ++ rs ∧ ∀ r ∈ rs, (r.dest = .a o.an.toNat ∧ o.pm = true ∧ o.rg = false) ∨ r.dest = .cursor o.td.toNat) ∧
    ∀ sub info aux, p.err = some (sub, info, aux) → ∃ t, exec i s = .next t ∧ (Sp.get Chan.reset t.me.chan o.ch.toNat).free = s.now + p.beats ∧
      (∀ j, j < p.dest.length + ringRows → Scheduled t (.copyRowWrite s.fresh j) []) ∧ t.accesses = s.accesses ∧
      ((s.die (coreDie s.cur.core)).faults.length < 1024 → s.cur.core < 2304 → s.cur.slot < 4 →
        ∃ f ∈ (t.die (coreDie s.cur.core)).faults, fldN (f.words.getD 0 0) 56 8 = 0x15 ∧ fldN (f.words.getD 0 0) 48 8 = sub % 256 ∧ f.parked = false)
/-- R54, R203, R207, R213-R216, R224, R246, R251, R272, R274, R346, R349: `cp.desc`, `cp.cur` in its three modes, `cp.xf`, `rcast`, `pl.q`, `cl.run`, `cl.arm`
and `mlr` complete for every operand: each captures at its tick what it names, guards its rows and joins the commands in flight; one that its descriptor
slot or box forbids is recorded, keeps its channel busy for one beat, and writes ones where it has a row to write. -/
def Obligations.CopyCommandsAreIssued : Prop :=
  ∀ (s : State) (ch : BitVec 2) (td an : BitVec 4) (pm h : Bool) (off : BitVec 10) (sa : BitVec 6) (x : XformOp) (r : RcastOp) (u : CollOp) (q : QueryOp),
    let row := if pm then (s.a an).toNat else (s.a an + BitVec.ofInt 32 off.toInt).toNat
    let die := coreDie s.cur.core
    let issues (i : Instr) (ch : Nat) (more : State → Cmd → Prop) : Prop := ∃ t c, exec i s = .next t ∧ Issues s t i ch c ∧ more t c
    let refused (t : State) (ch sub : Nat) : Prop := (Sp.get Chan.reset t.me.chan ch).free = s.now + 1 ∧
      ((s.die die).faults.length < 1024 → s.cur.core < 2304 → s.cur.slot < 4 →
        ∃ f ∈ (t.die die).faults, fldN (f.words.getD 0 0) 56 8 = 0x15 ∧ fldN (f.words.getD 0 0) 48 8 = sub % 256 ∧ f.parked = false)
    let cursor (v : Word64) : Result := { s.lander 1 (.cursor td.toNat) (v.setWidth 1024) allOnes 0 with slot := false }
    let save : Instr := .cpCurSave ch td an pm off h
    let submits (i : Instr) : Prop := issues i u.ch.toNat fun t c => c.beats = 1 ∧ c.dest = [s.rowAt u.as u.soff.toNat] ∧
      Guards s t (s.rowAt u.ar u.roff.toNat) false ∧ Guards s t (s.rowAt u.as u.soff.toNat) true ∧
      ∃ m comm, (t.cle (coreDie s.cur.core) comm).subs = (s.cle (coreDie s.cur.core) comm).subs ++ [m] ∧ m.cmd = s.fresh ∧ m.kind = i ∧
        m.record.length = 16 ∧ comm = (m.record.getD 0 0).toNat / 2 ^ 58 ∧
        ∀ k, k < 16 → m.record[k]? = some (rowWord (s.snapRow (s.rowAt u.ar u.roff.toNat)) k)
    (∀ i ∈ [.cpDesc ch td an pm off h, .cpCurSet ch td sa, save, .cpCurStatus ch an pm off h, .cpXf x, .rcast r, .plQ q, .clRun u, .clArm u, .mlr u],
      ∃ t, exec i s = .next t) ∧
    issues (.cpDesc ch td an pm off h) ch.toNat (fun t c => c.beats = 1 ∧ Guards s t row false ∧
      { s.lander 1 (.td td.toNat) ((halfOf (s.snapRow row) h).setWidth 1024) allOnes 0 with slot := false } ∈ t.me.landing) ∧
    (s.slotErr (.cpCurSet ch td sa) td.toNat = none →
      issues (.cpCurSet ch td sa) ch.toNat (fun t c => c.beats = 1 ∧ t.me.landing = s.me.landing ++ [cursor (s.s sa)])) ∧
    (∀ e, s.slotErr (.cpCurSet ch td sa) td.toNat = some e → ∃ t, exec (.cpCurSet ch td sa) s = .next t ∧ t.cmds = s.cmds ∧
      t.me.landing = s.me.landing ∧ refused t ch.toNat e.1) ∧
    (s.slotErr save td.toNat = none →
      issues save ch.toNat (fun t c => c.beats = 1 ∧ c.dest = [row] ∧ c.td = s.tdSlot td.toNat ∧ Guards s t row true)) ∧
    (∀ e, s.slotErr save td.toNat = some e → ∃ t, exec save s = .next t ∧ refused t ch.toNat e.1 ∧
      (noRows (s.tdSlot td.toNat) = true → t.cmds = s.cmds ∧ t.here.guards = s.here.guards) ∧
      (noRows (s.tdSlot td.toNat) = false → Guards s t row true ∧ Scheduled t (.copyRowWrite s.fresh 0) [] ∧
        ∃ c ∈ t.cmds, c.id = s.fresh ∧ c.dest = [row] ∧ c.bad = [0])) ∧
    (s.tdSlot td.toNat = none → ∃ info aux, s.slotErr (.cpCurSet ch td sa) td.toNat = some (0, info, aux) ∧ s.slotErr save td.toNat = some (0, info, aux)) ∧
    issues (.cpCurStatus ch an pm off h) ch.toNat (fun t c => c.beats = 1 ∧ c.dest = [row] ∧ Guards s t row true) ∧
    issues (.cpXf x) x.ch.toNat (fun t c => c.beats = x.icnt.toNat + 1 ∧ c.arg = s.s x.sa ∧ c.dest.length = x.ocnt.toNat + 1 ∧
      c.src.length = x.icnt.toNat + 1 ∧ (∀ r ∈ c.dest, Guards s t r true) ∧ t.here.xforms = s.here.xforms ++ [s.fresh]) ∧
    (let b := halfOf (s.snapRow (s.rowAt r.ab r.boff.toNat)) r.bh
      let err := descErr (.rcast r) r.td.toNat 0 (s.tdSlot r.td.toNat) none b b (s.rowAt r.ab r.boff.toNat) (!r.all)
      (err = none → issues (.rcast r) r.ch.toNat (fun _ c => c.beats = 1 ∧ c.td = s.tdSlot r.td.toNat ∧ c.box = b)) ∧
      ∀ e, err = some e → ∃ t, exec (.rcast r) s = .next t ∧ t.cmds = s.cmds ∧ refused t r.ch.toNat e.1) ∧
    submits (.clRun u) ∧ submits (.clArm u) ∧ submits (.mlr u) ∧
    issues (.plQ q) q.ch.toNat (fun t c => c.beats = 1 ∧ c.dest = (s.queryRows q).2.2 ∧ (∀ n ∈ (s.queryRows q).2.2, Guards s t n true) ∧
      (∀ n ∈ (s.queryRows q).1 ++ (s.queryRows q).2.1, Guards s t n false) ∧
      ∃ e, t.ple (corePle s.cur.core) = s.ple (corePle s.cur.core) ++ [e] ∧ e.cmd = s.fresh ∧ e.rows = (s.queryRows q).1.map s.snapRow ∧
        e.cands = (s.queryRows q).2.1.map s.snapRow ∧ e.taken = false ∧ s.now < e.at_)
/-- R53, R54, R56, R203, R207, R211, R214, R223, R336, R346: a beat of a command sends its data row's pieces, none while its context is frozen, unless its
group is being ended (R336; log 33, the model's deduction); of an indexed command, the box row of an index out of range is filled or skipped, and counted;
a row write comes in the order that `lfence` makes, whole, or one half for `cp.cur`, or ones when it was refused, and clears its guard; the counts of a
channel are 0 after its status row; the collector changes nothing but memory. -/
def Obligations.CopyRequestsAndRowWrites : Prop :=
  (∀ (s : State) (cmd : Nat), ∃ t, exec (.copyRequest cmd) s = .next t) ∧ (∀ (s : State) (cmd j : Nat), ∃ t, exec (.copyRowWrite cmd j) s = .next t) ∧
  (∀ (s : State) (c : Cmd), s.cmd c.id = some c → c.sent < c.beats →
    let x := s.ctx (ck c.core c.slot)
    let stands : Prop := x.iss.freeze.isSome = true ∧ ∀ g, s.gang x = some g → g.ending = none
    let counts (t : State) (skip fills : Nat) : Prop :=
      let chan := Sp.get Chan.reset (t.ctx (ck c.core c.slot)).chan c.ch
      chan.skip = skip ∧ chan.fills = fills
    (stands → exec (.copyRequest c.id) s = .next (s.later 1 (.copyRequest c.id) [])) ∧
    (¬stands → ∀ o d, c.op = .cpOut o → c.td = some d → c.sent < c.src.length →
      ∃ t as, exec (.copyRequest c.id) s = .next t ∧ t.accesses = s.accesses ++ as ∧
        as.map (fun a => (a.tile, a.elems, a.kind, a.td)) = (piecesOf (((c.elems d c.sent).getD []).map fun x =>
          { x with elem := { x.elem with val := laneN (c.src.getD c.sent 0) (cmdWidth c.op d) x.elem.lane } })).map
            (fun p => (p.tile, p.elems, .write, d)) ∧
        (∀ a ∈ as, a.cmd = c.id ∧ Scheduled t (.luAccess a.id) []) ∧ KeepsMemory s t ∧ KeepsContexts s t) ∧
    -- R205, R211: a gather and a scatter by an index list: n is the box row, its first data row counts.
    (¬stands → ∀ o d, c.td = some d →
      let w := (dFmt d).width
      let rows := max 1 (rowsPerBox d c.box w)
      let n := c.sent / rows
      let chan := Sp.get Chan.reset x.chan c.ch
      let at_ := c.idx.getD (boxIndex d c.box n (bGdim c.box)) 0
      let inside : Prop := at_ < dDim d (bGdim c.box)
      let elems := rowElems d c.box c.li (some (bGdim c.box, at_)) w n (c.sent % rows)
      (c.op = .cpGat o → c.sent < c.dest.length → inside → ∃ t as, exec (.copyRequest c.id) s = .next t ∧ t.accesses = s.accesses ++ as ∧
        as.map (fun a => (a.tile, a.elems, a.kind)) = (piecesOf elems).map (fun p => (p.tile, p.elems, .read)) ∧ counts t chan.skip chan.fills) ∧
      (c.op = .cpGat o → c.sent < c.dest.length → c.written.length < c.dest.length → ¬inside → ∃ t e, exec (.copyRequest c.id) s = .next t ∧ t.accesses = s.accesses ∧ t.cmd c.id = some e ∧
        (∀ i, i < 1024 / w → laneN (e.row c.sent) w i = if i < (rowSpan d c.box w (c.sent % rows)).2 then bFill c.box % 2 ^ w else 0) ∧
        counts t chan.skip (if c.sent % rows = 0 then min (2 ^ 32 - 1) (chan.fills + 1) else chan.fills)) ∧
      (c.op = .cpSca o → c.sent < c.src.length → inside → ∃ t as, exec (.copyRequest c.id) s = .next t ∧ t.accesses = s.accesses ++ as ∧
        as.map (fun a => (a.tile, a.elems, a.kind)) = (piecesOf (elems.map fun x =>
          { x with elem := { x.elem with val := laneN (c.src.getD c.sent 0) w x.elem.lane } })).map (fun p => (p.tile, p.elems, .write)) ∧
        counts t chan.skip chan.fills) ∧
      (c.op = .cpSca o → c.sent < c.src.length → ¬inside → ∃ t, exec (.copyRequest c.id) s = .next t ∧ t.accesses = s.accesses ∧ KeepsMemory s t ∧
        counts t (if c.sent % rows = 0 then min 65535 (chan.skip + 1) else chan.skip) chan.fills)) ∧
    (¬stands → ∀ h ch an pm off, c.op = .cpCurStatus ch an pm off h → s.channelClear c = true →
      ∃ t, exec (.copyRequest c.id) s = .next t ∧ Scheduled t (.copyRowWrite c.id 0) [])) ∧
  (∀ (s : State) (c : Cmd) (j a : Nat), s.cmd c.id = some c → c.dest[j]? = some a → c.written.contains j = false →
    let chan := Sp.get Chan.reset (s.ctx (ck c.core c.slot)).chan c.ch
    ∃ t val mask, exec (.copyRowWrite c.id j) s = .next t ∧ WrittenInOrder (s.core c.core) (t.core c.core) ⟨c.slot, c.tick, a, val, mask, c.epoch, .engine⟩ ∧
      (c.bad.contains j = true → val = allOnes ∧ mask = allOnes) ∧
      (c.bad.contains j = false → (∀ ch td an pm off h, c.op ≠ .cpCurSave ch td an pm off h) → (∀ ch an pm off h, c.op ≠ .cpCurStatus ch an pm off h) →
        val = c.row j ∧ mask = allOnes) ∧
      (∀ ch td an pm off h, c.bad.contains j = false → c.op = .cpCurSave ch td an pm off h →
        halfOf val h = c.td.getD 0 ∧ halfOf mask h = BitVec.allOnes 512 ∧ halfOf mask (!h) = 0) ∧
      (∀ ch an pm off h, c.bad.contains j = false → c.op = .cpCurStatus ch an pm off h →
        halfOf val h = BitVec.ofNat 512 ((chan.skip * 2 ^ 32 + chan.fills) % 2 ^ 64) ∧ halfOf mask h = BitVec.ofNat 512 (2 ^ 64 - 1) ∧ halfOf mask (!h) = 0 ∧
        Sp.get Chan.reset (t.ctx (ck c.core c.slot)).chan c.ch = { chan with skip := 0, fills := 0 }) ∧
      ((∀ ch an pm off h, c.op ≠ .cpCurStatus ch an pm off h) → (t.ctx (ck c.core c.slot)).chan = (s.ctx (ck c.core c.slot)).chan) ∧
      (∀ g ∈ (t.core c.core).guards, ¬(g.row = a ∧ g.cause = c.id ∧ g.pend = true)) ∧
      (∀ n, n ≠ c.core → t.core n = s.core n) ∧ (∀ k, k ≠ ck c.core c.slot → t.ctx k = s.ctx k) ∧ KeepsMemory s t ∧
      (∀ ring first, c.ring = some (ring, first) → ∀ o ∈ (t.ctx (ck c.core c.slot)).owed, o ≠ (ring, (first + j) % 4096))) ∧
  ∀ (s : State) (part : Nat) (td : BitVec 512), ∃ t, exec (.collector part td) s = .next t ∧ KeepsContexts s t ∧ KeepsCores s t ∧ t.dies = s.dies ∧
    t.cmds = s.cmds ∧ t.accesses = s.accesses ∧ t.fabric = s.fabric ∧ ((∀ r, s.region part td ≠ .ok r) → t.mem = s.mem)
/-- R224-R226, R345, R355: the transform core runs the `cp.xf` commands of its core in turn; a call finds the registers, the stack, the rows and the argument
as the calling convention says, and the rest of its memory cleared; a routine that returns 0 has its output rows written, one that returns another value
or traps is recorded and has ones written. How many instructions a cycle takes is the model's choice (log 8). -/
def Obligations.TransformRoutinesRun : Prop :=
  (∀ (code : List Byte) (entry ret ocnt : Nat) (input : List Row) (arg : Word64),
    let r := Rv.call code entry ret input ocnt arg
    r.pc = entry ∧ r.xr 1 = ret % 2 ^ 64 ∧ r.xr 2 = 0x2000 ∧ r.xr 10 = 0x2000 ∧ r.xr 11 = input.length % 2 ^ 64 ∧ r.xr 12 = 0x5000 ∧
    r.xr 13 = ocnt % 2 ^ 64 ∧ r.xr 14 = arg.toNat ∧ (∀ n, n ∉ [1, 2, 10, 11, 12, 13, 14] → r.xr n = 0) ∧ (∀ n, r.fr n = 0) ∧
    r.frm = 0 ∧ r.fflags = 0 ∧ r.vstart = 0 ∧ r.vl = 0 ∧ r.vtype = 0 ∧
    (∀ a, a < 0x1000 → r.byteAt a = code.getD a 0) ∧ (∀ a, 0x1000 ≤ a → a < 0x2000 → r.byteAt a = 0) ∧
    (∀ n i, n < 96 → i < 128 → (r.byteAt (0x2000 + 128 * n + i)).toNat = laneN (input.getD n 0) 8 i) ∧ ∀ a, 0x5000 ≤ a → a < 0x8000 → r.byteAt a = 0) ∧
  (∀ (ret n : Nat) (r : Rv), (r.pc = ret → r.run ret (n + 1) = .returned r (BitVec.ofNat 64 (r.xr 10))) ∧
    (r.pc ≠ ret → ∀ t, r.step = .inl t → r.run ret (n + 1) = t.run ret n) ∧ (r.pc ≠ ret → ∀ c, r.step = .inr c → r.run ret (n + 1) = .trapped c r.pc)) ∧
  ∀ (s : State) (core : Nat) (c : Cmd) (o : XformOp) (rest : List Nat), (s.core core).xforms = c.id :: rest → s.cmd c.id = some c → c.op = .cpXf o →
    c.beats ≤ c.sent →
    let x := s.control
    let ends := ((s.core core).rv.getD (Rv.call x.xcode (x.xtable.getD o.rt.toNat 0) x.xreturn c.src c.dest.length c.arg)).run x.xreturn 4096
    ∃ t, exec (.xformRun core) s = .next t ∧ KeepsContexts s t ∧
      let ended (bad : List Nat) : Prop := (t.core core).xforms = rest ∧ (t.core core).rv = none ∧ (∀ j, j < c.dest.length → Scheduled t (.copyRowWrite c.id j) []) ∧
        ∃ d, t.cmd c.id = some d ∧ d.bad = bad ∧ ∀ r, ends = .returned r 0 → ∀ j, j < c.dest.length → ∀ i, i < 128 →
          laneN (d.row j) 8 i = (r.byteAt (0x5000 + 128 * j + i)).toNat
      let records (sub : Nat) (info aux : Word64) : Prop := (s.die (coreDie core)).faults.length < 1024 → core < 2304 → c.slot < 4 →
        ∃ f ∈ (t.die (coreDie core)).faults, fldN (f.words.getD 0 0) 48 16 = 0x1c00 + sub ∧ f.words.getD 3 0 = info ∧ f.words.getD 4 0 = aux ∧ f.parked = false
      (∀ r, ends = .running r → (t.core core).rv = some r ∧ (t.core core).xforms = c.id :: rest ∧ ⟨s.now + 1, .event (.xformRun core), []⟩ ∈ t.pending) ∧
      (∀ r, ends = .returned r 0 → ended []) ∧
      (∀ r a0, ends = .returned r a0 → a0 ≠ 0 → ended (List.range c.dest.length) ∧ records 1 a0 0) ∧
      ∀ cause pc, ends = .trapped cause pc → ended (List.range c.dest.length) ∧ records 0 (BitVec.ofNat 64 cause) (BitVec.ofNat 64 pc)
/-- R62-R65, R67-R72, R75, R78-R80, R209, R210, R217, R219-R222, R340-R346, R350: an access that nothing holds back is translated by the tables and judged by
roles: a write stores its elements and no other byte, a read brings its elements into the command's row, a streamed read also advances the tile's floor,
an add adds each contribution's units, a compressed tensor's elements go through the codec, and the request for a tile of another chip leaves for it; an
entry that is not valid parks it under a record; one that its tile's role or a coordinate forbids is refused with a record, for which it waits while
the buffer is full; a seal, a move, a full park or an earlier recast of its channel holds it. (In which order accesses of one channel to one tile are
performed is log 79, when an old translation stays log 5.) -/
def Obligations.AccessesReadAndWriteTiles : Prop :=
  (∀ (s : State) (acc : Nat), ∃ t, exec (.luAccess acc) s = .next t) ∧
  -- R220-R222: what the codec stores, it reads: whole granules, 129 at most.
  (∀ b : List Byte, b.length = 4096 → decodeBlock (encodeBlock b) = some b ∧ (encodeBlock b).length % 32 = 0 ∧ (encodeBlock b).length ≤ 129 * 32) ∧
  -- R346, R350: a tile of role A is poisoned in its entry, and one of another role is not.
  (∀ (s : State) (part : Nat) (d : Desc) (tile p a : Nat) (e : Word64), s.entryPlace part d tile = some (p, a) → s.readPart p a = some e →
    (s.poison part d tile).mem = (s.writePart p a (if eRole e = roleA then setFld e 59 1 1 else e)).mem) ∧
  ∀ (s : State) (a : Access), s.accesses.find? (fun b => b.id = a.id) = some a → a.parked = none ∨ a.parked = some 0 → a.sentAt = none →
    let f := dFmt a.td
    let h := dHandle a.td
    let part := a.who.part
    let held : Prop := s.awaitsRecast a = true ∨ (a.accepted = false ∧ (s.sealedAt a.lu h a.tile = true ∨ s.parkFull a.lu = true)) ∨
      ((a.accepted = false ∨ a.replayed = true) ∧ s.movingAt h a.tile = true)
    let free : Prop := a.extent = none ∧ ¬held ∧ s.accesses.find? (s.behind a) = none ∧ s.cached a.lu h a.tile = none ∧ s.leftTo a.cmd h a.tile = none
    let good (e : Word64) (frame : Nat) : Prop := free ∧ s.walk part a.td a.tile = .ok e frame ∧ judge a.td a.tile a.kind a.who.gang a.elems e = none
    let room : Prop := (s.die (luDie a.lu)).faults.length + a.elems.length < 1024
    let named : Prop := a.who.core < 2304 ∧ a.who.slot < 4 ∧ a.who.ch < 4 ∧ a.who.unit < 16
    let records (t : State) (code sub : Nat) : Prop := ∃ r ∈ (t.die (luDie a.lu)).faults, fldN (r.words.getD 0 0) 48 16 = (code * 256 + sub) % 2 ^ 16
    let done (t : State) : Prop := exec (.luAccess a.id) s = .next t ∧ (∀ b ∈ t.accesses, b.id ≠ a.id) ∧ KeepsContexts s t
    let brings (t : State) (es : List Elem) : Prop :=
      ∀ c, s.cmd a.cmd = some c → ∃ d, t.cmd a.cmd = some d ∧ d.row a.row = putLanes f.width es (c.row a.row)
    (a.extent = none → held → exec (.luAccess a.id) s = .next (s.later 1 (.luAccess a.id) [])) ∧
    (∀ e frame, good e frame → dCmp a.td = false → a.kind = .write → ∃ t, done t ∧ t.mem = (s.writeElems frame f.width a.elems).mem ∧
      ∀ n, (∀ x ∈ a.elems, n < frame * 65536 + x.inner * f.width / 8 ∨ frame * 65536 + x.inner * f.width / 8 + (f.width + 7) / 8 ≤ n) →
        t.mem.read n = s.mem.read n) ∧
    (∀ e frame, good e frame → dCmp a.td = false → a.kind = .read → ∃ t, done t ∧ t.mem = s.mem ∧ brings t (s.readElems frame f.width a.elems)) ∧
    -- R71, R209: a streamed read of n elements at the floor advances the floor, in the entry, by n.
    (∀ e frame p at_, good e frame → dCmp a.td = false → a.kind = .stream → s.entryPlace part a.td a.tile = some (p, at_) →
      (eFloor e = (a.elems.map Elem.inner).headD 0) ∧ ∃ t, done t ∧ brings t (s.readElems frame f.width a.elems) ∧
        t.mem = (s.writePart p at_ (setFld e 0 18 (eFloor e + a.elems.length))).mem) ∧
    -- R72, R210, R350: an add: units := floor(x 2^(100 - W)), added to the element's 128 bits; an element that is NaN, infinite or would overflow is refused
    -- with a record, and keeps its value.
    (∀ e frame, good e frame → dCmp a.td = false → a.kind = .add → room → named → ∀ x, a.elems = [x] →
      let v := decodeNum (s.addFmt a) x.val
      let old := signed 128 (s.readElem frame (x.inner * 128) 128)
      let units (u : Int) : Prop := ∃ (k : Nat) (i : Int), v.units (dW a.td - 100 - k) = some i ∧ u = i / 2 ^ k
      (v.isFin = false → ∃ t, done t ∧ records t 0x17 1 ∧ t.mem = (s.poison part a.td a.tile).mem) ∧
      ∀ u, units u → ∃ t, done t ∧
        (-2 ^ 127 < old + u → old + u < 2 ^ 127 → t.mem = (s.writeElem frame (x.inner * 128) 128 ((old + u) % 2 ^ 128).toNat).mem) ∧
        (old + u ≤ -2 ^ 127 ∨ 2 ^ 127 ≤ old + u → records t 0x17 0 ∧ t.mem = (s.poison part a.td a.tile).mem)) ∧
    -- R72, R210: of several elements of one piece, each is added in turn, whatever becomes of the others.
    (∀ frame W g x xs, State.addElems s frame W g (x :: xs) = match s.addElem frame W g x with
      | .inl u => State.addElems u frame W g xs
      | .inr sub => ((State.addElems s frame W g xs).1, (sub, x) :: (State.addElems s frame W g xs).2)) ∧
    -- R78, R219-R222: the elements of a compressed tensor: reads from the blocks that the map names; writes append whole blocks. A write may use what the
    -- codec read of its blocks when it first came.
    (∀ e frame, good e frame → dCmp a.td = true →
      let blocks := blocksOf f.width a.elems
      (∀ r es, a.kind = .read → s.region part a.td = .ok r → s.codecRead part r a.tile f.width a.elems = .ok es → ∃ t, done t ∧ t.mem = s.mem ∧ brings t es) ∧
      (∀ u, a.kind = .write → s.codecWrite part a.td a.tile f.width a.elems a.stale blocks = .ok u →
        (∃ t, done t ∧ t.mem = u.mem) ∨ (a.stale = [] ∧ ∃ t b, exec (.luAccess a.id) s = .next t ∧ t.mem = s.mem ∧ b ∈ t.accesses ∧ b.id = a.id ∧
          b.stale = s.blocksNow part a.td a.tile blocks ∧ Scheduled t (.luAccess a.id) []))) ∧
    (∀ e, free → s.entryPlace part a.td a.tile = some (part, entryAddr a.td a.tile) → s.readPart part (entryAddr a.td a.tile) = some e →
      e.getLsbD 63 = false → ∃ t b, exec (.luAccess a.id) s = .next t ∧ t.mem = s.mem ∧ b ∈ t.accesses ∧ b.id = a.id ∧ b.parked.isSome = true ∧
        KeepsContexts s t) ∧
    (∀ e frame code sub info aux, free → s.walk part a.td a.tile = .ok e frame →
      judge a.td a.tile a.kind a.who.gang a.elems e = some (code, sub, info, aux) → room → named → ∃ t, done t ∧ records t code sub) ∧
    -- R79, R358: a request for a tile of another chip leaves for the owner that this chip knows of, or asks the home directory; without an answer it is
    -- looked at again after 2^24 cycles.
    (∀ e, free → s.walk part a.td a.tile = .remote e → ∃ t b, exec (.luAccess a.id) s = .next t ∧ t.mem = s.mem ∧ KeepsContexts s t ∧
      b ∈ t.accesses ∧ b.id = a.id ∧
      (s.heldBack h a.tile = true → b.sentAt = none ∧ ⟨s.now + 1, .event (.luAccess a.id), []⟩ ∈ t.pending) ∧
      (s.heldBack h a.tile = false → b.sentAt = some s.now ∧ ⟨s.now + 2 ^ 24, .event .remoteTimeout, [a.id, s.now]⟩ ∈ t.pending ∧
        (s.ownerOf h a.tile = none → Scheduled t .directoryRequest [a.id]) ∧
        ∀ chip, s.ownerOf h a.tile = some chip → s.noPath chip = false → Scheduled t .remoteNack [a.id] ∨ Scheduled t (.luAccess a.id) [])) ∧
    ∀ x, a.extent = some x →
      (room → named → ∃ t, done t ∧ records t 0x14 0) ∧
      (1024 ≤ (s.die (luDie a.lu)).faults.length → ∃ t, exec (.luAccess a.id) s = .next t ∧ (∃ b ∈ t.accesses, b.id = a.id) ∧
        ⟨s.now + 1, .event (.luAccess a.id), []⟩ ∈ t.pending ∧ KeepsContexts s t ∧ t.mem = s.mem)
/-- R25, R53, R64, R73-R75, R230, R267, R272, R274, R280, R281, R352, R353, R356: a recast that passes its check seals its range at every unit; each unit, once
it has completed what it accepted, drops its translations of the range; the rewrite gives every entry its new role, owner and floor, and writes or
converts its frame. A query is taken in order of arrival when its engine is free, with the code of its check; it waits while a `qfence` holds it or an
access of it waits (log 12, the model's choice); its results and then its status are written, which clears their guards. -/
def Obligations.RecastsAndQueries : Prop :=
  (∀ (s : State) (c : Cmd) (o : RcastOp) (d : Desc), s.cmd c.id = some c → c.op = .rcast o → c.td = some d → dHome d = s.control.chip →
    let who := (s.ctx (ck c.core c.slot)).who 0 c.core c.slot c.ch c.tick
    let tiles := recastTiles d c.box o c.cursor
    let room := s.faultRoom (luDie (luOf s.control.chip d (tiles.headD 0)))
    (∀ r ∈ s.fabric.recasts, r.cmd ≠ c.id ∧ r.handle ≠ dHandle d) → s.channelClear c = true → s.firstUnread who.part d tiles = none →
    (s.recastCheck who d c.box o tiles false s.chooses = none → ∃ t, exec (.recastSeal c.id) s = .next t ∧
      ⟨c.id, who.part, dHandle d, tiles, List.range 42, true⟩ ∈ t.fabric.recasts ∧ (∀ n, n < 42 → Scheduled t (.sealReceive c.id n) []) ∧ t.mem = s.mem) ∧
    (∀ x, s.recastCheck who d c.box o tiles false s.chooses = some x → room ≠ 0 → ∃ t, exec (.recastSeal c.id) s = .next t ∧ t.mem = s.mem ∧
      (∀ e ∈ t.cmds, e.id ≠ c.id) ∧ ∀ r ∈ t.fabric.recasts, r.cmd ≠ c.id) ∧
    (∀ x, s.recastCheck who d c.box o tiles false s.chooses = some x → room = 0 → ∃ t, exec (.recastSeal c.id) s = .next t ∧ t.mem = s.mem ∧ t.cmds = s.cmds ∧
      ⟨s.now + 1, .event (.recastSeal c.id), []⟩ ∈ t.pending)) ∧
  (∀ (s : State) (r : Recast) (lu : Nat), s.fabric.recasts.find? (fun x => x.cmd = r.cmd && x.sealed) = some r → lu ∈ r.units →
    let ahead : Prop := (∃ a ∈ s.accesses, a.lu = lu ∧ a.accepted = true ∧ dHandle a.td = r.handle ∧ a.tile ∈ r.tiles) ∨
      ∃ w ∈ s.delayed, ∃ n, (lu, r.handle, n) ∈ w.taken ∧ n ∈ r.tiles
    (ahead → exec (.sealReceive r.cmd lu) s = .next (s.later 1 (.sealReceive r.cmd lu) [])) ∧
    (¬ahead → ∃ t, exec (.sealReceive r.cmd lu) s = .next t ∧
      (∀ x ∈ t.fabric.recasts, x.cmd = r.cmd → lu ∉ x.units) ∧ (∀ x ∈ t.fabric.cache, ¬(x.lu = lu ∧ x.handle = r.handle ∧ x.tile ∈ r.tiles)) ∧
      ((∀ n ∈ r.units, n = lu) → Scheduled t (.recastRewrite r.cmd) [] ∧ ∀ x ∈ t.fabric.replicas, ¬(x.1 = r.handle ∧ x.2.1 ∈ r.tiles)) ∧ t.mem = s.mem ∧
      KeepsContexts s t)) ∧
  -- R73-R75: the rewrite, once every unit has sealed, rewrites tile after tile, and the recast is complete; it waits as a whole for a data frame (log 12).
  (∀ (s : State) (c : Cmd) (o : RcastOp) (d : Desc) (r : Recast), s.cmd c.id = some c → c.op = .rcast o → c.td = some d →
    let i : Instr := .recastRewrite c.id
    let mine := s.delayed.find? fun w => w.event = i && w.subject = s.subject
    let who := (s.ctx (ck c.core c.slot)).who 0 c.core c.slot c.ch c.tick
    let all := r.tiles.foldl (fun u n => u.rewriteTile who d o c.cursor n)
      { s with attempt := some ⟨(mine.map Waiting.denied).getD [], (mine.map Waiting.taken).getD [], none⟩ }
    s.fabric.recasts.find? (fun x => x.cmd = c.id && x.sealed) = some r → r.units = [] → s.eventWaits i s.subject = false →
    (all.stalled = false → ∃ t, exec i s = .next t ∧ t.mem = all.mem ∧ (∀ e ∈ t.cmds, e.id ≠ c.id) ∧ ∀ x ∈ t.fabric.recasts, x.cmd ≠ c.id) ∧
    (all.stalled = true → ∃ t, exec i s = .next t ∧ t.mem = s.mem ∧ t.cmds = s.cmds ∧ t.fabric.recasts = s.fabric.recasts ∧
      ∃ w ∈ t.delayed, w.event = i ∧ w.subject = s.subject)) ∧
  -- R64, R73, R74: an entry's new role, owner and floor; its other fields stay.
  (∀ (d : Desc) (o : RcastOp) (cursor n : Nat) (e : Word64),
    let x := recastEntry d o cursor n e
    let kept : Prop := (dRole d = roleS ∧ o.role.toNat = roleI ∧ (o.cur = false ∨ n ≤ cursor / dElems d)) ∨ (dRole d = roleO ∧ o.role.toNat = roleO)
    eRole x = o.role.toNat ∧ eOwner x = (if o.role.toNat = roleO then o.owner.toNat else 0) ∧ (kept → eFloor x = eFloor e) ∧
    (¬kept → o.cur = false ∨ cursor / dElems d < n → eFloor x = 0) ∧
    ∀ i, i < 64 → ¬(i < 18 ∨ (46 ≤ i ∧ i < 52) ∨ (61 ≤ i ∧ i < 63)) → x.getLsbD i = e.getLsbD i) ∧
  -- R73, R350: what one rewrite does to memory: the entry; then zeros for O to A; or each of a K128 tile's 4,096 elements, rounded once to f32 or bf16.
  (∀ (s : State) (who : Who) (d : Desc) (o : RcastOp) (cursor n p a : Nat) (e : Word64), s.entryPlace who.part d n = some (p, a) → s.readPart p a = some e →
    let t := s.rewriteTile who d o cursor n
    let u := s.writePart p a (recastEntry d o cursor n e)
    let f : Fmt := if o.cf then .bf16 else .f32
    let w := f.width
    (dRole d ≠ roleA → ¬(dRole d = roleO ∧ o.role.toNat = roleA) → t.mem = u.mem) ∧ (dRole d = roleA → e.getLsbD 59 = true → t.mem = u.mem) ∧
    ∀ b, s.stalled = false → e.getLsbD 60 = false → s.s2 p (eFrame e) = some b →
      (∀ m, m < b * 65536 ∨ (b + 1) * 65536 ≤ m → t.mem.read m = u.mem.read m) ∧
      (dRole d = roleO → o.role.toNat = roleA → ∀ m, b * 65536 ≤ m → m < (b + 1) * 65536 → t.mem.read m = 0) ∧
      (dRole d = roleA → e.getLsbD 59 = false → ∀ i, i < 4096 →
        t.readElem b (w * i) w = (roundTo f false (k128Num (dW d) (signed 128 (u.readElem b (128 * i) 128)))).1)) ∧
  (∀ (s : State) (ple : Nat) (q : Query), s.plNext ple = some q → q ∈ s.ple ple ∧ q.at_ ≤ s.now ∧ (∀ x ∈ s.ple ple, x.taken = false) ∧
    (∀ x ∈ s.ple ple, x.at_ ≤ s.now → q.at_ < x.at_ ∨ (q.at_ = x.at_ ∧ q.core ≤ x.core)) ∧ ∃ t, exec (.plQueryAccept ple) s = .next t ∧
    (∀ x ∈ t.ple ple, x.cmd = q.cmd → x.taken = true ∧ x.code = if headerBreaks (q.rows.headD 0) then 1 else if slotsBreak q then 4 else 0) ∧
    (∀ g ∈ (t.core q.core).guards, ¬(g.pend = false ∧ g.cause = q.cmd)) ∧ Scheduled t (.plQueryComplete ple) [] ∧ KeepsContexts s t ∧ KeepsMemory s t) ∧
  ∀ (s : State) (ple : Nat) (q : Query) (c : Cmd), (s.ple ple).find? Query.taken = some q → s.cmd q.cmd = some c → c.dest.Nodup →
    let i : Instr := .plQueryComplete ple
    let mine := s.delayed.find? fun w => w.event = i && w.subject = s.subject
    let run := State.runQuery { s with attempt := some ⟨(mine.map Waiting.denied).getD [], (mine.map Waiting.taken).getD [], none⟩ } q
    let answer := run.2
    let goes : Prop := s.queryHeld ple = false ∧ s.eventWaits i s.subject = false
    (s.queryHeld ple = true → exec i s = .next (s.later 1 i [])) ∧
    (s.queryHeld ple = false → s.eventWaits i s.subject = true → exec i s = .next s) ∧
    (goes → run.1.stalled = true → ∃ t, exec i s = .next t ∧ KeepsContexts s t ∧ KeepsCores s t ∧ t.mem = s.mem ∧ t.cmds = s.cmds ∧ t.ple ple = s.ple ple ∧
      ∃ w ∈ t.delayed, w.event = i ∧ w.subject = s.subject) ∧
    (goes → run.1.stalled = false →
      ∃ t, exec i s = .next t ∧ (∀ x ∈ t.ple ple, x.cmd ≠ q.cmd) ∧ (∀ e ∈ t.cmds, e.id ≠ c.id) ∧ (∀ w ∈ t.delayed, ¬(w.event = i ∧ w.subject = s.subject)) ∧
        (∀ g ∈ (t.core c.core).guards, g.cause ≠ c.id) ∧ (q.code ≠ 0 → answer.code = q.code ∧ answer.slots = []) ∧
        ((∀ x ∈ (s.core c.core).log, (s.core c.core).fillFirst x = false) → (∀ f ∈ (s.core c.core).fills, f.slot = c.slot → c.epoch ≤ f.epoch) →
          (∀ a, c.dest[0]? = some a → (t.core c.core).row a = BitVec.ofNat 1024 (answer.dups * 2 ^ 32 + answer.slots.length * 2 ^ 8 + answer.code)) ∧
          ∀ i a, c.dest[i + 1]? = some a → ∀ j, j < 8 → laneN ((t.core c.core).row a) 128 j = answer.slots.getD (8 * i + j) (2 ^ 128 - 1) % 2 ^ 128))

/-! Events of cores and gangs. -/

/-- R29, R31, R32, R106, R110, R113, R139, R335: group entry enters a group that passes its checks, keeping what a loop's buffer takes of it, blocks on the first condition of one that waits, and takes a pending routine event
first; a cleared condition makes the context ready in the next cycle and ungates its core, ring rows of its own that waited for it having landed (log 18); a held syllable performs again when its
predicate lets it. That the instruction cache keeps at most 384 lines is the model's choice (log 32). -/
def Obligations.GroupsAreEnteredOrWait : Prop :=
  (∀ (s : State) (core slot : Nat),
    let k := ck core slot
    let u := s.passOver core slot
    let c := u.ctx k
    (s.core core).issuing = some slot →
    (∀ g, c.iss.routineEvent = none → u.entryCheck core slot true = .go g → ∃ t, exec (.groupEntry core) s = .next t ∧
      t.ctx k = { c with grp := some g, body := (t.ctx k).body, iss := { c.iss with target := none, after := [] } } ∧
      (t.ctx k).body.map (fun b => { b with buf := [] }) = c.body.map (fun b => { b with buf := [] }) ∧ (∀ j, j ≠ k → t.ctx j = s.ctx j) ∧ KeepsMemory s t ∧
      (∀ n, { t.core n with icache := (s.core n).icache } = s.core n) ∧ (∀ n, n ≠ core → t.core n = s.core n) ∧
      ((s.core core).icache.length ≤ 384 → (t.core core).icache.length ≤ 384)) ∧
    (∀ l cond at_, c.iss.routineEvent = none → u.entryCheck core slot true = .waits l → firstCond l = some (cond, at_) → ∃ t, exec (.groupEntry core) s = .next t ∧
      (t.ctx k).iss = { c.iss with blocked := some cond } ∧ (t.ctx k).regs = c.regs ∧ (t.ctx k).grp = c.grp ∧ (t.core core).issuing ≠ some slot ∧ KeepsMemory s t) ∧
    ∀ sub rt addr, (s.ctx k).iss.routineEvent = some (sub, rt, addr) → ∃ t, exec (.groupEntry core) s = .next t ∧
      (t.ctx k).iss.freeze = some ⟨9, sub, true, s.now⟩ ∧ (t.ctx k).iss.routineEvent = none ∧ (t.ctx k).regs = (s.ctx k).regs ∧
      (t.die (coreDie core)).events = s.queueRecord core slot
        (eventRecord (eventHead (s.ctx k) core slot 9 sub 0 0 false true (s.ctx k).iss.pc (s.ctx k).iss.tick) (BitVec.ofNat 64 rt) (BitVec.ofNat 64 addr) [])) ∧
  (∀ (s : State) (core slot : Nat), s.condCleared core slot = true →
    let c := s.ctx (ck core slot)
    ∃ t, exec (.conditionClears core slot) s = .next t ∧
    (t.ctx (ck core slot)).iss = { c.iss with blocked := none, ready := s.now + 1 } ∧
    (t.ctx (ck core slot)).regs = { c.regs with ring := (t.ctx (ck core slot)).regs.ring } ∧ KeepsMemory s t ∧
    (t.core core).gated = false ∧ (∀ n a, (t.core n).row a = (s.core n).row a) ∧ ((∀ d ∈ c.ringDue, s.now < d.at_) → (t.ctx (ck core slot)).regs = c.regs ∧ t.core core = { s.core core with gated := false } ∧ ∀ n, n ≠ core → t.core n = s.core n)) ∧
  ∀ (s : State) (l : Lane) (y : Syl), s.me.held l = some y →
    (s.me.regs.readP y.pred.toNat ≠ y.pn → exec (.heldReissue l) s = .next { s with redo := some y.op, cur := { s.cur with lane := l, held := true } }) ∧
    (s.me.regs.readP y.pred.toNat = y.pn → exec (.heldReissue l) s = .next s)
/-- R39-R45, R48, R49, R218, R310, R311, R317, R336, R347, R363, R364: a knot: arrival, announcement D - 2 cycles after the last one, release two cycles later with the phase advanced in
every member; the grant of an exchange; the saving and the restoring of a gang, which take a free time (log 4); time-outs; the end of a group; the duty. The model's deductions: an exchange whose
beats failed at a die boundary is not released and its group ends with status 0xa2, a halted member counts as arrived (log 35); a withheld release is announced two cycles ahead (log 34). -/
def Obligations.KnotsAndSupersteps : Prop :=
  (∀ (s : State) (part tree core slot : Nat) (g : Gang),
    let k := ck core slot
    let c := s.ctx k
    let D := if (s.part part).cfg.dies.length = 1 then 20 else if (s.part part).cfg.dies.length = 2 then 32 else 56
    let knot (t : State) (p : Knot → Prop) : Prop := ∃ h, t.gangAt part tree = some h ∧ h.cores = g.cores ∧ h.slot = g.slot ∧ p h.knot
    let due (t : State) (n : Nat) (i : Instr) : Prop := ⟨s.now + n, .event i, []⟩ ∈ t.pending
    s.gangAt part tree = some g →
    (s.arrives core slot = true → c.place.part = part → c.place.tree = tree → ∃ t, exec (.knotArrival core slot) s = .next t ∧ (t.ctx k).iss.arrived = true ∧
      (t.ctx k).markers = [] ∧ (c.iss.halted = false → (t.ctx k).iss.blocked = some .knotWait) ∧ knot t (fun n => core ∈ n.arrived ∧ ∀ m ∈ g.knot.arrived, m ∈ n.arrived) ∧
      ((∀ m ∈ g.cores, m = core ∨ m ∈ g.knot.arrived ∨ s.haltedAt g m = true) → (∃ m ∈ g.cores, s.haltedAt g m = false) → g.knot.last = none → g.ending = none →
        knot t (fun n => n.last = some s.now) ∧ due t (D - 2) (.knotAnnouncement part tree))) ∧
    ((∃ n, g.knot.last = some n ∧ n + D ≤ s.now + 2) → g.knot.announced = false → g.knot.withheld = false → g.ending = none → g.knot.xfab = true →
      ∃ t h, exec (.knotAnnouncement part tree) s = .next t ∧ t.gangAt part tree = some h ∧ h.ending = some (0xa2, s.now)) ∧
    ((∃ n, g.knot.last = some n ∧ n + D ≤ s.now + 2) → g.knot.announced = false → g.knot.withheld = false → g.ending = none → g.knot.xfab = false →
      ∃ t, exec (.knotAnnouncement part tree) s = .next t ∧ KeepsContexts s t ∧
      (g.victim = true → knot t (·.withheld = true) ∧ t.pending = s.pending) ∧
      (g.victim = false → s.toExchange g = true → knot t (fun n => n.announced = true ∧ n.request = some (s.now + 2)) ∧ t.pending = s.pending) ∧
      (g.victim = false → s.toExchange g = false → knot t (·.announced = true) ∧ due t 2 (.knotRelease part tree))) ∧
    (s.grantReady part tree = true → ∃ t at_, exec (.exchangeGrant part tree) s = .next t ∧ s.now + 2 ≤ at_ ∧ knot t (·.grant = some at_) ∧
      due t (at_ - s.now) (.knotRelease part tree) ∧ ∀ m ∈ g.cores, (t.core m).reserved = some (part, tree)) ∧
    (g.knot.announced = true → g.knot.withheld = false → g.ending = none → g.cores.Nodup → (s.toExchange g = true → g.knot.grant = some s.now) →
      ∃ t, exec (.knotRelease part tree) s = .next t ∧ KeepsMemory s t ∧
        (∀ m ∈ g.cores, (t.ctx (ck m g.slot)).place.phase = (s.ctx (ck m g.slot)).place.phase + (if g.xbit then 1 else 2) ∧
          (t.ctx (ck m g.slot)).regs = (s.ctx (ck m g.slot)).regs ∧ ((s.ctx (ck m g.slot)).iss.halted = false → (t.ctx (ck m g.slot)).iss.knot = false ∧
            (t.ctx (ck m g.slot)).iss.arrived = false ∧ (t.ctx (ck m g.slot)).iss.blocked = none)) ∧
        knot t (fun n => n.announced = false ∧ n.exchanging = s.toExchange g ∧ n.cycle0 = s.now) ∧
        (s.toExchange g = true → ∀ m ∈ g.cores, (t.core m).exchanging = some g.slot ∧ (s.haltedAt g m = false → (t.core m).issuing = some g.slot)) ∧
        (s.toExchange g = false → g.knot.exchanging = true → ∀ m ∈ g.cores, (s.core m).exchanging = some g.slot →
          (t.core m).exchanging = none ∧ (t.core m).last = g.slot ∧ (t.core m).issuing = none ∧ (t.core m).choose = some s.now)) ∧
    (s.saveReady part tree = true → g.saving = none → ∃ t n, exec (.preemptSave part tree) s = .next t ∧ s.now < n ∧ t.gangAt part tree = some { g with saving := some n } ∧
      KeepsContexts s t ∧ KeepsCores s t ∧ t.mem = s.mem) ∧
    (∀ n, g.saving = some n → s.now < n → exec (.preemptSave part tree) s = .next s) ∧
    (∀ n, g.saving = some n → n ≤ s.now → s.saveReady part tree = true → ∃ t v, exec (.preemptSave part tree) s = .next t ∧ v ∈ (t.part part).saved ∧ v.tree = tree ∧ v.back = none ∧
      v.ctxs = g.cores.map (fun m => (ck m g.slot, s.ctx (ck m g.slot))) ∧ (∀ m ∈ g.cores, t.ctx (ck m g.slot) = Ctx.reset) ∧ t.gangAt part tree = none) ∧
    (g.knot.withheld = true → g.victim = false → g.ending = none → g.knot.last.isSome = true → ∃ t, exec (.withheldRelease part tree) s = .next t ∧
      knot t (fun n => n.withheld = false ∧ n.announced = true) ∧ (s.toExchange g = false → due t 2 (.knotRelease part tree))) ∧
    (∀ n, s.subject = [part, tree, n] → g.knot.first = some n → g.knot.last = none → g.ending = none →
      (∃ t, exec .knotTimeout s = .next t ∧ ⟨s.now + (s.part part).cfg.ktime, .event .knotSecondTimeout, [part, tree, n]⟩ ∈ t.pending) ∧
      ∃ t h, exec .knotSecondTimeout s = .next t ∧ t.gangAt part tree = some h ∧ h.ending = some (0xa1, s.now)) ∧
    (s.gangDone part tree = true → ∃ t, exec (.groupComplete part tree) s = .next t ∧ t.gangAt part tree = none ∧ (∀ m ∈ g.cores, t.ctx (ck m g.slot) = Ctx.reset) ∧
      ∀ e ∈ (Sp.get Queue.reset (t.part part).queues g.queue).grps, e.lseq = g.lseq → e.group = g.group → e.done.isSome = true) ∧
    (s.subject = [part, tree] → ∃ t, exec .dutyFrameBoundary s = .next t ∧
      (∀ m ∈ g.cores, (t.ctx (ck m g.slot)).iss.throttled = decide (g.duty ≤ s.now % 16) ∧ (t.ctx (ck m g.slot)).regs = (s.ctx (ck m g.slot)).regs) ∧ KeepsMemory s t)) ∧
  ∀ (s : State) (part : Nat) (v : Saved), (s.part part).saved.find? (fun x => x.tree = v.tree && s.restoreDue part x) = some v →
    (v.back = none → ∃ t n, exec (.gangRestore part v.tree) s = .next t ∧ s.now < n ∧
      (t.part part).saved = (s.part part).saved.map (fun e => if e = v then { v with back := some n } else e) ∧ KeepsContexts s t ∧ KeepsCores s t ∧ t.mem = s.mem) ∧
    (v.back.isSome = true → (v.ctxs.map Prod.fst).Nodup → (v.rows.map fun e => (e.1, e.2.1)).Nodup → ∃ t h, exec (.gangRestore part v.tree) s = .next t ∧ t.gangAt part v.tree = some h ∧ h.cores = v.gang.cores ∧ h.slot = v.gang.slot ∧
      (∀ e ∈ v.ctxs, t.ctx e.1 = e.2) ∧ (∀ e ∈ v.rows, (t.core e.1).row e.2.1 = e.2.2) ∧ (t.part part).saved = (s.part part).saved.erase v ∧ t.mem = s.mem ∧
      (t.toExchange h = true → h.knot.request = some s.now) ∧ (t.toExchange h = false → Scheduled t (.withheldRelease part v.tree) []))

/-! Collectives. -/

/-- R246, R263, R372-R375, R384-R387: the join round of a collective: its start, joins that are gathered and sent up the tree, queries and time-outs, the decision and what
it means for a member. That the event of a start waits whole while a frame that it reads is parked is the model's choice (log 12), that a late member ends with code 2 whatever its record its deduction (log 48), and what ranks of other chips send is free (log 24). -/
def Obligations.CollectivesJoinAndDecide : Prop :=
  (∀ (s : State) (die comm : Nat) (b : Submission),
    let i : Instr := .collectiveStart die comm
    let l := s.cle die comm
    let e := (s.comm die comm).entry
    let live := s.liveSlots e
    let rank := (rankOf s.control.chip die live).getD 0
    let chipOf (r : Nat) : Nat := ((live[r]?).map fun m => m.2.1).getD 0
    let mine := s.delayed.find? fun w => w.event = i && w.subject = s.subject
    let source := State.sourcePoisoned { s with attempt := some ⟨(mine.map Waiting.denied).getD [], (mine.map Waiting.taken).getD [], none⟩ } b (cP e)
    let maps (n : Nat) : Prop := cMtab e ≤ n → n < cMtab e + 4 * max 1 (cSlots e) → (s.s2 (cPart e) (n / 65536)).isSome = true
    s.collDue die comm = true → s.turnOf die comm = some b →
    (s.eventWaits i s.subject = true → exec i s = .next s) ∧
    (s.eventWaits i s.subject = false → (cV e = true → ∀ n, maps n) → (s.subRefused die comm b = false → source.1.stalled = false) → ∃ t c, exec i s = .next t ∧
      (t.cle die comm).subs = l.subs.drop 1 ∧ (t.cle die comm).cur = some c ∧ c.sub = b ∧ t.mem = s.mem ∧ KeepsContexts s t ∧
      (s.subRefused die comm b = true → c.code = 6 ∧ c.x = none) ∧
      (s.subRefused die comm b = false → c.epoch = cEpoch e ∧ c.p = cP e ∧ c.rank = rank ∧ c.live = live ∧
        (0 < rank → 0 < cP e → chipOf ((rank - 1) / 2) = s.control.chip →
          (∀ r, r = 2 * rank + 1 ∨ r = 2 * rank + 2 → r < cP e → chipOf r ≠ s.control.chip ∧ s.noPath (chipOf r) = true) →
          ∃ m ∈ t.fabric.msgs, m.pkt = .join comm (((live[(rank - 1) / 2]?).map fun m => m.2.2).getD 0) (cEpoch e) l.round (die + 1) rank [rank]
            (if source.2 = true then [rank] else [])))) ∧
    (s.eventWaits i s.subject = false → mine = none → cV e = true → (∃ n, ¬maps n) → ∃ t w, exec i s = .next t ∧ t.cle = s.cle ∧ t.mem = s.mem ∧
      w ∈ t.delayed ∧ w.event = i ∧ w.subject = s.subject)) ∧
  (∀ (s : State) (msg comm die epoch round src rank : Nat) (ranks poison : List Nat) (c : Coll),
    s.packet msg = some (.join comm die epoch round src rank ranks poison) → InTurn s msg → cEpoch (s.comm die comm).entry ≤ epoch →
    (s.cle die comm).cur = some c → c.epoch = epoch → c.round = round →
    ∃ t, exec (.joinArrival msg) s = .next t ∧ t.mem = s.mem ∧ KeepsContexts s t ∧
      (c.x = none → ∃ d, (t.cle die comm).cur = some d ∧ d.sub = c.sub ∧ (∀ r, r ∈ c.joined ∨ r ∈ ranks → r ∈ d.joined) ∧
        (∀ r, r ∈ c.poison ∨ r ∈ poison → r ∈ d.poison) ∧
        (c.rank = 0 → c.code = 0 → (∀ r, r < c.p → r ∈ c.joined ∨ r ∈ ranks) →
          let x := (List.range c.p).filter fun r => c.poison.contains r || poison.contains r
          d.x = some x ∧ Told s t c fun r => .decided comm (c.dieOf r) epoch round x false)) ∧
      (∀ x, c.x = some x → 0 < src → (t.cle die comm).cur = some c ∧ ∃ m ∈ t.fabric.msgs, m.pkt = .decided comm (src - 1) epoch round x (x.contains rank))) ∧
  (∀ (s : State) (msg comm die epoch round src rank : Nat) (ranks poison x : List Nat),
    let l := s.cle die comm
    s.packet msg = some (.join comm die epoch round src rank ranks poison) → InTurn s msg → cEpoch (s.comm die comm).entry = epoch → 0 < src → round < l.round →
    (∀ c, l.cur = some c → c.epoch = epoch ∧ round < c.round) → l.closed.find? (fun e => e.1 = round) = some (round, x) →
    ∃ t, exec (.joinArrival msg) s = .next t ∧ t.cle = s.cle ∧ t.mem = s.mem ∧ KeepsContexts s t ∧
      ∃ m ∈ t.fabric.msgs, m.pkt = .decided comm (src - 1) epoch round x (x.contains rank)) ∧
  (∀ (s : State) (msg comm die epoch round : Nat) (x : List Nat) (late : Bool) (c : Coll),
    s.packet msg = some (.decided comm die epoch round x late) → InTurn s msg → (s.cle die comm).cur = some c → c.epoch = epoch → c.round = round → c.x = none → c.code = 0 →
    ∃ t d, exec (.joinArrival msg) s = .next t ∧ (t.cle die comm).cur = some d ∧ d.x = some x ∧ (late = true → d.code = 2) ∧
      (late = false →
        (x = [] → c.sub.bad = false → d.code = 0 ∧ d.todo = walkRecord c.sub.record c.p c.rank) ∧ (x = [] → c.sub.bad = true → d.code = 5) ∧
        let left : Prop := c.rank ∈ x ∧ c.rank ∉ c.poison
        (left → d.code = 2) ∧ (¬left → x ≠ [] → kKind c.sub.record = 2 → d.code = 4) ∧
        (¬left → x ≠ [] → kKind c.sub.record ≠ 2 → (kX c.sub.record = false ∨ ∀ r, r < c.p → r ∈ x) → d.code = 3) ∧
        (kKind c.sub.record ≠ 2 → kX c.sub.record = true → (∃ r, r < c.p ∧ r ∉ x) → (c.rank ∈ x → d.code = 2) ∧
          (c.rank ∉ x → c.sub.bad = false → d.code = 0 ∧ d.todo = walkRecord c.sub.record c.p c.rank)))) ∧
  (∀ (s : State) (die comm n : Nat) (c : Coll), (s.cle die comm).cur = some c → c.x = none → c.code = 0 → s.subject = [c.began, n] →
    (∀ m ∈ s.fabric.msgs, ∀ x late, m.pkt ≠ .decided comm die c.epoch c.round x late) →
    (0 < n → 0 < c.p → c.chipOf ((n - 1) / 2) = s.control.chip → ∃ t, exec (.joinTimeout die comm) s = .next t ∧
      ∃ m ∈ t.fabric.msgs, m.pkt = .join comm (c.dieOf ((n - 1) / 2)) c.epoch c.round (die + 1) c.rank c.joined c.poison) ∧
    (∀ low ∈ s.mates c, n = 0 → low < c.rank → (∀ r ∈ s.mates c, low ≤ r) → ∃ t, exec (.joinTimeout die comm) s = .next t ∧
      ∃ m ∈ t.fabric.msgs, m.pkt = .join comm (c.dieOf low) c.epoch c.round (die + 1) c.rank c.joined c.poison) ∧
    (n = 0 → (∀ r ∈ s.mates c, c.rank < r) → ∃ t d, exec (.joinTimeout die comm) s = .next t ∧ (t.cle die comm).cur = some d ∧ d.acting = true)) ∧
  (∀ (s : State) (msg comm die epoch src rank : Nat) (c : Coll), s.packet msg = some (.query comm die epoch src rank) → InTurn s msg → (s.cle (src - 1) comm).cur = some c →
    ∃ t d, exec (.presenceQuery msg) s = .next t ∧ (t.cle (src - 1) comm).cur = some d ∧
      (s.now < c.rooted + 3 * (s.comm (src - 1) comm).tj → ∀ q ∈ c.queries, q.1 = rank → (q.1, q.2.1, true) ∈ d.queries) ∧
      (c.rooted + 3 * (s.comm (src - 1) comm).tj ≤ s.now → d = c)) ∧
  (∀ (s : State) (die comm k : Nat) (c : Coll), (s.cle die comm).cur = some c → c.x = none → c.code = 0 → s.subject = [c.began, k] →
    ∃ t d, exec (.presenceTimeout die comm) s = .next t ∧ (t.cle die comm).cur = some d ∧
      (k < 3 → (∀ r ∈ c.lacking, (∃ q ∈ d.queries, q.1 = r) ∧ (s.near c r = true → ∃ m ∈ t.fabric.msgs, m.pkt = .query comm (c.dieOf r) c.epoch (die + 1) r)) ∧
        ⟨s.now + (s.comm die comm).tj, .event (.presenceTimeout die comm), [c.began, k + 1]⟩ ∈ t.pending) ∧
      (k = 3 → c.rank = 0 ∨ c.acting = true → (∀ r ∈ c.lacking, s.absent die comm c r = true) →
        d.x = some ((List.range c.p).filter fun r => c.lacking.contains r || c.poison.contains r))) ∧
  ∀ (s : State) (die comm : Nat) (c : Coll), (s.cle die comm).cur = some c → c.code = 0 → s.subject = [die, comm, c.began] →
    ∃ t d, exec .earlierEpochAnswer s = .next t ∧ (t.cle die comm).cur = some d ∧ d.code = 2 ∧ d.todo = [] ∧ t.mem = s.mem
/-- R248-R250, R255-R257, R260, R262, R266, R373, R386: the transfers of a collective: the next one of a member at its turn, pairs and chunks that arrive, joins at the switch and its
reduction; routed rows; a transfer that does not come, and an abort. The model's choices: while an access of an engine is held or parked nothing of its event happens, and it
is tried again (log 12); from when on a member holds an armed record, and what other chips send (log 24); a row of an epoch that has passed goes back to its sender's engine (log 77). -/
def Obligations.TransfersOfCollectives : Prop :=
  (∀ (s : State) (die comm : Nat) (c : Coll) (x : Transfer) (rest : List Transfer),
    let i : Instr := .chunkSendStart die comm
    let mine := s.delayed.find? fun w => w.event = i && w.subject = s.subject
    let a : State := { s with attempt := some ⟨(mine.map Waiting.denied).getD [], (mine.map Waiting.taken).getD [], none⟩ }
    let u : State := if c.sends then { a with fabric := { s.fabric with served := Sp.put 63 s.fabric.served (die * 16 + cVc (s.comm die comm).entry) comm } } else a
    let n := kE c.sub.record
    (s.eventWaits i s.subject = true → exec i s = .next s) ∧
    (∀ v, s.eventWaits i s.subject = false → State.sendChunk die comm a = .next v → v.stalled = true → ∃ t w, exec i s = .next t ∧ t.cle = s.cle ∧ t.mem = s.mem ∧
      w ∈ t.delayed ∧ w.event = i ∧ w.subject = s.subject) ∧
    (s.eventWaits i s.subject = false → s.sendDue die comm = true → (s.cle die comm).cur = some c → c.todo = x :: rest →
    (∀ v own, kKind c.sub.record = 0 → u.ownChunk c x.chunk = (v, some own) →
      let pos := c.pos x.chunk
      let pair := ((c.pairs.find? fun p => p.1 = x.chunk && p.2.1 = pos).map fun p => p.2.2).getD []
      let ws := chainStep (pos = 0) own pair
      ∃ t, exec (.chunkSendStart die comm) s = .next t ∧
        (∀ r, (c.chain x.chunk)[pos + 1]? = some r →
          (s.near c r = true → (∃ d, (t.cle die comm).cur = some d ∧ d.todo = rest) ∧
            ∃ m ∈ t.fabric.msgs, m.pkt = .pair comm (c.dieOf r) c.epoch c.round (die + 1) x.chunk (pos + 1) ws) ∧
          (s.cutOff c r = true → ∃ d, (t.cle die comm).cur = some d ∧ d.code = 5 ∧ d.fault = c.chipOf r)) ∧
        ((c.chain x.chunk)[pos + 1]? = none → ∀ d, c.sub.tdd = some d →
          let out := if c.p = 1 then ws.map fun w => fromF32 (dFmt d) (fldN w 32 32) else pairOut (dFmt d) ws
          (v.writeRun c.sub.who d (kDbase c.sub.record + x.chunk * n) out).2 = true →
          t.mem = (v.writeRun c.sub.who d (kDbase c.sub.record + x.chunk * n) out).1.mem ∧
          ∃ d', (t.cle die comm).cur = some d' ∧ d'.todo = rest ∧ (x.chunk, elemBytes (dFmt d).width out) ∈ d'.written)) ∧
    (∀ v d vs, kKind c.sub.record = 1 → c.sub.tdd = some d → u.readRun c.sub.who d (kDbase c.sub.record + x.chunk * n) n = (v, some vs) →
      let r := Machine.redirect c.p x.peer c.xs
      ∃ t d', exec (.chunkSendStart die comm) s = .next t ∧ (t.cle die comm).cur = some d' ∧ (r = c.rank ∨ s.cutOff c r = false → d'.todo = rest) ∧
        (r ≠ c.rank → s.cutOff c r = true → d'.code = 5 ∧ d'.fault = c.chipOf r) ∧
        (r ≠ c.rank → s.near c r = true → ∃ m ∈ t.fabric.msgs, m.pkt = .chunk comm (c.dieOf r) c.epoch c.round (die + 1) x.chunk vs)) ∧
    (2 ≤ kKind c.sub.record → ∃ t d', exec (.chunkSendStart die comm) s = .next t ∧ (t.cle die comm).cur = some d' ∧ d'.todo = rest ∧
      (x.chunk, die, comm) ∈ (Sp.get SwitchGroup.reset t.fabric.switch (cSg (s.comm die comm).entry)).joins ∧ t.mem = s.mem))) ∧
  (∀ (s : State) (msg comm die epoch round src chunk : Nat) (c : Coll), InTurn s msg → cEpoch (s.comm die comm).entry ≤ epoch → (s.cle die comm).cur = some c →
    c.epoch = epoch → c.round = round → c.code = 0 →
    (∀ j data, s.packet msg = some (.pair comm die epoch round src chunk j data) → ∃ t d, exec (.chainPairArrival msg) s = .next t ∧ (t.cle die comm).cur = some d ∧
      d.pairs = c.pairs ++ [(chunk, j, data)] ∧ d.todo = c.todo ∧ t.mem = s.mem) ∧
    (∀ data, s.packet msg = some (.chunk comm die epoch round src chunk data) → s.eventWaits (.copyChunkArrival msg) s.subject = false →
      let mine := s.delayed.find? fun w => w.event = .copyChunkArrival msg && w.subject = s.subject
      (chunk ∈ c.arrived → ∃ t, exec (.copyChunkArrival msg) s = .next t ∧ (t.cle die comm).cur = some c ∧ t.mem = s.mem) ∧
      (chunk ∉ c.arrived → ∀ d, c.sub.tdd = some d →
        let a : State := { s with attempt := some ⟨(mine.map Waiting.denied).getD [], (mine.map Waiting.taken).getD [], none⟩ }
        let w := (State.unpost a msg).writeRun c.sub.who d (kDbase c.sub.record + chunk * kE c.sub.record) data
        (w.2 = true → ∃ t d', exec (.copyChunkArrival msg) s = .next t ∧ (t.cle die comm).cur = some d' ∧ d'.arrived = chunk :: c.arrived ∧ t.mem = w.1.mem) ∧
        (w.2 = false → w.1.stalled = false → ∃ t d', exec (.copyChunkArrival msg) s = .next t ∧ (t.cle die comm).cur = some d' ∧ d'.code = 5 ∧ t.mem = w.1.mem)))) ∧
  (∀ (s : State) (group chunk comm : Nat) (j : Nat × Nat × Nat) (c : Coll) (v : State) (ws : List Word64),
    let g := Sp.get SwitchGroup.reset s.fabric.switch group
    let i : Instr := .switchReduce group chunk
    let mine := s.delayed.find? fun w => w.event = i && w.subject = [comm]
    let u : State := { s with
      attempt := some ⟨(mine.map Waiting.denied).getD [], (mine.map Waiting.taken).getD [], none⟩
      fabric := { s.fabric with switch := Sp.put SwitchGroup.reset s.fabric.switch group { g with joins := g.joins.filter fun k => !(k.1 = chunk && k.2.2 = comm) } } }
    let w := State.multicast comm chunk ws ((c.rank :: s.mates c).map c.dieOf) v
    s.subject = [comm] → s.eventWaits i [comm] = false → w.stalled = false → g.joins.find? (fun k => k.1 = chunk && k.2.2 = comm) = some j → (s.cle j.2.1 comm).cur = some c → c.code = 0 →
    s.switchFull group chunk comm c = true → State.switchSum comm chunk c (chainOf c.p chunk []) [] u = (v, .inl ws) →
    ∃ t, exec (.switchReduce group chunk) s = .next t ∧
      (∀ k ∈ (Sp.get SwitchGroup.reset t.fabric.switch group).joins, ¬(k.1 = chunk ∧ k.2.2 = comm)) ∧
      t.mem = w.mem ∧
      ∀ r, r ∈ c.rank :: s.mates c → ∀ d, (t.cle (c.dieOf r) comm).cur = some d → d.code = 0 → chunk ∈ d.arrived) ∧
  (∀ (s : State) (die comm : Nat) (c : Coll), (s.cle die comm).cur = some c → c.code = 0 →
    (s.subject = [c.began] → ∃ t d, exec (.collectiveAbort die comm) s = .next t ∧ (t.cle die comm).cur = some d ∧ d.code = 5 ∧ d.todo = [] ∧ d.written = c.written ∧ t.mem = s.mem) ∧
    ∀ n, c.waitSince = some n → s.subject = [c.began, n] → ∃ t d, exec (.transferTimeout die comm) s = .next t ∧ (t.cle die comm).cur = some d ∧ d.code = 5 ∧ d.todo = [] ∧
      (∀ r, c.awaited = some r → s.near c r = false → d.fault = c.chipOf r) ∧
      ∀ r ∈ s.mates c, ∀ m, c.dieOf r ≠ die → (s.cle (c.dieOf r) comm).cur = some m → m.epoch = c.epoch → m.round = c.round →
        Scheduled t (.collectiveAbort (c.dieOf r) comm) [m.began]) ∧
  (∀ (s : State) (msg comm peer core slot entry first eoff stage d0 ep src : Nat) (rel : Bool) (data : Row) (nb : Word64),
    let die := coreDie core
    let e := (s.comm die comm).entry
    let live := s.routedLive die comm
    let row (stage dst epoch src : Nat) : Packet := .routed comm peer rel core slot entry first eoff data nb stage dst epoch src
    let credit (dst : Nat) : Prop := ∃ b, s.turnOf dst comm = some b ∧ b.count < b.need ∧ s.subRefused dst comm b = false
    let p := (s.ctx (ck core slot)).place
    let delivered (t : State) : Prop := (t.ctx (ck core slot)).matrix.run = ((s.ctx (ck core slot)).matrix.run).map fun r => { r with sends := r.sends.filter (· ≠ msg) }
    (s.packet msg = some (row stage d0 ep src) → stage < 2 → s.eventWaits (.routedRowSend msg) s.subject = false →
      (cV e = true → ∀ n, cMtab e ≤ n → n < cMtab e + 4 * max 1 (cSlots e) → (s.s2 (cPart e) (n / 65536)).isSome = true) →
      (∀ me dst, rankOf s.control.chip die live = some me → live[((((if rel then signed 20 peer + me else peer) : Int) % (max 1 (cP e) : Nat)).toNat)]? = some dst →
        ∃ t, exec (.routedRowSend msg) s = .next t ∧ KeepsContexts s t ∧ t.mem = s.mem ∧
          (dst.2.1 = s.control.chip → credit dst.2.2 → cEpoch e = cEpoch (s.comm dst.2.2 comm).entry → t.packet msg = some (row 2 dst.2.2 (cEpoch e) (die + 1))) ∧
          (dst.2.1 = s.control.chip → ¬credit dst.2.2 ∨ cEpoch e ≠ cEpoch (s.comm dst.2.2 comm).entry → t.packet msg = some (row 1 0 (cEpoch e) (die + 1))) ∧
          (dst.2.1 ≠ s.control.chip → t.packet msg = some (row 2 4 (cEpoch e) (die + 1)))) ∧
      (rankOf s.control.chip die live = none → ∃ t, exec (.routedRowSend msg) s = .next t ∧ t.packet msg = none ∧ delivered t ∧
        Reports t die 0x27 6 p.part core comm p.queue p.tree 0 nb 0)) ∧
    ∀ dst, dst < 4 → InTurn s msg → s.eventWaits (.routedRowArrival msg) s.subject = false →
      let mine := s.delayed.find? fun w => w.event = .routedRowArrival msg && w.subject = s.subject
      let a : State := { s.taking msg with attempt := some ⟨(mine.map Waiting.denied).getD [], (mine.map Waiting.taken).getD [], none⟩ }
      let write (b : Submission) (d : Desc) : State × Bool := a.writeRun b.who d (kSbase b.record + eoff + 32 * first) ((List.range 32).map (laneN data (dFmt d).width))
      (s.packet msg = some (row 2 dst ep src) → ep < cEpoch (s.comm dst comm).entry → ∃ t, exec (.routedRowArrival msg) s = .next t ∧ t.mem = s.mem ∧
        KeepsContexts s t ∧ (0 < src → t.packet msg = some (row 1 0 0 0)) ∧ (src = 0 → t.packet msg = none)) ∧
      ∀ b, s.packet msg = some (row 2 dst (cEpoch (s.comm dst comm).entry) src) → s.turnOf dst comm = some b → b.count < b.need → s.subRefused dst comm b = false →
        (∀ d, b.tds = some d → (write b d).1.stalled = false) → ∃ t c, exec (.routedRowArrival msg) s = .next t ∧ t.packet msg = none ∧ delivered t ∧
        (t.cle dst comm).subs = c :: (s.cle dst comm).subs.drop 1 ∧ c.count = b.count + 1 ∧ c.record = b.record ∧ (b.bad = true → c.bad = true) ∧
        ∀ d, b.tds = some d → t.mem = (write b d).1.mem ∧ ((write b d).2 = false → c.bad = true))
/-- R245, R252, R253, R259, R263, R264, R265, R375, R376, R384, R386: a collective that ends writes its status row, with a log entry and the next sequence number or a record; changes of membership;
the replay at a hot spare; loads of a switch address group. The model's choices: the events of the replay, their messages, the splice log apart from memory and a neighbour below the lowest slot
(log 25); which engine writes a slot and when the copies at dies that are no member follow (log 77); plain epochs and a slot beyond the table (log 47). -/
def Obligations.CollectivesEndAndMembersChange : Prop :=
  (∀ (s : State) (die comm : Nat) (c : Coll) (d : Cmd) (row : Nat) (rest : List Nat), s.collEnds die comm = true → (s.cle die comm).cur = some c →
    s.cmd c.sub.cmd = some d → d.dest = row :: rest →
    let code := if c.code ≠ 0 then c.code else if c.xs.isEmpty then 0 else 1
    let logs := code = 0 ∨ code = 1
    let chip := if code = 5 then c.fault else if code = 6 then 0 else (c.xs.head?.map c.chipOf).getD 0
    let status (t : State) (seq : Nat) : Prop :=
      WrittenInOrder (s.core d.core) (t.core d.core) ⟨d.slot, d.tick, row, statusRow c code seq, allOnes, d.epoch, .engine⟩
    ∃ t, exec (.collectiveComplete die comm) s = .next t ∧ (t.cle die comm).cur = none ∧ (∀ e ∈ t.cmds, e.id ≠ d.id) ∧ (∀ g ∈ (t.core d.core).guards, g.cause ≠ d.id) ∧
      (logs → status t (s.fabric.seq % 2 ^ 48) ∧ t.fabric.seq = s.fabric.seq + 1 ∧
        t.fabric.splice.getLast? = some (spliceEntry comm c code (s.fabric.seq % 2 ^ 48)) ∧ (s.fabric.splice.length ≤ 64 → t.fabric.splice.length ≤ 64) ∧ t.mem = s.mem) ∧
      (¬logs → status t 0 ∧ t.fabric.seq = s.fabric.seq ∧ t.fabric.splice = s.fabric.splice ∧
        Reports t die 0x27 code c.sub.who.part 0 comm c.sub.who.queue c.sub.who.tree chip (BitVec.ofNat 64 c.epoch) 0)) ∧
  (∀ (s : State) (die comm : Nat) (x : Change) (r : List Change), (s.cle die comm).change = x :: r → s.eventWaits (.membershipApply die comm) s.subject = false →
    let e := (s.comm die comm).entry
    let others : List Nat := [0, 1, 2, 3].filter fun d => (s.cle d comm).change.contains x
    let goes : Prop := (s.cle die comm).cur = none ∧ (s.memberHere die comm = true ∨ ∀ d ∈ others, s.memberHere d comm = false)
    let u : State := if others.length = 4 ∧ x.slot < cSlots e then s.writeBytes (cPart e) (cMtab e + 4 * x.slot) (bytesLE 4 x.entry.toNat) else s
    (¬goes → ∃ t, exec (.membershipApply die comm) s = .next t ∧ t.cle = s.cle ∧ t.fabric = s.fabric ∧ KeepsContexts s t ∧ t.mem = s.mem) ∧
    (goes → (cV e = true → ∀ n, cMtab e ≤ n → n < cMtab e + 4 * max 1 (cSlots e) → (s.s2 (cPart e) (n / 65536)).isSome = true) →
      ∃ t, exec (.membershipApply die comm) s = .next t ∧ (t.cle die comm).change = r ∧ KeepsContexts s t ∧
      let f := (t.comm die comm).entry
      (cV e = true → x.delete = true → cV f = false ∧ cP f = cP e ∧ t.mem = s.mem ∧ ∀ y ∈ t.fabric.replays, y.comm ≠ comm) ∧
      (cV e = true → x.delete = false → cEpoch f = x.epoch % 2 ^ 16 ∧ cP f = (u.liveSlots e).length % 2 ^ 20 ∧ cOwner f = cOwner e ∧
        (cSgv e = false → t.mem = u.mem) ∧
        (cSgv e = true → t.mem = (u.validateRange (cPart e) (cMtab e) (4 * max 1 (cSlots e))).mem ∧
          t.redo = some (.switchGroupLoad (cSg f) (cEpoch f) (memberIds (t.liveSlots f))))))) ∧
  (∀ (s : State) (die comm slot : Nat),
    let e := (s.comm die comm).entry
    let i : Instr := .spareJoin die comm slot
    let u := s.validateRange (cPart e) (cMtab e) (4 * max 1 (cSlots e))
    let below := ((s.replayOf die comm slot).map Replay.below).getD slot
    let near (below : Nat) : Prop := ∃ m, u.neighbour die comm below = some m ∧ m.2.1 = s.control.chip
    let mine := s.delayed.find? fun w => w.event = i && w.subject = s.subject
    let a : State := { u with attempt := some ⟨(mine.map Waiting.denied).getD [], (mine.map Waiting.taken).getD [], none⟩ }
    let checked (v t : State) (r : Replay) (seq : Nat) (good : Prop) : Prop :=
      (good → t.replayOf die comm slot = some { r with seq, bad := 0 }) ∧ (¬good → r.bad = 0 → t.replayOf die comm slot = some { r with bad := 1 }) ∧
      (¬good → r.bad ≠ 0 → t.replayOf die comm slot = some ⟨die, comm, slot, ((v.neighbour die comm r.below).map Prod.fst).getD slot, false, 0, 0, 0⟩)
    cV e = true → slot < cSlots e → bit (u.slotWord (cPart e) (cMtab e) slot) 31 = false →
    (∀ n, s.subject = [1, n] → ∃ t at_, exec i s = .next t ∧ t.mem = u.mem ∧ KeepsContexts s t ∧ t.cle = s.cle ∧
      (near below → at_ = s.fabric.seq - 1) ∧ (¬near below → at_ = n) ∧ t.replayOf die comm slot = some ⟨die, comm, slot, below, true, at_, at_, 0⟩) ∧
    (∀ n part addr word, s.subject = [1, n, part, addr, word] → ∃ t, exec i s = .next t ∧ t.mem = (u.writePart part addr (BitVec.ofNat 64 word)).mem) ∧
    (∀ (r : Replay) (seq digest desc other : Nat) (xs : List Nat), s.subject = 2 :: seq :: digest :: desc :: other :: xs → s.eventWaits i s.subject = false →
      s.replayOf die comm slot = some r → r.held = true →
      let d : Desc := BitVec.ofNat 512 desc
      let n : Desc := BitVec.ofNat 512 other
      let w : Who := ⟨3, 0, 0, 0, cPart e, 0, cOwner e % 16, s.now, s.control.chip⟩
      let keeps : Prop := ∃ t, exec i s = .next t ∧ t.mem = u.mem ∧ KeepsContexts s t ∧ t.cle = s.cle ∧ t.replayOf die comm slot = some r
      let old : Prop := ∃ t, exec i s = .next t ∧ t.mem = u.mem ∧ KeepsContexts s t ∧ t.cle = s.cle ∧ t.replayOf die comm slot = some { r with held := false }
      (dCmp d = true ∨ dCmp n = true → keeps) ∧
      (dCmp d = false → dCmp n = false → ¬near r.below →
        (seq ≤ r.seq → keeps) ∧ (r.seq < seq → r.snapshot + 64 < seq → old) ∧
        (r.seq < seq → seq ≤ r.snapshot + 64 →
          let v := a.writePairs w d (pairsOf xs)
          v.stalled = false → ∃ t, exec i s = .next t ∧ t.mem = v.mem ∧ checked v t r seq (digestOf (dFmt d).width ((pairsOf xs).map Prod.snd) = digest))) ∧
      (dCmp d = false → dCmp n = false → ∀ m, u.neighbour die comm r.below = some m → m.2.1 = s.control.chip →
        (r.snapshot + 64 < s.fabric.seq - 1 → old) ∧
        (s.fabric.seq - 1 ≤ r.snapshot + 64 → u.entriesAfter die comm r.seq m = [] → keeps) ∧
        ∀ x l, s.fabric.seq - 1 ≤ r.snapshot + 64 → u.entriesAfter die comm r.seq m = x :: l →
          let got := State.readPairs w n ((pairsOf xs).map Prod.fst) a
          let v := got.1.writePairs w d got.2
          v.stalled = false → ∃ t, exec i s = .next t ∧ t.mem = v.mem ∧
            checked v t r (fldN (x.getD 0 0) 16 48) (digestOf (dFmt n).width (got.2.map Prod.snd) = entryDigest x))) ∧
    (∀ l, s.subject = 3 :: l → ∃ t, exec i s = .next t ∧ t.mem = u.mem ∧ KeepsContexts s t ∧ t.cle = s.cle ∧
      t.replayOf die comm slot = some ⟨die, comm, slot, ((u.neighbour die comm below).map Prod.fst).getD slot, false, 0, 0, 0⟩) ∧
    (s.subject = [] → u.caughtUp die comm slot = false → exec i s = .next u) ∧
    (s.subject = [] → u.caughtUp die comm slot = true →
    ∃ t, exec i s = .next t ∧ t.mem = u.mem ∧ KeepsContexts s t ∧ t.replayOf die comm slot = none ∧ ∀ n, n < 4 → ∃ x, (t.cle n comm).change = (s.cle n comm).change ++ [x] ∧
      x.slot = slot ∧ x.epoch = (cEpoch e + ((s.cle die comm).change.filter fun y => !y.delete).length + 1) % 2 ^ 16 ∧ bit x.entry 31 = true ∧ fldN x.entry 2 18 = s.control.chip % 2 ^ 18 ∧ fldN x.entry 0 2 = die % 4 ∧ x.delete = false)) ∧
  (∀ (s : State) (die comm slot : Nat) (r : Replay), s.replayOf die comm slot = some r →
    (r.held = false ∨ r.bad ≠ 0 → s.caughtUp die comm slot = false) ∧
    ∀ m, r.held = true → r.bad = 0 → s.neighbour die comm r.below = some m → m.2.1 = s.control.chip →
      (s.caughtUp die comm slot = true ↔ s.entriesAfter die comm r.seq m = [] ∧ s.fabric.seq - 1 ≤ r.snapshot + 64)) ∧
  ∀ (s : State) (group epoch : Nat) (members : List Nat),
    let g := Sp.get SwitchGroup.reset s.fabric.switch group
    (g.members = [] ∨ g.epoch < epoch → ∃ t, exec (.switchGroupLoad group epoch members) s = .next t ∧
      Sp.get SwitchGroup.reset t.fabric.switch group = { g with epoch, members } ∧ t.mem = s.mem ∧ KeepsContexts s t) ∧
    (g.members ≠ [] → epoch ≤ g.epoch → exec (.switchGroupLoad group epoch members) s = .next s)

/-! Host, scheduler, firmware. -/

/-- R294-R297, R312, R314, R315, R338, R342, R384, R398: what the host writes: queue and ring registers, whole at their places in BAR0, `ebrk`, memory; and what firmware configures. Which `qtail` counts as
backward, the bits that a disabling write ignores, and the die, the unit and the key of the record of a parked host access are the model's (log 51). -/
def Obligations.HostWritesAndConfigurations : Prop :=
  (∀ (s : State) (part queue : Nat) (v : Word64), s.pageServes part = true → queue < 16 →
    let q := s.queue part queue
    let at_ := 0x1000 * (part + 1) + 64 * queue
    let puts (i : Instr) (r : Queue) : Prop := ∃ t, exec i s = .next t ∧ t.queue part queue = r ∧ (∀ n, n ≠ queue → t.queue part n = s.queue part n) ∧
      (∀ n, n ≠ part → t.part n = s.part n) ∧ (t.part part).gangs = (s.part part).gangs ∧ KeepsContexts s t ∧ KeepsCores s t ∧ t.mem = s.mem
    let taken : Prop := sub48 v q.qhead ≤ 2 ^ fldN q.qcfg 0 5 ∧ sub48 q.qtail q.qhead ≤ sub48 v q.qhead
    let tail := BitVec.ofNat 64 (v.toNat % 2 ^ 48)
    (taken → q.head = none → q.qtail = q.qhead → ∃ n, s.now < n ∧ puts (.qtailWrite part queue v) { q with qtail := tail, became := s.now, readAt := n }) ∧
    (taken → q.head.isSome = true ∨ q.qtail ≠ q.qhead → puts (.qtailWrite part queue v) { q with qtail := tail }) ∧
    (¬taken → puts (.qtailWrite part queue v) q) ∧
    (qcfgTaken v = true → bit v 63 = true → q.enabled = false → q.grps = [] →
      puts (.qcfgEnable part queue v) { q with qcfg := v &&& 0x80000000001f001f, qtail := 0, qhead := 0, ctail := 0, chead := 0, lcount := 0, head := none, asked := none }) ∧
    (qcfgTaken v = true → bit v 63 = false → q.enabled = true →
      puts (.qcfgDisable part queue v) { q with qcfg := q.qcfg &&& 0x7fffffffffffffff, head := none, asked := none, grps := q.grps.filter fun g => !g.unplaced }) ∧
    (qcfgTaken v = true → bit v 63 = false → q.enabled = false → q.grps = [] → puts (.qcfgConfig part queue v) { q with qcfg := v &&& 0x80000000001f001f }) ∧
    puts (.cheadWrite part queue v) { q with chead := BitVec.ofNat 64 (v.toNat % 2 ^ 48) } ∧
    (exec (.registerWrite (at_ + 0x10) 8 v) s = exec (.qtailWrite part queue v) s ∧ exec (.registerWrite (at_ + 0x30) 8 v) s = exec (.cheadWrite part queue v) s ∧
      exec (.registerWrite (at_ + 8) 8 v) s = exec (if bit v 63 then .qcfgEnable part queue v else if q.enabled then .qcfgDisable part queue v else .qcfgConfig part queue v) s ∧
      (q.enabled = false → q.grps = [] → puts (.registerWrite at_ 8 v) { q with qbase := v &&& 0xfffffffff80 } ∧ puts (.registerWrite (at_ + 0x20) 8 v) { q with cbase := v &&& 0xffffffffff0 })) ∧
    ∀ off size, size ≠ 8 → exec (.registerWrite off size v) s = .next s) ∧
  (∀ (s : State) (part : Nat) (v : Word64), s.pageServes part = true →
    let e := (s.part part).ring
    let base := 0x1000 * (part + 1)
    let puts (i : Instr) (r : EventRing) : Prop := ∃ t, exec i s = .next t ∧ t.part part = { s.part part with ring := r } ∧ KeepsContexts s t ∧ t.mem = s.mem
    (ecfgTaken v = true → bit v 63 = true → bit e.ecfg 63 = false →
      ∃ n, e.brkAt ≤ n ∧ puts (.ecfgEnable part v) { e with ecfg := v &&& 0x800000000000001f, etail := 0, ehead := 0, elost := 0, brks := [], brkAt := n }) ∧
    (ecfgTaken v = true → bit v 63 = false → bit e.ecfg 63 = true → puts (.ecfgDisable part v) { e with ecfg := e.ecfg &&& 0x7fffffffffffffff }) ∧
    (ecfgTaken v = true → bit v 63 = false → bit e.ecfg 63 = false → puts (.ecfgDisable part v) { e with ecfg := v &&& 0x800000000000001f }) ∧
    (∃ n, e.brkAt ≤ n ∧ puts (.eheadWrite part v) { e with ehead := BitVec.ofNat 64 (v.toNat % 2 ^ 48), brkAt := n }) ∧
    exec (.registerWrite (base + 0x408) 8 v) s = exec (if bit v 63 then .ecfgEnable part v else .ecfgDisable part v) s ∧
    exec (.registerWrite (base + 0x418) 8 v) s = exec (.eheadWrite part v) s ∧
    exec (.registerWrite (base + 0x428) 8 v) s = exec (if bit v 63 then .ebrkTerminate part (v.toNat % 2 ^ 48) else .ebrkContinue part (v.toNat % 2 ^ 48)) s ∧
    ∀ entry core slot, s.brkOf part entry = some (core, slot) →
      ((s.ctx (ck core slot)).iss.after = [] → (s.ctx (ck core slot)).iss.routineEvent = none → ∃ t, exec (.ebrkContinue part entry) s = .next t ∧ Resumed s t core slot ∧ ∀ b ∈ (t.part part).ring.brks, b.1 ≠ entry % 2 ^ 48) ∧
      ∃ t, exec (.ebrkTerminate part entry) s = .next t ∧ Ended t (s.ctx (ck core slot)).place.part (s.ctx (ck core slot)).place.tree (some 0x88)) ∧
  (∀ (s : State) (part addr f : Nat) (bytes : List Byte), (s.part part).configured = true → addr < 2 ^ 44 →
    let access (write : Bool) : Instr := .hostCxlMemAccess part addr write bytes
    let accepts (write : Bool) : Prop := (s.hostReplay (access write)).isSome = true ∨ s.parkFull 40 = false
    (∀ write, ¬accepts write → exec (access write) s = .next (s.later 1 (access write) [])) ∧
    (s.s2 part (addr / 65536) = some f → addr % 65536 + bytes.length ≤ 65536 →
      (accepts false → ∃ t, exec (.hostCxlMemAccess part addr false bytes) s = .next t ∧ t.control = { s.control with
        hostDone := s.control.hostDone ++ [⟨part, addr, false, s.mem.readN (f * 65536 + addr % 65536) bytes.length, false⟩] } ∧
        t.mem = s.mem ∧ KeepsContexts s t ∧ KeepsCores s t) ∧
      (accepts true → ∃ t, exec (.hostCxlMemAccess part addr true bytes) s = .next t ∧ t.control = { s.control with hostDone := s.control.hostDone ++ [⟨part, addr, true, [], false⟩] } ∧
        (∀ i b, bytes[i]? = some b → t.mem.read (f * 65536 + addr % 65536 + i) = b) ∧
        (∀ a, (∀ i, i < bytes.length → a ≠ f * 65536 + addr % 65536 + i) → t.mem.read a = s.mem.read a) ∧ KeepsContexts s t ∧ KeepsCores s t)) ∧
    (s.s2 part (addr / 65536) = none → (s.die 0).faults.length < 1024 → (∀ g ∈ (s.die 0).faults, g.parked = false) → ∀ write, accepts write → ∃ t r,
      exec (.hostCxlMemAccess part addr write bytes) s = .next t ∧ (t.die 0).faults = (s.die 0).faults ++ [r] ∧ fldN (r.words.getD 0 0) 56 8 = 0x12 ∧
        fldN (r.words.getD 0 0) 4 4 = 5 ∧ r.part = part ∧ r.frame = addr / 65536 ∧ r.parked = true ∧ r.host = [(.hostCxlMemAccess part addr write bytes, [])] ∧
        t.mem = s.mem ∧ KeepsContexts s t)) ∧
  ∀ (s : State) (cfg : PartCfg), cfgOk cfg = true → (∀ d ∈ cfg.dies, d ∉ s.control.fencedDies) → (s.control.svc ≠ 2 → cfg.dies.length = 1) →
    (∀ n, n < 4 → (∃ d ∈ (s.part n).cfg.dies, d ∈ cfg.dies) → (s.part n).idle = true) →
    ∃ t, exec (.partitionConfigure cfg) s = .next t ∧ t.part cfg.first = { Part.reset with cfg } ∧ KeepsContexts s t ∧ t.mem = s.mem ∧
      ∀ n, n < 4 → n ≠ cfg.first → ((∃ d ∈ (s.part n).cfg.dies, d ∈ cfg.dies) → t.part n = Part.reset) ∧ ((∀ d ∈ (s.part n).cfg.dies, d ∉ cfg.dies) → t.part n = s.part n)
/-- R26, R27, R37, R52, R297, R300-R310, R339, R347, R384, R398: the scheduler reads a head record once, reports the groups of a refused one, which stays head until its last record is written, places a group
with fresh contexts, writes completion records and chooses victims. When a decision of 16 cycles begins, and that it may place nothing at its end, is log 67; what a completion record does at a frame that is
deferred or not valid is log 68. -/
def Obligations.SchedulerPlacesAndReports : Prop :=
  (∀ (s : State) (part queue : Nat),
    let q := s.queue part queue
    q.enabled = true →
    (q.head = none → q.qhead ≠ q.qtail → q.readAt ≤ s.now →
      let u := match q.asked with
        | some (a, b) => s.validateRange part a b
        | none => s
      u.readHead part q ≠ .refused ∧
      (∀ h, u.readHead part q = .read h → exec (.recordRead part queue) s = .next (u.setQueue part queue { q with head := some h, asked := none }) ∧ h.since = q.became ∧ h.next = 0) ∧
      (∀ a b, u.readHead part q = .waits a b → ∃ t n, exec (.recordRead part queue) s = .next t ∧ t.queue part queue = { q with readAt := n, asked := some (a, b) } ∧ s.now < n ∧
        t.mem = u.mem ∧ KeepsContexts s t)) ∧
    (∀ h, q.head = some h → h.refused = true → h.next < max 1 (rGroups h.words) → q.grps.length < 256 → ∃ t g, exec (.recordRead part queue) s = .next t ∧
      (t.queue part queue).grps = q.grps ++ [g] ∧ g.done = some 0x8b ∧ g.unplaced = true ∧ g.group = h.next ∧ g.lseq = q.qhead.toNat % 2 ^ 48 ∧
      g.last = decide (h.next + 1 = max 1 (rGroups h.words)) ∧ (t.queue part queue).head = some { h with next := h.next + 1 } ∧ (t.queue part queue).qhead = q.qhead ∧
      t.mem = s.mem ∧ KeepsContexts s t) ∧
    (∀ h, q.head = some h → h.refused = false ∨ max 1 (rGroups h.words) ≤ h.next → exec (.recordRead part queue) s = .next s)) ∧
  (∀ (s : State) (part : Nat),
    let p := s.part part
    let choice := if s.places then s.choosePlace part (p.heads s.now) else none
    (p.deciding = none → choice = none → exec (.placementDecision part) s = .next s) ∧
    (p.deciding = none → choice.isSome = true → exec (.placementDecision part) s = .next (s.setPart part { p with deciding := some (s.now + 16) })) ∧
    (∀ n, p.deciding = some n → s.now < n → exec (.placementDecision part) s = .next s) ∧
    ∀ n, p.deciding = some n → n ≤ s.now → choice = none → exec (.placementDecision part) s = .next (s.setPart part { p with deciding := none, asked := none })) ∧
  (∀ (s : State) (part queue n : Nat) (h : Head) (x : Placement),
    let p := s.part part
    let u := match p.asked with
      | some (a, b) => s.validateRange part a b
      | none => s
    let r := u.schedRead part (rArgs h.words) (16 * rArows h.words)
    s.places = true → p.deciding = some n → n ≤ s.now → s.choosePlace part (p.heads s.now) = some (queue, h, x) → s.gangAt part x.tree = none →
    (r = .refused → ∃ t, exec (.placementDecision part) s = .next t ∧ (t.queue part queue).head = some { h with refused := true } ∧ KeepsContexts s t ∧ t.gangAt part x.tree = none) ∧
    (∀ a b, r = .waits a b → ∃ t n, exec (.placementDecision part) s = .next t ∧ t.part part = { p with deciding := some n, asked := some (a, b) } ∧ s.now < n ∧
      t.mem = u.mem ∧ KeepsContexts s t) ∧
    (∀ ws, r = .read ws → (x.members.map Prod.fst).Nodup → ∃ t g, exec (.placementDecision part) s = .next t ∧ t.gangAt part x.tree = some g ∧
      g.cores = x.members.map Prod.fst ∧ g.slot = x.slot ∧ g.group = h.next ∧ g.prio = rPrio h.words ∧ g.ending = none ∧ g.knot = Knot.reset ∧
      (t.queue part queue).grps = (s.queue part queue).grps ++ [groupOf (s.queue part queue) h true x.tree] ∧ (t.part part).deciding = none ∧
      ∀ m ∈ x.members,
        let c := t.ctx (ck m.1 x.slot)
        c.iss.placed = true ∧ s.now < c.iss.ready ∧ c.iss.tick = 0 ∧ c.iss.pc = BitVec.ofNat 64 (rImage h.words + 128 + (h.image.getD 1 0).toNat) ∧ c.place.phase = 0 ∧
        c.place.group = BitVec.ofNat 32 h.next ∧ c.place.limit = c.place.base + tWindow (h.image.drop 8) - 1 ∧ c.regs.readA 0 = BitVec.ofNat 32 c.place.base ∧
        (∀ n, 0 < n → n < 16 → c.regs.readA n = 0) ∧ (∀ n, c.regs.readS n = 0) ∧ (∀ n, n < 512 → c.regs.readV n = 0) ∧ c.landing = [] ∧ c.matrix = Matrix.reset ∧
        ∀ i a, i < tWindow (h.image.drop 8) → (rowsOf (rArows h.words) ws)[i]? = some a → (t.core m.1).row (c.place.base + i) = a)) ∧
  (∀ (s : State) (part queue : Nat) (g : Grp) (rest : List Grp) (status : Nat),
    let q := s.queue part queue
    let at_ := q.cbase.toNat + 16 * (q.ctail.toNat % 2 ^ fldN q.qcfg 16 5)
    q.grps = g :: rest → g.done = some status → sub48 q.ctail q.chead < 2 ^ fldN q.qcfg 16 5 → q.recordAt ≤ s.now →
    (s.s2deferred part (at_ / 65536) = true → q.recordAsked = false → ∃ t n, exec (.completionRecordWrite part queue) s = .next t ∧ t.mem = s.mem ∧
      t.queue part queue = { q with recordAt := n, recordAsked := true } ∧ s.now < n ∧ KeepsContexts s t) ∧
    (s.s2deferred part (at_ / 65536) = false → s.s2 part (at_ / 65536) = none → exec (.completionRecordWrite part queue) s = .next s) ∧
    (s.s2deferred part (at_ / 65536) = true ∧ q.recordAsked = true ∨ s.s2deferred part (at_ / 65536) = false ∧ (s.s2 part (at_ / 65536)).isSome = true →
      ∃ t, exec (.completionRecordWrite part queue) s = .next t ∧
      t.mem = ((s.validate part (at_ / 65536)).writeParts part at_ [pack [(16, g.lseq), (0, status)], pack [(32, g.group)]]).mem ∧
      (t.queue part queue).grps = rest ∧ (t.queue part queue).recordAsked = false ∧
      (g.last = true → g.unplaced = true → q.head.isSome = true → (t.queue part queue).head = none ∧ (t.queue part queue).qhead.toNat = (q.qhead.toNat + 1) % 2 ^ 48) ∧
      (g.last = false ∨ g.unplaced = false ∨ q.head = none → (t.queue part queue).head = q.head ∧ (t.queue part queue).qhead = q.qhead) ∧ (t.queue part queue).ctail.toNat = (q.ctail.toNat + 1) % 2 ^ 48 ∧
      (g.last = true → (t.queue part queue).lcount.toNat = (q.lcount.toNat + 1) % 2 ^ 48) ∧ (g.last = false → (t.queue part queue).lcount = q.lcount) ∧
      t.control.msix = s.control.msix ++ (if g.irq = 2 ∨ g.irq = 1 ∧ g.last = true then [g.vec] else []) ∧ KeepsContexts s t)) ∧
  ∀ (s : State) (part queue : Nat), ((s.part part).gangs.map Prod.fst).Nodup → ∃ t, exec (.preemptDecision part queue) s = .next t ∧
    (∀ e ∈ s.preempts part queue, t.gangAt part e.1 = some { e.2 with victim := true }) ∧ KeepsContexts s t ∧ t.mem = s.mem
/-- R218, R231, R244, R245, R263, R312, R315, R331, R336-R338, R342-R347, R360, R384: what firmware does: retry, continue, terminate, freeze; the services of `tsys`, which leave their answer in s1 to s7 and
let the context go on; BRK records; fault records; invalidation markers. The model's choices: a service that the runtime's extension serves (log 13); the key of a record of a host access is its frame, within the
partition (log 51); what is written for an S1MISS, and engine events that go on or are tried again (log 12); the subject of a marker's event (log 41). -/
def Obligations.FirmwareServes : Prop :=
  (∀ (s : State) (core slot : Nat),
    let k := ck core slot
    let c := s.ctx k
    let ready : Prop := c.iss.after = [] ∧ (c.iss.halted = false ∨ c.iss.routineEvent = none)
    (∀ f sub rt addr, s.subject = [core, slot] → c.iss.freeze = some f → s.live core slot = true → f.inGroup = false → c.iss.after = [] →
      c.iss.halted = true → c.grp = none → c.iss.routineEvent = some (sub, rt, addr) → ∃ t, exec .cont s = .next t ∧ (t.ctx k).iss.freeze = some ⟨9, sub, true, s.now⟩) ∧
    (∀ f, s.subject = [core, slot] → c.iss.freeze = some f → s.live core slot = true → ready →
      (f.inGroup = true → ∃ t, exec .retry s = .next t ∧ Resumed s t core slot ∧ (t.ctx k).regs = c.regs ∧ KeepsMemory s t) ∧
      (f.inGroup = false → ∃ t, exec .cont s = .next t ∧ Resumed s t core slot ∧ (t.ctx k).regs = c.regs ∧ KeepsMemory s t)) ∧
    (∀ f n, s.subject = [core, slot, n + 1] → c.iss.freeze = some f → s.live core slot = true → ready → f.inGroup = true →
      ∃ t, exec .retry s = .next t ∧ Resumed s t core slot ∧ (t.ctx k).regs = c.regs ∧ t.mem = (s.validate c.place.part n).mem) ∧
    (∀ code, s.subject = [core, slot] → c.frozenOn = some code → s.live core slot = true →
      ∃ t, exec .terminate s = .next t ∧ Ended t c.place.part c.place.tree (some (0x80 + code)) ∧ KeepsMemory s t) ∧
    (∀ sub, s.subject = [core, slot, sub] → c.iss.placed = true → c.iss.freeze = none → c.iss.halted = false → ∃ t, exec .freeze s = .next t ∧ (t.ctx k).regs = c.regs ∧
      (c.grp.isSome = true → (t.ctx k).iss = { c.iss with freezeAsked := some sub }) ∧ (c.grp = none → (t.ctx k).iss.freeze = some ⟨0x0a, sub, true, s.now⟩)) ∧
    (∀ rest, s.subject = core :: slot :: rest → c.frozenOn = some 7 → s.live core slot = true → ready →
      let n := (c.regs.readS 2).toNat
      let e := (s.comm (coreDie core) n).entry
      let mine := c.place.part * 16 + c.place.tree
      let owns := n < 64 ∧ cV e = true ∧ cOwner e = mine
      let cfg := (s.part c.place.part).cfg
      let answers (i : Instr) (vals : List (Nat × Word64)) (p : State → Prop) : Prop := ∃ t, exec i s = .next t ∧ Resumed s t core slot ∧
        (∀ r, 0 < r → (t.ctx k).regs.readS r = ((vals.find? fun v => v.1 = r).map Prod.snd).getD (c.regs.readS r)) ∧ KeepsMemory s t ∧ p t
      (s.subj 2 = 0 → answers .tsysNull [(1, 0)] fun _ => True) ∧ (0 < s.subj 2 → s.subj 2 < 0x8000 → answers .tsysNull [(1, 2)] fun _ => True) ∧
      (0x8000 ≤ s.subj 2 → ∃ vals, (∀ v ∈ vals, 0 < v.1 ∧ v.1 < 8) ∧ answers .tsysNull vals fun _ => True) ∧
      answers .cycleCount [(1, 0), (2, BitVec.ofNat 64 s.now)] (fun _ => True) ∧
      (n ∈ cfg.dies → answers .overflowAreaQuery [(1, 0), (2, BitVec.ofNat 64 (overflowArea cfg n).1), (3, BitVec.ofNat 64 (overflowArea cfg n).2)] fun _ => True) ∧
      (n ∉ cfg.dies → answers .overflowAreaQuery [(1, 1)] fun _ => True) ∧
      (let w : BitVec 128 := setFld (c.regs.readS 3 ++ c.regs.readS 4) 100 16 0
       let absent : Prop := ∀ d, d < 4 → cV (s.comm d n).entry = false ∧ (s.cle d n).change = []
       let u := if cSgv w then s.validateRange (cPart w) (cMtab w) (4 * max 1 (cSlots w)) else s
       (n < 64 → absent → cOwner w = mine → ∃ t, exec .communicatorCreate s = .next t ∧ Resumed s t core slot ∧ t.mem = u.mem ∧
         (∀ r, 0 < r → (t.ctx k).regs.readS r = if r = 1 then 0 else c.regs.readS r) ∧
         (∀ d, d < 4 → (t.comm d n).entry = w ∧ 2 ^ 16 ≤ (t.comm d n).tj ∧ (t.comm d n).tj ≤ 2 ^ 28 ∧ 2 ^ 20 ≤ (t.comm d n).tc ∧ (t.comm d n).tc ≤ 2 ^ 30) ∧
         (cSgv w = true → t.redo = some (.switchGroupLoad (cSg w) (cEpoch w) (memberIds (u.liveSlots w))))) ∧
       (¬(n < 64 ∧ absent ∧ cOwner w = mine) → answers .communicatorCreate [(1, 1)] fun t => t.fabric.comms = s.fabric.comms)) ∧
      (let epoch := (cEpoch e + ((s.cle (coreDie core) n).change.filter fun x => !x.delete).length + 1) % 2 ^ 16
       (owns → answers .membershipChange [(1, 0), (2, BitVec.ofNat 64 epoch)] fun t => ∀ d, d < 4 → (t.cle d n).change = (s.cle d n).change ++
         [⟨(c.regs.readS 3).toNat, (c.regs.readS 4).setWidth 32, epoch, false⟩]) ∧
       (¬owns → answers .membershipChange [(1, 1)] fun t => t.fabric.cles = s.fabric.cles)) ∧
      (owns → answers .communicatorDelete [(1, 0)] fun t => ∀ d, d < 4 → ∃ x, (t.cle d n).change = (s.cle d n).change ++ [x] ∧ x.delete = true) ∧
      (¬owns → answers .communicatorDelete [(1, 1)] fun t => t.fabric.cles = s.fabric.cles))) ∧
  (∀ (s : State) (part : Nat) (r : List Word64) (held : Option (Nat × Nat)) (rest : List (List Word64 × Option (Nat × Nat))),
    let e := (s.part part).ring
    let entry := e.etail.toNat % 2 ^ fldN e.ecfg 0 5
    let frame := (e.ebase.toNat + 256 * entry) / 65536
    let takes : Prop := bit e.ecfg 63 = true ∧ sub48 e.etail e.ehead < 2 ^ fldN e.ecfg 0 5 ∧ ((s.s2 part frame).isSome = true ∨ s.s2deferred part frame = true)
    s.subject = [part] → e.waiting = (r, held) :: rest → (¬takes ∨ s.now < e.brkAt → exec .brkRecordWrite s = .next s) ∧
    (takes → e.brkAt ≤ s.now → ∃ t n, exec .brkRecordWrite s = .next t ∧ s.now < n ∧
      (t.part part).ring = { e with etail := inc48 e.etail, waiting := rest, brkAt := n,
                                    brks := (e.brks.filter fun b => b.1 % 2 ^ fldN e.ecfg 0 5 ≠ entry) ++ held.toList.map fun c => (e.etail.toNat % 2 ^ 48, c) } ∧
      t.control.msix = s.control.msix ++ [63] ∧ t.mem = (s.putEvent part 0 r).mem ∧ KeepsContexts s t)) ∧
  (∀ (s : State) (die : Nat) (f : FaultRec), s.subject = [die, f.id] → die < 4 → (s.die die).faults.find? (fun g => g.id = f.id) = some f →
    (∀ g ∈ (s.die die).backlog, g.id ≠ f.id) →
    let sameKey (g : FaultRec) : Prop := ∃ n, n < 4 ∧ g ∈ (s.die n).faults ∧ g.parked = true ∧ g.part = f.part ∧
      (fldN (f.words.getD 0 0) 32 16 + 2 ^ 16 - fldN (g.words.getD 0 0) 32 16) % 2 ^ 16 < 2 ^ 15 ∧
      if fldN (f.words.getD 0 0) 48 16 = 0x1201 then fldN (g.words.getD 0 0) 48 16 = 0x1201 ∧ g.frame = f.frame
      else fldN (g.words.getD 0 0) 48 16 ≠ 0x1201 ∧ fldN (g.words.getD 1 0) 24 40 = fldN (f.words.getD 1 0) 24 40 ∧ g.words.getD 2 0 = f.words.getD 2 0 ∧
        (f.ofHost = true → g.ofHost = true → g.frame = f.frame)
    ∃ t, exec .faultResolve s = .next t ∧ (∀ g ∈ (t.die die).faults, g.id ≠ f.id) ∧
      (f.parked = false → t.mem = s.mem ∧ t.accesses = s.accesses ∧ KeepsContexts s t) ∧
      (f.parked = true → (t.part f.part).gen = (s.part f.part).gen + 1 ∧
        (∀ u, s.settles f = some u → t.mem = u.mem ∧ ∀ g, sameKey g →
          (∀ i ∈ g.keep, ∀ a, s.accesses.find? (fun b => b.id = i) = some a →
            { a with parked := none, replayed := true } ∈ t.accesses ∧ ⟨s.now, .event (.luAccess i), []⟩ ∈ t.pending) ∧
          ∀ e ∈ g.host, ⟨s.now, .event e.1, e.2⟩ ∈ t.pending) ∧
        (s.settles f = none → ∀ g, sameKey g →
          (∀ i ∈ g.keep, ∀ a, s.accesses.find? (fun b => b.id = i) = some a → ∀ b ∈ t.accesses, b.id ≠ i) ∧
          ∀ e ∈ g.host, (∀ a d, a / 65536 = g.frame →
              (e.1 = .hostCxlMemAccess g.part a false d → ⟨g.part, a, false, List.replicate (min d.length (65536 - a % 65536)) 0xff, true⟩ ∈ t.control.hostDone) ∧
              (e.1 = .hostCxlMemAccess g.part a true d → ⟨g.part, a, true, [], false⟩ ∈ t.control.hostDone)) ∧
            ((∀ p a w d, e.1 = .hostCxlMemAccess p a w d → p ≠ g.part ∨ a / 65536 ≠ g.frame) → ⟨s.now, .event e.1, e.2⟩ ∈ t.pending)))) ∧
  ∀ (s : State) (core slot : Nat),
    let k := ck core slot
    let c := s.ctx k
    c.iss.placed = true →
    (∀ handle tile,
      let i : Instr := .invalidationMarker core slot handle tile
      let first := s.fabric.unmaps.reverse.find? fun u => u.handle = handle && u.tile = tile && u.due.contains (core, slot)
      let keeps (t : State) (l : List Cached) : Prop := (t.ctx k).markers = c.markers ++ [s.fresh] ∧ t.mem = s.mem ∧
        (∀ d ∈ s.cmds, d.core = core → d.slot = slot → d.done = false → ∃ e ∈ t.cmds, e.id = d.id ∧ ∀ x ∈ l, x ∈ e.old) ∧
        ⟨s.now + 2 ^ 22, .event (.markerWatchdog core slot), [s.fresh]⟩ ∈ t.pending
      (∀ u, first = some u → ∃ t, exec i s = .next t ∧ keeps t u.old ∧
        { u with due := u.due.filter (· ≠ (core, slot)), waits := u.waits ++ [s.fresh] } ∈ t.fabric.unmaps) ∧
      (first = none → s.subj 0 = 2 → exec i s = .next s) ∧
      (first = none → s.subj 0 ≠ 2 → ∃ t, exec i s = .next t ∧ (∀ x ∈ t.fabric.cache, ¬(x.handle = handle ∧ x.tile = tile)) ∧
        keeps t (s.fabric.cache.filter fun x => x.handle = handle && x.tile = tile) ∧
        (∀ part entry frame rest, s.subject = 1 :: part :: entry :: frame :: rest →
          keeps t [⟨0, part, handle, tile, BitVec.ofNat 64 entry, if frame = 0 then none else some (frame - 1)⟩]) ∧
        ∀ n ∈ s.subject.drop 4, (n / 4, n % 4) ≠ (core, slot) → (s.ctx (ck (n / 4) (n % 4))).iss.placed = true →
          Scheduled t (.invalidationMarker (n / 4) (n % 4) handle tile) [2] ∧ ∃ u ∈ t.fabric.unmaps, u.handle = handle ∧ u.tile = tile ∧ (n / 4, n % 4) ∈ u.due)) ∧
    ∀ id, s.subject = [id] → id ∈ c.markers → s.live core slot = true →
      let stands : Prop := c.iss.freeze.isSome = true ∨ c.iss.halted = true
      let ahead : Prop := ∃ d ∈ s.cmds, d.core = core ∧ d.slot = slot ∧ d.id < id ∧ d.done = false
      (¬stands → ∃ t, exec (.markerWatchdog core slot) s = .next t ∧ ⟨s.now + 1, .event (.markerWatchdog core slot), [id]⟩ ∈ t.pending ∧
        ((t.ctx k).iss.freezeAsked.isSome = true ∨ (t.ctx k).frozenOn = some 0x0a)) ∧
      (stands → ahead → ∃ t, exec (.markerWatchdog core slot) s = .next t ∧
        ⟨s.now + 1, .event (.markerWatchdog core slot), [id]⟩ ∈ t.pending ∧ KeepsContexts s t) ∧
      (stands → ¬ahead → ∃ t, exec (.markerWatchdog core slot) s = .next t ∧ id ∉ (t.ctx k).markers ∧
        (c.frozenOn = some 0x0a → c.iss.halted = false → c.iss.after = [] → Resumed s t core slot))

/-! Fabric, storage, other chips. -/

/-- R336, R361, R364, R368-R371, R373, R377-R379, R385: partition resets, routers, ports, boundaries and words that cannot be corrected: the records that they make and what is lost, rebuilt or ended. The model's
choices: the limit of a port is a constant of Config (log 55), what is counted within 1 ms, the ports that reach a chip and a port's peer (log 62), the partition of a die's records (log 70), the indexes of the blocks
in the records and of the check rows (log 72), and whether a retraining fails (log 5). -/
def Obligations.FabricAndStorageReports : Prop :=
  (∀ (s : State) (part sub : Nat), (s.part part).cfg.dies ≠ [] →
    let resets (i : Instr) (n : Nat) : Prop := ∃ t, exec i s = .next t ∧ PartitionCleared s t part ∧ Reports t (s.part part).cfg.first 0x24 n part 0 0 0 0 0 0 0 ∧ t.mem = s.mem
    (s.subject = [part, sub] → resets .partitionReset sub) ∧
    ∀ tree n g status, s.subject = [part, tree, n] → s.gangAt part tree = some g → g.ending = some (status, n) → s.cmdsLeft g = true → resets .terminationTimeout 1) ∧
  (∀ (s : State) (r : Nat), s.subject = [r] →
    (r ∉ s.fabric.routerOff → (∀ d ∈ s.pending, d.work = .event .routerWakeNotice → d.subject.head? = some r → s.now < d.at_) → Sp.get 0 s.fabric.routerWoke r + 256 ≤ s.now →
      ∃ t, exec .routerIdleTimeout s = .next t ∧ r ∈ t.fabric.routerOff ∧ t.fabric.msgs = s.fabric.msgs ∧ KeepsContexts s t ∧ t.mem = s.mem) ∧
    (s.now < Sp.get 0 s.fabric.routerWoke r + 256 → exec .routerIdleTimeout s = .next s) ∧
    ∃ t, exec .routerWakeNotice s = .next t ∧ r ∉ t.fabric.routerOff ∧ Sp.get 0 t.fabric.routerWoke r = s.now + 1 ∧ t.fabric.msgs = s.fabric.msgs ∧ KeepsContexts s t ∧ t.mem = s.mem) ∧
  (∀ (s : State) (p : Packet), ∀ r ∈ Config.path s.fresh, r ∉ (s.post p).fabric.routerOff) ∧
  (∀ (s : State) (port fixed : Nat), s.subject = [port, fixed] →
    let old := Sp.get Port.reset s.fabric.ports port
    let errors := s.now :: old.errors.filter fun n => s.now < n + 2700000
    ∃ t, exec .umtuicCodewordError s = .next t ∧ KeepsContexts s t ∧ t.mem = s.mem ∧ t.accesses = s.accesses ∧
    (port ∉ s.control.fencedPorts → port ∈ t.control.fencedPorts → ∀ die comm c r, comm < 64 → (s.cle die comm).cur = some c → c.code = 0 → c.x.isSome = true → r ∈ c.needs →
      t.cutOff c r = true → ∃ d, (t.cle die comm).cur = some d ∧ d.code = 5) ∧
    (∀ p ∈ s.control.fencedPorts, p ∈ t.control.fencedPorts) ∧
    (port < 18 → port ∉ s.control.fencedPorts →
      (errors.length ≤ Config.portLimit port → Sp.get Port.reset t.fabric.ports port = { old with errors, corrected := old.corrected + fixed } ∧ t.control = s.control) ∧
      (Config.portLimit port < errors.length → Reports t 3 0x25 0 0 0 0 0 0 ((Config.portPeer port).getD 0) (BitVec.ofNat 64 port) (BitVec.ofNat 64 (old.corrected + fixed)))) ∧
    (∀ p ∈ t.control.fencedPorts, p ∈ s.control.fencedPorts ∨ (p = port ∧ p < 18 ∧ Config.portLimit port < errors.length ∧
      3 ≤ ((Sp.get Port.reset t.fabric.ports port).failed.filter fun n => s.now < n + 2700000).length ∧
      Reports t 3 0x25 1 0 0 0 0 0 ((Config.portPeer port).getD 0) (BitVec.ofNat 64 port) 0 ∧
      (bootIndex 7 port < s.control.boot.length → fldN (t.control.boot.getD (bootIndex 7 port) 0) 32 4 = 1)))) ∧
  (∀ (s : State) (b core dir rx : Nat),
    let part := (s.partOf b).getD 0
    (s.subject = [b, 1, core, dir, rx] → ∃ t, exec .d2dCrcError s = .next t ∧ Reports t b 0x26 1 part rx 0 0 0 0 (BitVec.ofNat 64 b) (BitVec.ofNat 64 (core % 576)) ∧
      t.fabric.beats.length = s.fabric.beats.length ∧ (∀ (i : Nat) (x : Beat), s.fabric.beats[i]? = some x → t.fabric.beats[i]? =
        some (if x.core = core ∧ x.dir = decide (dir = 1) ∧ x.strip = (if dir = 1 then 30 * b + 29 else 30 * (b + 1)) ∧ x.at_ = s.now then { x with parity := false } else x)) ∧ KeepsContexts s t) ∧
    (s.subject = [b, 0] → ∃ t, exec .d2dCrcError s = .next t ∧ t.fabric.beats = s.fabric.beats ∧ t.fabric.msgs = s.fabric.msgs ∧ KeepsContexts s t ∧ t.mem = s.mem) ∧
    (s.subject = [b] → b < 3 → bootIndex 6 b < s.control.boot.length → ∃ t, exec .boundaryFailure s = .next t ∧ Reports t b 0x26 2 0 0 0 0 0 0 (BitVec.ofNat 64 b) 0 ∧
      fldN (t.control.boot.getD (bootIndex 6 b) 0) 32 4 = 1 ∧
      ∀ p, p < 4 → (b ∈ (s.part p).cfg.dies ∧ b + 1 ∈ (s.part p).cfg.dies → (t.part p).gangs = [] ∧ ∀ q, (t.queue p q).enabled = false) ∧
        (¬(b ∈ (s.part p).cfg.dies ∧ b + 1 ∈ (s.part p).cfg.dies) → (t.part p).gangs = (s.part p).gangs))) ∧
  (∀ s : State, exec .sramScrub s = .next s) ∧
  (∀ (s : State) (core : Nat) (rows : List Nat),
    let die := coreDie core
    let part := (s.partOf die).getD 0
    let stripe (r : Nat) : Nat := if r < 2560 then r / 16 else (r - 2560) / 2
    let n := stripe (rows.headD 0)
    let data := rows.filter fun r => r < 2560
    let rebuilds : Prop := 2560 + 2 * n ∉ rows ∧ (data.length ≤ 1 ∨ data.length = 2 ∧ (s.core core).retired = none ∧ 2561 + 2 * n ∉ rows)
    s.subject = core :: rows → rows ≠ [] → rows.Nodup → (∀ r ∈ rows, r < 2880 ∧ stripe r = n) → ∃ t, exec .sramUncorrectable s = .next t ∧
      (rebuilds → (∀ r ∈ data, Reports t die 0x28 1 part core 0 0 0 0 (blockInfo 0 core) (BitVec.ofNat 64 r)) ∧
        (∀ a, (t.core core).row a = (s.core core).row a) ∧ KeepsContexts s t) ∧
      (¬rebuilds → (∀ r ∈ data, Reports t die 0x28 3 part core 0 0 0 0 (blockInfo 0 core) (BitVec.ofNat 64 r)) ∧
        (∀ r ∈ data, (t.core core).row r = 0) ∧ (∀ a, a ∉ data → (t.core core).row a = (s.core core).row a) ∧
        ∀ r ∈ data, ∀ slot g, slot < 4 → (s.ctx (ck core slot)).iss.placed = true → (s.ctx (ck core slot)).inWindow r = true →
          s.gangAt (s.ctx (ck core slot)).place.part (s.ctx (ck core slot)).place.tree = some g → Ended t (s.ctx (ck core slot)).place.part (s.ctx (ck core slot)).place.tree none)) ∧
  (∀ (s : State) (a b w : Nat),
    let loses (p : State → Prop) : Prop := ∃ t, exec .storageUncorrectable s = .next t ∧ p t
    let place (slot : Nat) := (s.ctx (ck a slot)).place
    let part (die : Nat) := (s.partOf die).getD 0
    (∀ g, s.subject = [0, a, b, w] → (s.ctx (ck a b)).iss.placed = true → s.gangAt (place b).part (place b).tree = some g → loses fun t =>
      Reports t (coreDie a) 0x28 4 (part (coreDie a)) 0 0 0 0 0 (blockInfo 3 a) (BitVec.ofNat 64 w) ∧ Ended t (place b).part (place b).tree none) ∧
    (s.subject = [1, a, w] → loses fun t => Reports t (coreDie a) 0x28 4 (part (coreDie a)) 0 0 0 0 0 (blockInfo 3 a) (BitVec.ofNat 64 w) ∧ KeepsContexts s t ∧
      (t.core a).icache = []) ∧
    (∀ slot r, s.subject = [2, a, b] → slot < 4 → (s.ctx (ck a slot)).matrix.run = some r → (s.core a).covers r b = true → loses fun t =>
      (t.ctx (ck a slot)).matrix.run = none ∧ Reports t (coreDie a) 0x28 4 (part (coreDie a)) 0 0 0 0 0 (blockInfo 3 a) (BitVec.ofNat 64 b) ∧ (t.core a).store = (s.core a).store) ∧
    (∀ id rest c g, s.subject = [3, a, w] → (s.core a).rv.isSome = true → (s.core a).xforms = id :: rest → s.cmd id = some c → (s.ctx (ck a c.slot)).iss.placed = true →
      s.gangAt (place c.slot).part (place c.slot).tree = some g → loses fun t => (s.control.runsOver c.op w = true → Ended t (place c.slot).part (place c.slot).tree none) ∧
        (s.control.runsOver c.op w = false → t.cmds = s.cmds ∧ KeepsContexts s t) ∧
        Reports t (coreDie a) 0x28 4 (part (coreDie a)) 0 0 0 0 0 (blockInfo 3 a) (BitVec.ofNat 64 w)) ∧
    (∀ n addrs, s.subject = 4 :: a :: b :: n :: addrs →
      let x := a % 2 ^ 28 * 65536 + b
      loses fun t => Reports t (a / 2 ^ 28 - 8) 0x28 4 (part (a / 2 ^ 28 - 8)) 0 0 0 0 0 (blockInfo 1 (x / 128 % 144)) (BitVec.ofNat 64 ((x / 128 / 144 * 128 + x % 128) / 8)) ∧
      (∀ c ∈ t.fabric.cache, c.frame = some a → bit c.entry 59 = true) ∧ ∀ d ∈ t.cmds, ∀ c ∈ d.old, c.frame = some a → bit c.entry 59 = true) ∧
    (s.subject = [5, a, b] → loses fun t => b ∈ (t.die a).se.lost ∧ Reports t a 0x28 4 (part a) 0 0 0 0 0 (blockInfo 2 a) (BitVec.ofNat 64 b) ∧ KeepsContexts s t) ∧
    (s.subject = [6, a, w] → loses fun t => Reports t (a / 6) 0x28 4 (part (a / 6)) 0 0 0 0 0 (blockInfo 3 a) (BitVec.ofNat 64 w) ∧ (∀ q ∈ t.ple a, q.taken = true → q.code = 3) ∧ KeepsContexts s t)) ∧
  ∀ (s : State) (frame off : Nat) (addrs : List Nat),
    let die := frame / 2 ^ 28 / 2
    s.subject = frame :: off :: addrs → ∃ t, exec .dramUncorrectable s = .next t ∧ KeepsContexts s t ∧
      Reports t die 0x29 0 ((s.partOf die).getD 0) 0 0 0 0 0 (BitVec.ofNat 64 frame) (BitVec.ofNat 64 off) ∧ (∀ c ∈ t.fabric.cache, c.frame = some frame → bit c.entry 59 = true) ∧
      (∀ d ∈ t.cmds, ∀ c ∈ d.old, c.frame = some frame → bit c.entry 59 = true) ∧
      ∀ part a e, addrs = [part, a] ∧ s.fabric.guests = [] ∨ addrs = [] ∧ (∃ g, s.fabric.guests = [g] ∧ g.part = part ∧ g.at_ = a) →
        s.readPart part a = some e → eV e = true → eRem e = false → s.s2 part (eFrame e) = some frame → t.mem = (s.writePart part a (setFld e 59 1 1)).mem
/-- R79-R82, R217, R284, R293, R342, R346, R357-R359, R370: a tile that moves to another chip and the stub that it leaves; redirects, refusals and requests to the home directory; a tile of another chip reads as this chip
last wrote it. The model's choices: the remote port's refusals are recorded on die 3 with unit 41 (log 42); the stages in a migration's subject and a repeated reclaim request (log 43); what other chips hold and answer,
beyond what this chip has seen, is free (log 7). -/
def Obligations.TilesOfOtherChips : Prop :=
  (∀ (s : State) (part at_ handle tile owner : Nat) (e : Word64), s.readPart part at_ = some e →
    let told (t : State) (o : Option Nat) : Prop := handle / 2 ^ 22 = s.control.chip → ⟨handle, tile, o⟩ ∈ t.fabric.homes ∧
      ∀ h ∈ t.fabric.homes, h.handle = handle → h.tile = tile → h.owner = o
    (s.subject = [0, part, at_, handle, tile, owner] → eV e = true → eRem e = false → (∀ r ∈ s.fabric.recasts, r.handle = handle → tile ∉ r.tiles) →
      (s.parkedOn handle tile = true → exec .migration s = .next s) ∧
      (s.parkedOn handle tile = false → ∃ t b, exec .migration s = .next t ∧ t.stub handle tile = some b ∧ b.owner = owner ∧ b.moving = true ∧ b.queue = [] ∧
        Scheduled t .migration [1, part, at_, handle, tile] ∧ t.mem = s.mem ∧ told t none)) ∧
    (∀ b, s.subject = [1, part, at_, handle, tile] → s.stub handle tile = some b → b.moving = true → s.busyOn handle tile = true →
      exec .migration s = .next (s.later 1 .migration s.subject)) ∧
    (∀ b, s.subject = [1, part, at_, handle, tile] → s.stub handle tile = some b → b.moving = true → s.busyOn handle tile = false → ∃ t d, exec .migration s = .next t ∧ t.stub handle tile = some d ∧
      d.moving = false ∧ d.owner = b.owner ∧ d.born = s.now ∧ t.mem = (s.writePart part at_ (setFld (setFld e 60 1 1) 18 28 b.owner)).mem ∧
      told t (some b.owner) ∧ (∀ x ∈ t.fabric.cache, ¬(x.handle = handle ∧ x.tile = tile)) ∧ (∀ c ∈ t.cmds, ∀ x ∈ c.old, ¬(x.handle = handle ∧ x.tile = tile)) ∧
      (∀ f, eRem e = false → s.s2 part (eFrame e) = some f → ∀ i, i < 65536 → Sp.get none (t.farTile handle tile).image i = some (s.mem.read (f * 65536 + i))) ∧
      (∀ g ∈ t.fabric.guests, ¬(g.handle = handle ∧ g.tile = tile)) ∧ (∀ x ∈ b.queue, Scheduled t .stubForward [handle, tile, x.1, x.2]) ∧
      ⟨s.now + 43200000, .event .stubTimeout, [handle, tile]⟩ ∈ t.pending) ∧
    (s.subject = [3, part, at_, handle, tile] → ∃ t, exec .migration s = .next t ∧ told t none ∧ t.mem = s.mem) ∧
    (s.subject = [3, part, at_, handle, tile, owner, 1] → ∃ t, exec .migration s = .next t ∧ told t (some owner) ∧ t.mem = s.mem) ∧
    ∀ w f, s.subject = [2, part, at_, handle, tile, w] → s.s2 part (eFrame (setFld (BitVec.ofNat 64 w) 60 1 0)) = some f → ∃ t, exec .migration s = .next t ∧
      t.stub handle tile = none ∧ told t (some s.control.chip) ∧ (∀ x ∈ t.fabric.cache, ¬(x.handle = handle ∧ x.tile = tile)) ∧ KeepsContexts s t ∧
      (∀ c ∈ t.cmds, ∀ x ∈ c.old, ¬(x.handle = handle ∧ x.tile = tile)) ∧ (handle / 2 ^ 22 ≠ s.control.chip → ⟨handle, tile, part, at_⟩ ∈ t.fabric.guests) ∧
      t.mem = ((s.fillFrame f handle tile).writePart part at_ (setFld (BitVec.ofNat 64 w) 60 1 0)).mem ∧
      ∀ i b, i < 65536 → Sp.get none ((s.farReached handle tile).farTile handle tile).image i = some b → (s.fillFrame f handle tile).mem.read (f * 65536 + i) = b) ∧
  (∀ (s : State) (handle tile w x : Nat) (e : Elem), w % 8 = 0 ∨ w = 4 →
    ((s.farWrite handle tile w [e]).farRead handle tile w [{ e with val := x }]).2.map Elem.val = [e.val % 2 ^ w]) ∧
  (∀ (s : State) (a : Access), s.accesses.find? (fun b => b.id = a.id) = some a → a.parked = none → a.sentAt.isSome = true →
    let h := dHandle a.td
    let u := s.bump.farReached h a.tile
    s.noPath ((s.ownerOf h a.tile).getD (dHome a.td)) = false → s.chooses = true →
    (a.kind = .read ∨ a.kind = .stream ∨ a.kind = .slRead →
      exec (.luAccess a.id) s = .next ((u.farRead h a.tile (dFmt a.td).width a.elems).1.accDone a true (u.farRead h a.tile (dFmt a.td).width a.elems).2)) ∧
    (a.kind = .write ∨ a.kind = .slWrite → exec (.luAccess a.id) s = .next ((u.farWrite h a.tile (dFmt a.td).width a.elems).accDone a true []))) ∧
  (∀ (s : State) (handle tile : Nat) (b : Stub), s.stub handle tile = some b →
    (∀ chip hops, s.subject = [handle, tile, chip, hops] →
      (b.moving = true → ∃ t d, exec .stubForward s = .next t ∧ t.stub handle tile = some d ∧ d.queue = b.queue ++ [(chip, hops)]) ∧
      (b.moving = false → hops < 2 → ∃ t d, exec .stubForward s = .next t ∧ t.stub handle tile = some d ∧
        (chip, ((b.told.find? fun x => x.1 = chip).map Prod.snd).getD 0 + 1) ∈ d.told ∧ ∀ x ∈ b.told, x.1 ≠ chip → x ∈ d.told) ∧
      (b.moving = false → 2 ≤ hops → exec .stubForward s = .next s)) ∧
    (∀ sure, s.subject = [handle, tile, sure] → b.moving = false → sure = 1 ∨ b.born + 43200000 ≤ s.now → ∃ t, exec .stubTimeout s = .next t ∧
      t.stub handle tile = some { b with reclaim := true } ∧ (Scheduled t .reclaimGrant [handle, tile] ∨ Scheduled t .stubTimeout [handle, tile, 1]) ∧ t.mem = s.mem) ∧
    (s.subject = [handle, tile] → b.reclaim = true → ∃ t, exec .reclaimGrant s = .next t ∧ t.stub handle tile = none ∧ t.mem = s.mem ∧ KeepsContexts s t)) ∧
  (∀ (s : State) (a : Access), s.stub (s.subj 0) (s.subj 1) = none → s.fromAbroad (s.subj 0) (s.subj 1) (s.subj 2) = some a →
    a.who.unit = 6 ∧ a.who.chip = s.subj 2 ∧ a.tile = s.subj 1 ∧ dHandle a.td = s.subj 0 ∧
    (s.liveHere a = true → ∃ t, exec .stubForward s = .next t ∧ t.accesses = s.accesses ++ [a] ∧ ⟨s.now, .event (.luAccess a.id), []⟩ ∈ t.pending ∧ t.mem = s.mem) ∧
    (s.liveHere a = false → exec .stubForward s = .next s)) ∧
  (∀ (s : State) (handle tile owner : Nat), s.subject = [handle, tile, owner] → (s.accesses.map Access.id).Nodup →
    let out := s.accesses.filter fun a => dHandle a.td = handle && a.tile = tile && a.sentAt.isSome
    ∃ t, exec .redirect s = .next t ∧ (handle, tile, owner) ∈ t.fabric.owners ∧ (∀ o ∈ t.fabric.owners, o.1 = handle → o.2.1 = tile → o.2.2 = owner) ∧
      (∀ a ∈ out, { a with hops := a.hops + 1 } ∈ t.accesses ∧ (2 < a.hops + 1 → Scheduled t .directoryRequest [a.id])) ∧
      (out ≠ [] → (handle, tile, out.map Access.id) ∈ t.fabric.holds) ∧ (out = [] → ∀ h ∈ t.fabric.holds, ¬(h.1 = handle ∧ h.2.1 = tile)) ∧ t.mem = s.mem) ∧
  ∀ (s : State) (a : Access), s.accesses.find? (fun b => b.id = s.subj 0) = some a →
    let refused (t : State) (sub : Nat) (again : Instr × List Nat) : Prop :=
      (1024 ≤ (s.die 3).faults.length → t.accesses = s.accesses ∧ ⟨s.now + 1, .event again.1, again.2⟩ ∈ t.pending) ∧
      ((s.die 3).faults.length < 1024 → (∀ b ∈ t.accesses, b.id ≠ a.id) ∧ ∃ r info aux, (t.die 3).faults = (s.die 3).faults ++ [r] ∧ r.words = faultWords (s.part a.who.part).gen.toNat 0x19 sub 1 a.who (dHandle a.td) 41 a.tile info aux 0)
    let named (t : State) (chip : Nat) : Prop := (dHandle a.td, a.tile, chip) ∈ t.fabric.owners ∧ Scheduled t (.luAccess a.id) []
    let home := s.fabric.homes.find? fun h => h.handle = dHandle a.td && h.tile = a.tile
    let owner := s.homeOwner a.who.part a.td a.tile
    let i : Instr := .directoryRequest
    (∀ h, home = some h → owner = h.owner.map some) ∧ (home = none → s.readPart a.who.part (entryAddr a.td a.tile) = none → owner = some none) ∧
    (home = none → ∀ e, s.readPart a.who.part (entryAddr a.td a.tile) = some e →
      owner = some (if eV e = false then none else if eRem e then some (eFrame e % 2 ^ 18) else some s.control.chip)) ∧
    (s.subject = [a.id] → a.sentAt.isSome = true →
      (dHome a.td ≠ s.control.chip → s.noPath (dHome a.td) = true → exec .directoryRequest s = .next s) ∧
      (dHome a.td ≠ s.control.chip → s.noPath (dHome a.td) = false → ∃ t, exec .directoryRequest s = .next t ∧ ((∃ chip, chip < 2 ^ 18 ∧ named t chip) ∨ refused t 0 (i, [a.id]))) ∧
      (dHome a.td = s.control.chip →
        (owner = none → exec .directoryRequest s = .next (s.later 1 .directoryRequest [a.id])) ∧
        (owner = some none → ∃ t, exec .directoryRequest s = .next t ∧ refused t 0 (i, [a.id])) ∧
        ∀ chip, owner = some (some chip) → ∃ t, exec .directoryRequest s = .next t ∧ (chip ≠ s.control.chip → named t chip) ∧
          (chip = s.control.chip → { a with sentAt := none } ∈ t.accesses ∧ ⟨s.now, .event (.luAccess a.id), []⟩ ∈ t.pending)) ∧
      ∃ t, exec .remoteNack s = .next t ∧ (∀ o ∈ t.fabric.owners, ¬(o.1 = dHandle a.td ∧ o.2.1 = a.tile)) ∧ Scheduled t .directoryRequest [a.id] ∧ t.accesses = s.accesses ∧ t.mem = s.mem) ∧
    ∀ n, s.subject = [a.id, n] → (a.sentAt = some n → ∃ t, exec .remoteTimeout s = .next t ∧ refused t 1 (.remoteTimeout, [a.id, n])) ∧ (a.sentAt ≠ some n → exec .remoteTimeout s = .next s)

/-! Power, bring-up, attestation. -/

/-- R8, R316-R324, R361, R380: the arithmetic clock, duties, the boot sequence, device reset, answers to attestation requests; a step stops only when the boot has stopped (log 26). The model's choices: the clock in
eighths and the step after a sag (log 52); the die of a BOOT record, its counts and what a device reset keeps beyond R8 (log 53); whether a step passes (log 9); the amount of a cut (log 11); the codes, fields and
transcripts of SPDM 1.2 (log 10). -/
def Obligations.PowerBringUpAndAttestation : Prop :=
  (∀ s : State, ∃ t, exec .supplySag s = .next t ∧ t.control.clock = max 4 (s.control.clock - 1) ∧ KeepsContexts s t ∧ t.mem = s.mem ∧
    (s.clockRises = false → t.pending = s.pending ++ [⟨s.now + 2700, .event .clockStepUp, []⟩])) ∧
  (∀ s : State, s.control.clock < s.topClock → ∃ t, exec .clockStepUp s = .next t ∧ t.control.clock = s.control.clock + 1 ∧ KeepsContexts s t ∧
    (t.control.clock < s.topClock → ⟨s.now + 2700, .event .clockStepUp, []⟩ ∈ t.pending)) ∧
  (∀ (s : State) (die : Nat), s.subject = [die] → die ∉ s.control.fencedDies → (∀ p, p < 4 → ((s.part p).gangs.map Prod.fst).Nodup) →
    (∀ e ∈ s.gangsOn die, e.2.2.prio < 4) → ∃ t, exec .dutyUpdate s = .next t ∧ ⟨s.now + 27000, .event .dutyUpdate, [die]⟩ ∈ t.pending ∧ t.mem = s.mem ∧ KeepsContexts s t ∧
      ∃ d : Nat → Nat, (∀ n, 1 ≤ d n ∧ d n ≤ 16) ∧ (∀ e ∈ s.gangsOn die, t.gangAt e.1 e.2.1 = some { e.2.2 with duty := d e.2.2.prio }) ∧
        ∀ e ∈ s.gangsOn die, ∀ f ∈ s.gangsOn die, e.2.2.prio < f.2.2.prio → d f.2.2.prio < 16 → d e.2.2.prio = 1) ∧
  (∀ (s : State) (step inst : Nat),
    let i := bootIndex step inst
    let e := s.control.boot.getD i 0
    let image := Config.firmwareImage 0
    let runs : Prop := Config.bootPasses step inst false s.control.bootCount = true ∧
      (step = 0 → Config.signatureValid image = true ∧ s.control.rollback ≤ Config.securityVersion image)
    s.subject = [step, inst] → s.control.bootAt = some (step, inst) → s.control.absent step inst = false → i < s.control.boot.length →
    (step = 8 → ∀ p, p < 4 → (s.part p).gangs = [] ∧ (s.part p).saved = []) → fldN e 32 4 = 0 → ∃ t, exec .bootStep s = .next t ∧
      (runs → KeepsContexts s t ∧ t.mem = s.mem ∧ t.control.boot.getD i 0 = bootEntry step inst (bootFails e) 0 0 s.control.bootCount ∧
        t.control.bootAt = bootNext step inst ∧ (∀ a b, bootNext step inst = some (a, b) → Scheduled t .bootStep [a, b]) ∧
        t.control.svc = (if step = 4 then 1 else if step = 8 then 2 else s.control.svc) ∧ t.control.fencedDies = s.control.fencedDies ∧
        (step = 1 → inst = 0 → s.control.hssTop < 2 ^ 20 → t.control.hssTop = s.control.hssTop + 1 ∧ t.control.hssLeaf = 0)) ∧
      (¬runs → Reports t 0 0x2a 0 0 0 0 0 0 0 (pack [(8, step), (0, inst)]) 0 ∧
        fldN (t.control.boot.getD i 0) 40 8 ≠ 0 ∧ (step = 4 ∨ step = 8 → t.control.svc = 3 ∧ Reports t 0 0x2a 2 0 0 0 0 0 0 (pack [(8, step), (0, inst)]) 0) ∧
        (step = 6 → ∀ d, d < 4 → inst < d → d ∈ t.control.fencedDies ∧ ∀ p, p < 4 → d ∈ (s.part p).cfg.dies → t.part p = Part.reset) ∧ (step = 7 → inst ∈ t.control.fencedPorts))) ∧
  (∀ s : State, ∃ t, exec .deviceReset s = .next t ∧ t.mem = s.mem ∧ (∀ k, t.ctx k = Ctx.reset) ∧ (∀ n, t.core n = Core.reset) ∧ t.control.svc = 0 ∧
    t.control.boot = s.control.boot ∧ t.control.bootCount = s.control.bootCount + 1 ∧ t.control.bootAt = some (0, 0) ∧ t.control.clock = 8 ∧ t.cmds = [] ∧ t.accesses = [] ∧
    t.control.transcript = [] ∧ t.control.rollback = s.control.rollback ∧ t.control.hssTop = s.control.hssTop ∧ Scheduled t .bootStep [0, 0]) ∧
  (∀ s : State,
    let c := s.control
    let v : Byte := if c.request.head? = some 0x13 then 0x13 else 0x12
    let negotiates (i : Instr) (code : Byte) (p : List Byte → Prop) : Prop := ∃ t r, exec i s = .next t ∧ Responds s t r ∧ r.take 2 = [v, code] ∧ p r ∧
      t.control.transcript = c.transcript ++ c.request ++ r ∧ t.control.transcriptB = c.transcriptB ∧ t.control.transcriptL = []
    let certifies (i : Instr) (r : List Byte) : Prop := ∃ t, exec i s = .next t ∧ Responds s t r ∧ t.control.transcript = c.transcript ∧
      t.control.transcriptB = c.transcriptB ++ c.request ++ r ∧ t.control.transcriptL = []
    let signs (i : Instr) (more : List Byte) (p : List Byte → Prop) : Prop := ∃ t body, exec i s = .next t ∧ p body ∧
      Responds s t (body ++ Config.signature 0 c.alias_ (sha384 (c.transcript ++ more ++ c.request ++ body))) ∧
      t.control.signedOver = c.transcript ++ more ++ c.request ++ body ∧ t.control.transcript = c.transcript ∧ t.control.transcriptB = [] ∧ t.control.transcriptL = []
    let slot := s.reqByte 2 % 16
    let mask : Byte := BitVec.ofNat 8 s.slotMask
    let measures (body : List Byte) : Prop := body.take 2 = [v, 0x60] ∧ ∀ n, 1 ≤ n → n ≤ 5 → s.reqByte 3 = n ∨ s.reqByte 3 = 0xff → ∃ x y, body = x ++ sha384 (s.measured n) ++ y
    (∃ t, exec .getVersion s = .next t ∧ Responds s t [0x10, 0x04, 0, 0, 0, 2, 0x00, 0x12, 0x00, 0x13] ∧
      t.control.transcript = c.request ++ [0x10, 0x04, 0, 0, 0, 2, 0x00, 0x12, 0x00, 0x13] ∧ t.control.transcriptB = [] ∧ t.control.transcriptL = []) ∧
    negotiates .getCapabilities 0x61 (fun _ => True) ∧
    negotiates .negotiateAlgorithms 0x63 (fun r => (r.drop 8).take 12 = bytesLE 4 4 ++ bytesLE 4 0x80 ++ bytesLE 4 2) ∧
    (let chain := s.chain slot
     let off := s.reqByte 4 + 256 * s.reqByte 5
     let portion := (chain.drop off).take (s.reqByte 6 + 256 * s.reqByte 7)
     certifies .getCertificate ([v, 0x02, BitVec.ofNat 8 slot, 0] ++ bytesLE 2 portion.length ++ bytesLE 2 (chain.length - off - portion.length) ++ portion)) ∧
    certifies .getDigests ([v, 0x01, 0, mask] ++ s.chains.flatMap fun e => sha384 e.2) ∧
    (∀ i, i < 8 → (mask.getLsbD i = true ↔ i = 0 ∨ s.chain i ≠ [])) ∧
    signs .challenge c.transcriptB (fun body => body.take 4 = [v, 0x03, BitVec.ofNat 8 slot, mask] ∧ (body.drop 4).take (sha384 (s.chain slot)).length = sha384 (s.chain slot)) ∧
    (s.reqByte 2 % 2 = 1 → signs .getMeasurements c.transcriptL measures) ∧
    (s.reqByte 2 % 2 = 0 → ∃ t body, exec .getMeasurements s = .next t ∧ measures body ∧ Responds s t body ∧ t.control.signedOver = c.signedOver ∧
      t.control.transcript = c.transcript ∧ t.control.transcriptB = [] ∧ t.control.transcriptL = c.transcriptL ++ c.request ++ body) ∧
    (∃ t r, exec .vendorDefinedRequest s = .next t ∧ Responds s t r ∧ t.control.signedOver = c.signedOver ∧
      (s.namesPrieri = false → r.take 2 = [v, 0x7f] ∧ t.control.hssLeaf = c.hssLeaf ∧ t.control.hssTop = c.hssTop) ∧
      (s.namesPrieri = true →
        (c.hssLeaf < 32768 → t.control.hssLeaf = c.hssLeaf + 1 ∧ t.control.hssTop = c.hssTop ∧ r = [v, 0x7e, 0, 0] ++ Config.signature c.hssTop c.hssLeaf (sha384 c.signedOver)) ∧
        (32768 ≤ c.hssLeaf → c.hssTop < 2 ^ 20 → t.control.hssTop = c.hssTop + 1 ∧ t.control.hssLeaf = 1) ∧
        (32768 ≤ c.hssLeaf → 2 ^ 20 ≤ c.hssTop → t.control.hssTop = c.hssTop ∧ r.take 2 = [v, 0x7f])))) ∧
  ∀ s : State, (s.stopped = true → step s = .fault .bootStopped) ∧ (s.stopped = false → ∃ t, step s = .next t)

/-! Invariant, reset. -/

/-- Every step keeps the canonical form of memory: the list of cells rises strictly by address and lists nothing that reads as unlisted. This is the model's own form (log 2). -/
def Obligations.MemoryStaysCanonical : Prop := ∀ s t : State, s.Inv → step s = .next t → t.Inv
/-- The device after reset: memory lists nothing and is canonical (log 2); R31, R33, R318, R319, R321: no context is placed, the boot-step record is zero, the status reads 0 and step 0 of the boot is due. The values of
a context's registers at reset (s, a and v 0, every mask all ones, p0 alone 1, ring pair 0 and 1) are the model's choice, the constants of placement (log 1). -/
def Obligations.ResetHolds : Prop :=
  State.reset.Inv ∧ (∀ a, State.reset.mem.read a = 0) ∧ (∀ k, (State.reset.ctx k).iss.placed = false) ∧ (∀ n, (State.reset.core n).issuing = none) ∧
  State.reset.control.svc = 0 ∧ State.reset.barRead 0 8 = 0 ∧ State.reset.control.boot = List.replicate 64 0 ∧
  State.reset.pick = .run .bootStep { State.reset with subject := [0, 0], pending := [] } ∧
  (∀ n, Ctx.reset.regs.readS n = 0 ∧ Ctx.reset.regs.readA n = 0 ∧ Ctx.reset.regs.readV n = 0 ∧ Ctx.reset.regs.readK n = BitVec.allOnes 128 ∧
    Ctx.reset.regs.readP n = decide (n = 0)) ∧
  Ctx.reset.regs.ringA = 0 ∧ Ctx.reset.regs.ringB = 1
end

