-- ==== Sys2Proof/Laws/Sparse.lean ====
section
/-! SUPPORT. Laws of sparse tables and of memory: a read after a write, other places left alone, the canonical form kept. -/
namespace Sys2Proof.Machine
set_option Elab.async false

variable {α : Type}

@[simp] theorem Sp.get_nil (d : α) (i : Nat) : Sp.get d [] i = d := rfl
theorem Sp.get_del_same (d : α) (m : Sp α) (i : Nat) : Sp.get d (Sp.del m i) i = d := by
  induction m with
  | nil => rfl
  | cons e r ih =>
    by_cases h : e.1 = i
    · simpa [Sp.del, h] using ih
    · simpa [Sp.del, Sp.get, h] using ih
theorem Sp.get_del_other (d : α) (m : Sp α) {i j : Nat} (h : j ≠ i) : Sp.get d (Sp.del m i) j = Sp.get d m j := by
  induction m with
  | nil => rfl
  | cons e r ih =>
    by_cases he : e.1 = i
    · have : e.1 ≠ j := fun c => h (c.symm.trans he)
      simp [Sp.del, Sp.get, he, ih, show i ≠ j from fun c => h c.symm]
    · simp only [Sp.del, he, if_false, Sp.get, ih]
theorem Sp.get_ins_same (d : α) (m : Sp α) (i : Nat) (x : α) (h : ∀ e ∈ m, e.1 ≠ i) : Sp.get d (Sp.ins m i x) i = x := by
  induction m with
  | nil => simp [Sp.ins, Sp.get]
  | cons e r ih =>
    have he : e.1 ≠ i := h e (by simp)
    by_cases hl : i < e.1
    · simp [Sp.ins, Sp.get, hl]
    · simpa [Sp.ins, Sp.get, hl, he] using ih fun x hx => h x (by simp [hx])
theorem Sp.get_ins_other (d : α) (m : Sp α) {i j : Nat} (x : α) (h : j ≠ i) : Sp.get d (Sp.ins m i x) j = Sp.get d m j := by
  have hi : i ≠ j := fun c => h c.symm
  induction m with
  | nil => simp [Sp.ins, Sp.get, hi]
  | cons e r ih =>
    by_cases hl : i < e.1
    · simp [Sp.ins, Sp.get, hl, hi]
    · simp [Sp.ins, Sp.get, hl, ih]
theorem Sp.not_mem_del (m : Sp α) (i : Nat) : ∀ e ∈ Sp.del m i, e.1 ≠ i := by
  induction m with
  | nil => simp [Sp.del]
  | cons e r ih =>
    by_cases h : e.1 = i
    · simpa [Sp.del, h] using ih
    · intro x hx
      simp only [Sp.del, h, if_false, List.mem_cons] at hx
      rcases hx with rfl | hx
      · exact h
      · exact ih x hx

theorem Sp.del_of_not_mem (m : Sp α) (k : Nat) (hm : ∀ e ∈ m, e.1 ≠ k) : Sp.del m k = m := by
  induction m with
  | nil => rfl
  | cons e r ih => simp [Sp.del, hm e (by simp), ih fun x hx => hm x (by simp [hx])]
theorem Sp.del_ins (m : Sp α) (k : Nat) (x : α) (hm : ∀ e ∈ m, e.1 ≠ k) : Sp.del (Sp.ins m k x) k = m := by
  induction m with
  | nil => simp [Sp.ins, Sp.del]
  | cons e r ih =>
    have he := hm e (by simp)
    by_cases hl : k < e.1
    · simp [Sp.ins, hl, Sp.del, he, Sp.del_of_not_mem r k fun x hx => hm x (by simp [hx])]
    · simp [Sp.ins, hl, Sp.del, he, ih fun x hx => hm x (by simp [hx])]

variable [DecidableEq α]

/-- A write is what a later read gives. -/
@[simp] theorem Sp.get_put_same (d : α) (m : Sp α) (i : Nat) (x : α) : Sp.get d (Sp.put d m i x) i = x := by
  unfold Sp.put
  split
  · next h => rw [Sp.get_del_same, h]
  · exact Sp.get_ins_same d _ i x (Sp.not_mem_del m i)
/-- A write leaves every other key alone. -/
theorem Sp.get_put_other (d : α) (m : Sp α) {i j : Nat} (x : α) (h : j ≠ i) : Sp.get d (Sp.put d m i x) j = Sp.get d m j := by
  unfold Sp.put
  split
  · exact Sp.get_del_other d m h
  · rw [Sp.get_ins_other d _ x h, Sp.get_del_other d m h]
theorem Sp.get_put (d : α) (m : Sp α) (i j : Nat) (x : α) : Sp.get d (Sp.put d m i x) j = if j = i then x else Sp.get d m j := by
  split
  · next h => rw [h, Sp.get_put_same]
  · next h => exact Sp.get_put_other d m x h
/-- The last of two writes to one key counts. -/
theorem Sp.put_put (d : α) (m : Sp α) (k : Nat) (x y : α) : Sp.put d (Sp.put d m k x) k y = Sp.put d m k y := by
  have key : Sp.del (Sp.put d m k x) k = Sp.del m k := by
    unfold Sp.put
    split
    · exact Sp.del_of_not_mem _ k (Sp.not_mem_del m k)
    · exact Sp.del_ins _ k x (Sp.not_mem_del m k)
  rw [Sp.put, key, Sp.put]

/-! The canonical form. -/

theorem Sp.wfFrom_mono (d : α) (m : Sp α) {a b : Nat} (h : a ≤ b) (hm : Sp.wfFrom d b m = true) : Sp.wfFrom d a m = true := by
  cases m with
  | nil => rfl
  | cons e r =>
    simp only [Sp.wfFrom, Bool.and_eq_true, decide_eq_true_eq] at hm ⊢
    exact ⟨⟨Nat.le_trans h hm.1.1, hm.1.2⟩, hm.2⟩
theorem Sp.wfFrom_del (d : α) (m : Sp α) (i a : Nat) (hm : Sp.wfFrom d a m = true) : Sp.wfFrom d a (Sp.del m i) = true := by
  induction m generalizing a with
  | nil => rfl
  | cons e r ih =>
    simp only [Sp.wfFrom, Bool.and_eq_true, decide_eq_true_eq] at hm
    by_cases h : e.1 = i
    · simpa [Sp.del, h] using ih a (Sp.wfFrom_mono d r (by omega) hm.2)
    · simp [Sp.del, h, Sp.wfFrom, hm.1.1, hm.1.2, ih _ hm.2]
theorem Sp.wfFrom_ins (d : α) (m : Sp α) (i a : Nat) (x : α) (hx : x ≠ d) (ha : a ≤ i) (hi : ∀ e ∈ m, e.1 ≠ i)
    (hm : Sp.wfFrom d a m = true) : Sp.wfFrom d a (Sp.ins m i x) = true := by
  induction m generalizing a with
  | nil => simp [Sp.ins, Sp.wfFrom, hx, ha]
  | cons e r ih =>
    simp only [Sp.wfFrom, Bool.and_eq_true, decide_eq_true_eq] at hm
    have he : e.1 ≠ i := hi e (by simp)
    by_cases hl : i < e.1
    · simp only [Sp.ins, hl, if_true, Sp.wfFrom, Bool.and_eq_true, decide_eq_true_eq]
      exact ⟨⟨ha, hx⟩, ⟨by omega, hm.1.2⟩, hm.2⟩
    · simp only [Sp.ins, hl, if_false, Sp.wfFrom, Bool.and_eq_true, decide_eq_true_eq]
      exact ⟨hm.1, ih _ (by omega) (fun y hy => hi y (by simp [hy])) hm.2⟩
/-- A write keeps the canonical form. -/
theorem Sp.wf_put (d : α) (m : Sp α) (i : Nat) (x : α) (hm : Sp.wf d m = true) : Sp.wf d (Sp.put d m i x) = true := by
  unfold Sp.put Sp.wf at *
  split
  · exact Sp.wfFrom_del d m i 0 hm
  · next h => exact Sp.wfFrom_ins d _ i 0 x h (Nat.zero_le i) (Sp.not_mem_del m i) (Sp.wfFrom_del d m i 0 hm)
/-- Removing a key keeps the canonical form. -/
theorem Sp.wf_del (d : α) (m : Sp α) (i : Nat) (hm : Sp.wf d m = true) : Sp.wf d (Sp.del m i) = true := Sp.wfFrom_del d m i 0 hm

/-! Memory. -/

@[simp] theorem Memory.read_write_same (m : Memory) (a : Nat) (b : Byte) : (m.write a b).read a = b := Sp.get_put_same _ _ _ _
theorem Memory.read_write_other (m : Memory) {a c : Nat} (b : Byte) (h : c ≠ a) : (m.write a b).read c = m.read c :=
  Sp.get_put_other _ _ _ h
theorem Memory.wf_write (m : Memory) (a : Nat) (b : Byte) (h : m.wf = true) : (m.write a b).wf = true := Sp.wf_put _ _ _ _ h
/-- A write of several bytes leaves every address outside them alone. -/
theorem Memory.read_writeN_outside (l : List Byte) (m : Memory) {a c : Nat} (h : c < a ∨ a + l.length ≤ c) :
    (m.writeN a l).read c = m.read c := by
  induction l generalizing m a with
  | nil => rfl
  | cons b r ih =>
    simp only [List.length_cons] at h
    rw [Memory.writeN, ih _ (by omega), Memory.read_write_other m b (by omega)]
/-- Every byte written is what a later read gives. -/
theorem Memory.read_writeN_inside (l : List Byte) (m : Memory) (a i : Nat) (h : i < l.length) :
    (m.writeN a l).read (a + i) = l[i] := by
  induction l generalizing m a i with
  | nil => simp at h
  | cons b r ih =>
    cases i with
    | zero => rw [Memory.writeN, Memory.read_writeN_outside r _ (by omega)]; simp
    | succ i =>
      have := ih (m.write a b) (a + 1) i (by simpa using h)
      rw [Memory.writeN]
      simpa [Nat.add_comm, Nat.add_left_comm] using this
/-- Writing several bytes keeps the canonical form. -/
theorem Memory.wf_writeN (l : List Byte) (m : Memory) (a : Nat) (h : m.wf = true) : (m.writeN a l).wf = true := by
  induction l generalizing m a with
  | nil => exact h
  | cons b r ih => exact ih _ _ (Memory.wf_write m a b h)

end Sys2Proof.Machine
end

