-- ==== Sys2Proof/Laws/State.lean ====
section
/-! SUPPORT. What each update of the state leaves: one lemma a field and update, and what reading a context, core, die or partition gives
after a write. -/
namespace Sys2Proof.Machine
open Sys2Proof

/-! `State.setCtx`. -/

@[simp] theorem State.setCtx_cores (s : State) (k : Nat) (c : Ctx) : (s.setCtx k c).cores = s.cores := rfl
@[simp] theorem State.setCtx_mem (s : State) (k : Nat) (c : Ctx) : (s.setCtx k c).mem = s.mem := rfl
@[simp] theorem State.setCtx_dies (s : State) (k : Nat) (c : Ctx) : (s.setCtx k c).dies = s.dies := rfl
@[simp] theorem State.setCtx_parts (s : State) (k : Nat) (c : Ctx) : (s.setCtx k c).parts = s.parts := rfl
@[simp] theorem State.setCtx_cmds (s : State) (k : Nat) (c : Ctx) : (s.setCtx k c).cmds = s.cmds := rfl
@[simp] theorem State.setCtx_accesses (s : State) (k : Nat) (c : Ctx) : (s.setCtx k c).accesses = s.accesses := rfl
@[simp] theorem State.setCtx_seReqs (s : State) (k : Nat) (c : Ctx) : (s.setCtx k c).seReqs = s.seReqs := rfl
@[simp] theorem State.setCtx_fabric (s : State) (k : Nat) (c : Ctx) : (s.setCtx k c).fabric = s.fabric := rfl
@[simp] theorem State.setCtx_control (s : State) (k : Nat) (c : Ctx) : (s.setCtx k c).control = s.control := rfl
@[simp] theorem State.setCtx_now (s : State) (k : Nat) (c : Ctx) : (s.setCtx k c).now = s.now := rfl
@[simp] theorem State.setCtx_fresh (s : State) (k : Nat) (c : Ctx) : (s.setCtx k c).fresh = s.fresh := rfl
@[simp] theorem State.setCtx_cur (s : State) (k : Nat) (c : Ctx) : (s.setCtx k c).cur = s.cur := rfl
@[simp] theorem State.setCtx_subject (s : State) (k : Nat) (c : Ctx) : (s.setCtx k c).subject = s.subject := rfl
@[simp] theorem State.setCtx_redo (s : State) (k : Nat) (c : Ctx) : (s.setCtx k c).redo = s.redo := rfl
@[simp] theorem State.setCtx_pending (s : State) (k : Nat) (c : Ctx) : (s.setCtx k c).pending = s.pending := rfl
@[simp] theorem State.setCtx_turn (s : State) (k : Nat) (c : Ctx) : (s.setCtx k c).turn = s.turn := rfl
@[simp] theorem State.setCtx_attempt (s : State) (k : Nat) (c : Ctx) : (s.setCtx k c).attempt = s.attempt := rfl
@[simp] theorem State.setCtx_delayed (s : State) (k : Nat) (c : Ctx) : (s.setCtx k c).delayed = s.delayed := rfl

/-! `State.setCore`. -/

@[simp] theorem State.setCore_ctxs (s : State) (n : Nat) (c : Core) : (s.setCore n c).ctxs = s.ctxs := rfl
@[simp] theorem State.setCore_mem (s : State) (n : Nat) (c : Core) : (s.setCore n c).mem = s.mem := rfl
@[simp] theorem State.setCore_dies (s : State) (n : Nat) (c : Core) : (s.setCore n c).dies = s.dies := rfl
@[simp] theorem State.setCore_parts (s : State) (n : Nat) (c : Core) : (s.setCore n c).parts = s.parts := rfl
@[simp] theorem State.setCore_cmds (s : State) (n : Nat) (c : Core) : (s.setCore n c).cmds = s.cmds := rfl
@[simp] theorem State.setCore_accesses (s : State) (n : Nat) (c : Core) : (s.setCore n c).accesses = s.accesses := rfl
@[simp] theorem State.setCore_seReqs (s : State) (n : Nat) (c : Core) : (s.setCore n c).seReqs = s.seReqs := rfl
@[simp] theorem State.setCore_fabric (s : State) (n : Nat) (c : Core) : (s.setCore n c).fabric = s.fabric := rfl
@[simp] theorem State.setCore_control (s : State) (n : Nat) (c : Core) : (s.setCore n c).control = s.control := rfl
@[simp] theorem State.setCore_now (s : State) (n : Nat) (c : Core) : (s.setCore n c).now = s.now := rfl
@[simp] theorem State.setCore_fresh (s : State) (n : Nat) (c : Core) : (s.setCore n c).fresh = s.fresh := rfl
@[simp] theorem State.setCore_cur (s : State) (n : Nat) (c : Core) : (s.setCore n c).cur = s.cur := rfl
@[simp] theorem State.setCore_subject (s : State) (n : Nat) (c : Core) : (s.setCore n c).subject = s.subject := rfl
@[simp] theorem State.setCore_redo (s : State) (n : Nat) (c : Core) : (s.setCore n c).redo = s.redo := rfl
@[simp] theorem State.setCore_pending (s : State) (n : Nat) (c : Core) : (s.setCore n c).pending = s.pending := rfl
@[simp] theorem State.setCore_turn (s : State) (n : Nat) (c : Core) : (s.setCore n c).turn = s.turn := rfl
@[simp] theorem State.setCore_attempt (s : State) (n : Nat) (c : Core) : (s.setCore n c).attempt = s.attempt := rfl
@[simp] theorem State.setCore_delayed (s : State) (n : Nat) (c : Core) : (s.setCore n c).delayed = s.delayed := rfl

/-! `State.setDie`. -/

@[simp] theorem State.setDie_cores (s : State) (n : Nat) (d : Die) : (s.setDie n d).cores = s.cores := rfl
@[simp] theorem State.setDie_ctxs (s : State) (n : Nat) (d : Die) : (s.setDie n d).ctxs = s.ctxs := rfl
@[simp] theorem State.setDie_mem (s : State) (n : Nat) (d : Die) : (s.setDie n d).mem = s.mem := rfl
@[simp] theorem State.setDie_parts (s : State) (n : Nat) (d : Die) : (s.setDie n d).parts = s.parts := rfl
@[simp] theorem State.setDie_cmds (s : State) (n : Nat) (d : Die) : (s.setDie n d).cmds = s.cmds := rfl
@[simp] theorem State.setDie_accesses (s : State) (n : Nat) (d : Die) : (s.setDie n d).accesses = s.accesses := rfl
@[simp] theorem State.setDie_seReqs (s : State) (n : Nat) (d : Die) : (s.setDie n d).seReqs = s.seReqs := rfl
@[simp] theorem State.setDie_fabric (s : State) (n : Nat) (d : Die) : (s.setDie n d).fabric = s.fabric := rfl
@[simp] theorem State.setDie_control (s : State) (n : Nat) (d : Die) : (s.setDie n d).control = s.control := rfl
@[simp] theorem State.setDie_now (s : State) (n : Nat) (d : Die) : (s.setDie n d).now = s.now := rfl
@[simp] theorem State.setDie_fresh (s : State) (n : Nat) (d : Die) : (s.setDie n d).fresh = s.fresh := rfl
@[simp] theorem State.setDie_cur (s : State) (n : Nat) (d : Die) : (s.setDie n d).cur = s.cur := rfl
@[simp] theorem State.setDie_subject (s : State) (n : Nat) (d : Die) : (s.setDie n d).subject = s.subject := rfl
@[simp] theorem State.setDie_redo (s : State) (n : Nat) (d : Die) : (s.setDie n d).redo = s.redo := rfl
@[simp] theorem State.setDie_pending (s : State) (n : Nat) (d : Die) : (s.setDie n d).pending = s.pending := rfl
@[simp] theorem State.setDie_turn (s : State) (n : Nat) (d : Die) : (s.setDie n d).turn = s.turn := rfl
@[simp] theorem State.setDie_attempt (s : State) (n : Nat) (d : Die) : (s.setDie n d).attempt = s.attempt := rfl
@[simp] theorem State.setDie_delayed (s : State) (n : Nat) (d : Die) : (s.setDie n d).delayed = s.delayed := rfl

/-! `State.setPart`. -/

@[simp] theorem State.setPart_cores (s : State) (n : Nat) (p : Part) : (s.setPart n p).cores = s.cores := rfl
@[simp] theorem State.setPart_ctxs (s : State) (n : Nat) (p : Part) : (s.setPart n p).ctxs = s.ctxs := rfl
@[simp] theorem State.setPart_mem (s : State) (n : Nat) (p : Part) : (s.setPart n p).mem = s.mem := rfl
@[simp] theorem State.setPart_dies (s : State) (n : Nat) (p : Part) : (s.setPart n p).dies = s.dies := rfl
@[simp] theorem State.setPart_cmds (s : State) (n : Nat) (p : Part) : (s.setPart n p).cmds = s.cmds := rfl
@[simp] theorem State.setPart_accesses (s : State) (n : Nat) (p : Part) : (s.setPart n p).accesses = s.accesses := rfl
@[simp] theorem State.setPart_seReqs (s : State) (n : Nat) (p : Part) : (s.setPart n p).seReqs = s.seReqs := rfl
@[simp] theorem State.setPart_fabric (s : State) (n : Nat) (p : Part) : (s.setPart n p).fabric = s.fabric := rfl
@[simp] theorem State.setPart_control (s : State) (n : Nat) (p : Part) : (s.setPart n p).control = s.control := rfl
@[simp] theorem State.setPart_now (s : State) (n : Nat) (p : Part) : (s.setPart n p).now = s.now := rfl
@[simp] theorem State.setPart_fresh (s : State) (n : Nat) (p : Part) : (s.setPart n p).fresh = s.fresh := rfl
@[simp] theorem State.setPart_cur (s : State) (n : Nat) (p : Part) : (s.setPart n p).cur = s.cur := rfl
@[simp] theorem State.setPart_subject (s : State) (n : Nat) (p : Part) : (s.setPart n p).subject = s.subject := rfl
@[simp] theorem State.setPart_redo (s : State) (n : Nat) (p : Part) : (s.setPart n p).redo = s.redo := rfl
@[simp] theorem State.setPart_pending (s : State) (n : Nat) (p : Part) : (s.setPart n p).pending = s.pending := rfl
@[simp] theorem State.setPart_turn (s : State) (n : Nat) (p : Part) : (s.setPart n p).turn = s.turn := rfl
@[simp] theorem State.setPart_attempt (s : State) (n : Nat) (p : Part) : (s.setPart n p).attempt = s.attempt := rfl
@[simp] theorem State.setPart_delayed (s : State) (n : Nat) (p : Part) : (s.setPart n p).delayed = s.delayed := rfl

/-! `State.setMe`. -/

@[simp] theorem State.setMe_cores (s : State) (c : Ctx) : (s.setMe c).cores = s.cores := rfl
@[simp] theorem State.setMe_mem (s : State) (c : Ctx) : (s.setMe c).mem = s.mem := rfl
@[simp] theorem State.setMe_dies (s : State) (c : Ctx) : (s.setMe c).dies = s.dies := rfl
@[simp] theorem State.setMe_parts (s : State) (c : Ctx) : (s.setMe c).parts = s.parts := rfl
@[simp] theorem State.setMe_cmds (s : State) (c : Ctx) : (s.setMe c).cmds = s.cmds := rfl
@[simp] theorem State.setMe_accesses (s : State) (c : Ctx) : (s.setMe c).accesses = s.accesses := rfl
@[simp] theorem State.setMe_seReqs (s : State) (c : Ctx) : (s.setMe c).seReqs = s.seReqs := rfl
@[simp] theorem State.setMe_fabric (s : State) (c : Ctx) : (s.setMe c).fabric = s.fabric := rfl
@[simp] theorem State.setMe_control (s : State) (c : Ctx) : (s.setMe c).control = s.control := rfl
@[simp] theorem State.setMe_now (s : State) (c : Ctx) : (s.setMe c).now = s.now := rfl
@[simp] theorem State.setMe_fresh (s : State) (c : Ctx) : (s.setMe c).fresh = s.fresh := rfl
@[simp] theorem State.setMe_cur (s : State) (c : Ctx) : (s.setMe c).cur = s.cur := rfl
@[simp] theorem State.setMe_subject (s : State) (c : Ctx) : (s.setMe c).subject = s.subject := rfl
@[simp] theorem State.setMe_redo (s : State) (c : Ctx) : (s.setMe c).redo = s.redo := rfl
@[simp] theorem State.setMe_pending (s : State) (c : Ctx) : (s.setMe c).pending = s.pending := rfl
@[simp] theorem State.setMe_turn (s : State) (c : Ctx) : (s.setMe c).turn = s.turn := rfl
@[simp] theorem State.setMe_attempt (s : State) (c : Ctx) : (s.setMe c).attempt = s.attempt := rfl
@[simp] theorem State.setMe_delayed (s : State) (c : Ctx) : (s.setMe c).delayed = s.delayed := rfl

/-! `State.setHere`. -/

@[simp] theorem State.setHere_ctxs (s : State) (c : Core) : (s.setHere c).ctxs = s.ctxs := rfl
@[simp] theorem State.setHere_mem (s : State) (c : Core) : (s.setHere c).mem = s.mem := rfl
@[simp] theorem State.setHere_dies (s : State) (c : Core) : (s.setHere c).dies = s.dies := rfl
@[simp] theorem State.setHere_parts (s : State) (c : Core) : (s.setHere c).parts = s.parts := rfl
@[simp] theorem State.setHere_cmds (s : State) (c : Core) : (s.setHere c).cmds = s.cmds := rfl
@[simp] theorem State.setHere_accesses (s : State) (c : Core) : (s.setHere c).accesses = s.accesses := rfl
@[simp] theorem State.setHere_seReqs (s : State) (c : Core) : (s.setHere c).seReqs = s.seReqs := rfl
@[simp] theorem State.setHere_fabric (s : State) (c : Core) : (s.setHere c).fabric = s.fabric := rfl
@[simp] theorem State.setHere_control (s : State) (c : Core) : (s.setHere c).control = s.control := rfl
@[simp] theorem State.setHere_now (s : State) (c : Core) : (s.setHere c).now = s.now := rfl
@[simp] theorem State.setHere_fresh (s : State) (c : Core) : (s.setHere c).fresh = s.fresh := rfl
@[simp] theorem State.setHere_cur (s : State) (c : Core) : (s.setHere c).cur = s.cur := rfl
@[simp] theorem State.setHere_subject (s : State) (c : Core) : (s.setHere c).subject = s.subject := rfl
@[simp] theorem State.setHere_redo (s : State) (c : Core) : (s.setHere c).redo = s.redo := rfl
@[simp] theorem State.setHere_pending (s : State) (c : Core) : (s.setHere c).pending = s.pending := rfl
@[simp] theorem State.setHere_turn (s : State) (c : Core) : (s.setHere c).turn = s.turn := rfl
@[simp] theorem State.setHere_attempt (s : State) (c : Core) : (s.setHere c).attempt = s.attempt := rfl
@[simp] theorem State.setHere_delayed (s : State) (c : Core) : (s.setHere c).delayed = s.delayed := rfl

/-! `State.later`. -/

@[simp] theorem State.later_cores (s : State) (d : Nat) (i : Instr) (l : List Nat) : (s.later d i l).cores = s.cores := rfl
@[simp] theorem State.later_ctxs (s : State) (d : Nat) (i : Instr) (l : List Nat) : (s.later d i l).ctxs = s.ctxs := rfl
@[simp] theorem State.later_mem (s : State) (d : Nat) (i : Instr) (l : List Nat) : (s.later d i l).mem = s.mem := rfl
@[simp] theorem State.later_dies (s : State) (d : Nat) (i : Instr) (l : List Nat) : (s.later d i l).dies = s.dies := rfl
@[simp] theorem State.later_parts (s : State) (d : Nat) (i : Instr) (l : List Nat) : (s.later d i l).parts = s.parts := rfl
@[simp] theorem State.later_cmds (s : State) (d : Nat) (i : Instr) (l : List Nat) : (s.later d i l).cmds = s.cmds := rfl
@[simp] theorem State.later_accesses (s : State) (d : Nat) (i : Instr) (l : List Nat) : (s.later d i l).accesses = s.accesses := rfl
@[simp] theorem State.later_seReqs (s : State) (d : Nat) (i : Instr) (l : List Nat) : (s.later d i l).seReqs = s.seReqs := rfl
@[simp] theorem State.later_fabric (s : State) (d : Nat) (i : Instr) (l : List Nat) : (s.later d i l).fabric = s.fabric := rfl
@[simp] theorem State.later_control (s : State) (d : Nat) (i : Instr) (l : List Nat) : (s.later d i l).control = s.control := rfl
@[simp] theorem State.later_now (s : State) (d : Nat) (i : Instr) (l : List Nat) : (s.later d i l).now = s.now := rfl
@[simp] theorem State.later_fresh (s : State) (d : Nat) (i : Instr) (l : List Nat) : (s.later d i l).fresh = s.fresh := rfl
@[simp] theorem State.later_cur (s : State) (d : Nat) (i : Instr) (l : List Nat) : (s.later d i l).cur = s.cur := rfl
@[simp] theorem State.later_subject (s : State) (d : Nat) (i : Instr) (l : List Nat) : (s.later d i l).subject = s.subject := rfl
@[simp] theorem State.later_redo (s : State) (d : Nat) (i : Instr) (l : List Nat) : (s.later d i l).redo = s.redo := rfl
@[simp] theorem State.later_turn (s : State) (d : Nat) (i : Instr) (l : List Nat) : (s.later d i l).turn = s.turn := rfl
@[simp] theorem State.later_attempt (s : State) (d : Nat) (i : Instr) (l : List Nat) : (s.later d i l).attempt = s.attempt := rfl
@[simp] theorem State.later_delayed (s : State) (d : Nat) (i : Instr) (l : List Nat) : (s.later d i l).delayed = s.delayed := rfl

/-! `State.bump`. -/

@[simp] theorem State.bump_cores (s : State) : (s.bump).cores = s.cores := rfl
@[simp] theorem State.bump_ctxs (s : State) : (s.bump).ctxs = s.ctxs := rfl
@[simp] theorem State.bump_mem (s : State) : (s.bump).mem = s.mem := rfl
@[simp] theorem State.bump_dies (s : State) : (s.bump).dies = s.dies := rfl
@[simp] theorem State.bump_parts (s : State) : (s.bump).parts = s.parts := rfl
@[simp] theorem State.bump_cmds (s : State) : (s.bump).cmds = s.cmds := rfl
@[simp] theorem State.bump_accesses (s : State) : (s.bump).accesses = s.accesses := rfl
@[simp] theorem State.bump_seReqs (s : State) : (s.bump).seReqs = s.seReqs := rfl
@[simp] theorem State.bump_fabric (s : State) : (s.bump).fabric = s.fabric := rfl
@[simp] theorem State.bump_control (s : State) : (s.bump).control = s.control := rfl
@[simp] theorem State.bump_now (s : State) : (s.bump).now = s.now := rfl
@[simp] theorem State.bump_cur (s : State) : (s.bump).cur = s.cur := rfl
@[simp] theorem State.bump_subject (s : State) : (s.bump).subject = s.subject := rfl
@[simp] theorem State.bump_redo (s : State) : (s.bump).redo = s.redo := rfl
@[simp] theorem State.bump_pending (s : State) : (s.bump).pending = s.pending := rfl
@[simp] theorem State.bump_turn (s : State) : (s.bump).turn = s.turn := rfl
@[simp] theorem State.bump_attempt (s : State) : (s.bump).attempt = s.attempt := rfl
@[simp] theorem State.bump_delayed (s : State) : (s.bump).delayed = s.delayed := rfl

/-! `State.sometime`. -/

@[simp] theorem State.sometime_cores (s : State) (i : Instr) (l : List Nat) : (s.sometime i l).cores = s.cores := rfl
@[simp] theorem State.sometime_ctxs (s : State) (i : Instr) (l : List Nat) : (s.sometime i l).ctxs = s.ctxs := rfl
@[simp] theorem State.sometime_mem (s : State) (i : Instr) (l : List Nat) : (s.sometime i l).mem = s.mem := rfl
@[simp] theorem State.sometime_dies (s : State) (i : Instr) (l : List Nat) : (s.sometime i l).dies = s.dies := rfl
@[simp] theorem State.sometime_parts (s : State) (i : Instr) (l : List Nat) : (s.sometime i l).parts = s.parts := rfl
@[simp] theorem State.sometime_cmds (s : State) (i : Instr) (l : List Nat) : (s.sometime i l).cmds = s.cmds := rfl
@[simp] theorem State.sometime_accesses (s : State) (i : Instr) (l : List Nat) : (s.sometime i l).accesses = s.accesses := rfl
@[simp] theorem State.sometime_seReqs (s : State) (i : Instr) (l : List Nat) : (s.sometime i l).seReqs = s.seReqs := rfl
@[simp] theorem State.sometime_fabric (s : State) (i : Instr) (l : List Nat) : (s.sometime i l).fabric = s.fabric := rfl
@[simp] theorem State.sometime_control (s : State) (i : Instr) (l : List Nat) : (s.sometime i l).control = s.control := rfl
@[simp] theorem State.sometime_now (s : State) (i : Instr) (l : List Nat) : (s.sometime i l).now = s.now := rfl
@[simp] theorem State.sometime_cur (s : State) (i : Instr) (l : List Nat) : (s.sometime i l).cur = s.cur := rfl
@[simp] theorem State.sometime_subject (s : State) (i : Instr) (l : List Nat) : (s.sometime i l).subject = s.subject := rfl
@[simp] theorem State.sometime_redo (s : State) (i : Instr) (l : List Nat) : (s.sometime i l).redo = s.redo := rfl
@[simp] theorem State.sometime_turn (s : State) (i : Instr) (l : List Nat) : (s.sometime i l).turn = s.turn := rfl
@[simp] theorem State.sometime_attempt (s : State) (i : Instr) (l : List Nat) : (s.sometime i l).attempt = s.attempt := rfl
@[simp] theorem State.sometime_delayed (s : State) (i : Instr) (l : List Nat) : (s.sometime i l).delayed = s.delayed := rfl

/-! `State.lands`. -/

@[simp] theorem State.lands_cores (s : State) (rs : List Result) : (s.lands rs).cores = s.cores := rfl
@[simp] theorem State.lands_mem (s : State) (rs : List Result) : (s.lands rs).mem = s.mem := rfl
@[simp] theorem State.lands_dies (s : State) (rs : List Result) : (s.lands rs).dies = s.dies := rfl
@[simp] theorem State.lands_parts (s : State) (rs : List Result) : (s.lands rs).parts = s.parts := rfl
@[simp] theorem State.lands_cmds (s : State) (rs : List Result) : (s.lands rs).cmds = s.cmds := rfl
@[simp] theorem State.lands_accesses (s : State) (rs : List Result) : (s.lands rs).accesses = s.accesses := rfl
@[simp] theorem State.lands_seReqs (s : State) (rs : List Result) : (s.lands rs).seReqs = s.seReqs := rfl
@[simp] theorem State.lands_fabric (s : State) (rs : List Result) : (s.lands rs).fabric = s.fabric := rfl
@[simp] theorem State.lands_control (s : State) (rs : List Result) : (s.lands rs).control = s.control := rfl
@[simp] theorem State.lands_now (s : State) (rs : List Result) : (s.lands rs).now = s.now := rfl
@[simp] theorem State.lands_fresh (s : State) (rs : List Result) : (s.lands rs).fresh = s.fresh := rfl
@[simp] theorem State.lands_cur (s : State) (rs : List Result) : (s.lands rs).cur = s.cur := rfl
@[simp] theorem State.lands_subject (s : State) (rs : List Result) : (s.lands rs).subject = s.subject := rfl
@[simp] theorem State.lands_redo (s : State) (rs : List Result) : (s.lands rs).redo = s.redo := rfl
@[simp] theorem State.lands_pending (s : State) (rs : List Result) : (s.lands rs).pending = s.pending := rfl
@[simp] theorem State.lands_turn (s : State) (rs : List Result) : (s.lands rs).turn = s.turn := rfl
@[simp] theorem State.lands_attempt (s : State) (rs : List Result) : (s.lands rs).attempt = s.attempt := rfl
@[simp] theorem State.lands_delayed (s : State) (rs : List Result) : (s.lands rs).delayed = s.delayed := rfl

/-! `State.setLane`. -/

@[simp] theorem State.setLane_cores (s : State) (l : Lane) : (s.setLane l).cores = s.cores := rfl
@[simp] theorem State.setLane_ctxs (s : State) (l : Lane) : (s.setLane l).ctxs = s.ctxs := rfl
@[simp] theorem State.setLane_mem (s : State) (l : Lane) : (s.setLane l).mem = s.mem := rfl
@[simp] theorem State.setLane_dies (s : State) (l : Lane) : (s.setLane l).dies = s.dies := rfl
@[simp] theorem State.setLane_parts (s : State) (l : Lane) : (s.setLane l).parts = s.parts := rfl
@[simp] theorem State.setLane_cmds (s : State) (l : Lane) : (s.setLane l).cmds = s.cmds := rfl
@[simp] theorem State.setLane_accesses (s : State) (l : Lane) : (s.setLane l).accesses = s.accesses := rfl
@[simp] theorem State.setLane_seReqs (s : State) (l : Lane) : (s.setLane l).seReqs = s.seReqs := rfl
@[simp] theorem State.setLane_fabric (s : State) (l : Lane) : (s.setLane l).fabric = s.fabric := rfl
@[simp] theorem State.setLane_control (s : State) (l : Lane) : (s.setLane l).control = s.control := rfl
@[simp] theorem State.setLane_now (s : State) (l : Lane) : (s.setLane l).now = s.now := rfl
@[simp] theorem State.setLane_fresh (s : State) (l : Lane) : (s.setLane l).fresh = s.fresh := rfl
@[simp] theorem State.setLane_subject (s : State) (l : Lane) : (s.setLane l).subject = s.subject := rfl
@[simp] theorem State.setLane_redo (s : State) (l : Lane) : (s.setLane l).redo = s.redo := rfl
@[simp] theorem State.setLane_pending (s : State) (l : Lane) : (s.setLane l).pending = s.pending := rfl
@[simp] theorem State.setLane_turn (s : State) (l : Lane) : (s.setLane l).turn = s.turn := rfl
@[simp] theorem State.setLane_attempt (s : State) (l : Lane) : (s.setLane l).attempt = s.attempt := rfl
@[simp] theorem State.setLane_delayed (s : State) (l : Lane) : (s.setLane l).delayed = s.delayed := rfl

/-! `State.msix`. -/

@[simp] theorem State.msix_cores (s : State) (v : Nat) : (s.msix v).cores = s.cores := rfl
@[simp] theorem State.msix_ctxs (s : State) (v : Nat) : (s.msix v).ctxs = s.ctxs := rfl
@[simp] theorem State.msix_mem (s : State) (v : Nat) : (s.msix v).mem = s.mem := rfl
@[simp] theorem State.msix_dies (s : State) (v : Nat) : (s.msix v).dies = s.dies := rfl
@[simp] theorem State.msix_parts (s : State) (v : Nat) : (s.msix v).parts = s.parts := rfl
@[simp] theorem State.msix_cmds (s : State) (v : Nat) : (s.msix v).cmds = s.cmds := rfl
@[simp] theorem State.msix_accesses (s : State) (v : Nat) : (s.msix v).accesses = s.accesses := rfl
@[simp] theorem State.msix_seReqs (s : State) (v : Nat) : (s.msix v).seReqs = s.seReqs := rfl
@[simp] theorem State.msix_fabric (s : State) (v : Nat) : (s.msix v).fabric = s.fabric := rfl
@[simp] theorem State.msix_now (s : State) (v : Nat) : (s.msix v).now = s.now := rfl
@[simp] theorem State.msix_fresh (s : State) (v : Nat) : (s.msix v).fresh = s.fresh := rfl
@[simp] theorem State.msix_cur (s : State) (v : Nat) : (s.msix v).cur = s.cur := rfl
@[simp] theorem State.msix_subject (s : State) (v : Nat) : (s.msix v).subject = s.subject := rfl
@[simp] theorem State.msix_redo (s : State) (v : Nat) : (s.msix v).redo = s.redo := rfl
@[simp] theorem State.msix_pending (s : State) (v : Nat) : (s.msix v).pending = s.pending := rfl
@[simp] theorem State.msix_turn (s : State) (v : Nat) : (s.msix v).turn = s.turn := rfl
@[simp] theorem State.msix_attempt (s : State) (v : Nat) : (s.msix v).attempt = s.attempt := rfl
@[simp] theorem State.msix_delayed (s : State) (v : Nat) : (s.msix v).delayed = s.delayed := rfl

/-! `State.wakes`. -/

@[simp] theorem State.wakes_cores (s : State) (l : List Nat) : (s.wakes l).cores = s.cores := rfl
@[simp] theorem State.wakes_ctxs (s : State) (l : List Nat) : (s.wakes l).ctxs = s.ctxs := rfl
@[simp] theorem State.wakes_mem (s : State) (l : List Nat) : (s.wakes l).mem = s.mem := rfl
@[simp] theorem State.wakes_dies (s : State) (l : List Nat) : (s.wakes l).dies = s.dies := rfl
@[simp] theorem State.wakes_parts (s : State) (l : List Nat) : (s.wakes l).parts = s.parts := rfl
@[simp] theorem State.wakes_cmds (s : State) (l : List Nat) : (s.wakes l).cmds = s.cmds := rfl
@[simp] theorem State.wakes_accesses (s : State) (l : List Nat) : (s.wakes l).accesses = s.accesses := rfl
@[simp] theorem State.wakes_seReqs (s : State) (l : List Nat) : (s.wakes l).seReqs = s.seReqs := rfl
@[simp] theorem State.wakes_control (s : State) (l : List Nat) : (s.wakes l).control = s.control := rfl
@[simp] theorem State.wakes_now (s : State) (l : List Nat) : (s.wakes l).now = s.now := rfl
@[simp] theorem State.wakes_fresh (s : State) (l : List Nat) : (s.wakes l).fresh = s.fresh := rfl
@[simp] theorem State.wakes_cur (s : State) (l : List Nat) : (s.wakes l).cur = s.cur := rfl
@[simp] theorem State.wakes_subject (s : State) (l : List Nat) : (s.wakes l).subject = s.subject := rfl
@[simp] theorem State.wakes_redo (s : State) (l : List Nat) : (s.wakes l).redo = s.redo := rfl
@[simp] theorem State.wakes_turn (s : State) (l : List Nat) : (s.wakes l).turn = s.turn := rfl
@[simp] theorem State.wakes_attempt (s : State) (l : List Nat) : (s.wakes l).attempt = s.attempt := rfl
@[simp] theorem State.wakes_delayed (s : State) (l : List Nat) : (s.wakes l).delayed = s.delayed := rfl

/-! `State.travels`. -/

@[simp] theorem State.travels_cores (s : State) : (s.travels).cores = s.cores := rfl
@[simp] theorem State.travels_ctxs (s : State) : (s.travels).ctxs = s.ctxs := rfl
@[simp] theorem State.travels_mem (s : State) : (s.travels).mem = s.mem := rfl
@[simp] theorem State.travels_dies (s : State) : (s.travels).dies = s.dies := rfl
@[simp] theorem State.travels_parts (s : State) : (s.travels).parts = s.parts := rfl
@[simp] theorem State.travels_cmds (s : State) : (s.travels).cmds = s.cmds := rfl
@[simp] theorem State.travels_accesses (s : State) : (s.travels).accesses = s.accesses := rfl
@[simp] theorem State.travels_seReqs (s : State) : (s.travels).seReqs = s.seReqs := rfl
@[simp] theorem State.travels_control (s : State) : (s.travels).control = s.control := rfl
@[simp] theorem State.travels_now (s : State) : (s.travels).now = s.now := rfl
@[simp] theorem State.travels_fresh (s : State) : (s.travels).fresh = s.fresh := rfl
@[simp] theorem State.travels_cur (s : State) : (s.travels).cur = s.cur := rfl
@[simp] theorem State.travels_subject (s : State) : (s.travels).subject = s.subject := rfl
@[simp] theorem State.travels_redo (s : State) : (s.travels).redo = s.redo := rfl
@[simp] theorem State.travels_turn (s : State) : (s.travels).turn = s.turn := rfl
@[simp] theorem State.travels_attempt (s : State) : (s.travels).attempt = s.attempt := rfl
@[simp] theorem State.travels_delayed (s : State) : (s.travels).delayed = s.delayed := rfl

/-! `State.setFar`. -/

@[simp] theorem State.setFar_cores (s : State) (h t : Nat) (m : Sp (Option Byte)) : (s.setFar h t m).cores = s.cores := rfl
@[simp] theorem State.setFar_ctxs (s : State) (h t : Nat) (m : Sp (Option Byte)) : (s.setFar h t m).ctxs = s.ctxs := rfl
@[simp] theorem State.setFar_mem (s : State) (h t : Nat) (m : Sp (Option Byte)) : (s.setFar h t m).mem = s.mem := rfl
@[simp] theorem State.setFar_dies (s : State) (h t : Nat) (m : Sp (Option Byte)) : (s.setFar h t m).dies = s.dies := rfl
@[simp] theorem State.setFar_parts (s : State) (h t : Nat) (m : Sp (Option Byte)) : (s.setFar h t m).parts = s.parts := rfl
@[simp] theorem State.setFar_cmds (s : State) (h t : Nat) (m : Sp (Option Byte)) : (s.setFar h t m).cmds = s.cmds := rfl
@[simp] theorem State.setFar_accesses (s : State) (h t : Nat) (m : Sp (Option Byte)) : (s.setFar h t m).accesses = s.accesses := rfl
@[simp] theorem State.setFar_seReqs (s : State) (h t : Nat) (m : Sp (Option Byte)) : (s.setFar h t m).seReqs = s.seReqs := rfl
@[simp] theorem State.setFar_control (s : State) (h t : Nat) (m : Sp (Option Byte)) : (s.setFar h t m).control = s.control := rfl
@[simp] theorem State.setFar_now (s : State) (h t : Nat) (m : Sp (Option Byte)) : (s.setFar h t m).now = s.now := rfl
@[simp] theorem State.setFar_fresh (s : State) (h t : Nat) (m : Sp (Option Byte)) : (s.setFar h t m).fresh = s.fresh := rfl
@[simp] theorem State.setFar_cur (s : State) (h t : Nat) (m : Sp (Option Byte)) : (s.setFar h t m).cur = s.cur := rfl
@[simp] theorem State.setFar_subject (s : State) (h t : Nat) (m : Sp (Option Byte)) : (s.setFar h t m).subject = s.subject := rfl
@[simp] theorem State.setFar_redo (s : State) (h t : Nat) (m : Sp (Option Byte)) : (s.setFar h t m).redo = s.redo := rfl
@[simp] theorem State.setFar_pending (s : State) (h t : Nat) (m : Sp (Option Byte)) : (s.setFar h t m).pending = s.pending := rfl
@[simp] theorem State.setFar_turn (s : State) (h t : Nat) (m : Sp (Option Byte)) : (s.setFar h t m).turn = s.turn := rfl
@[simp] theorem State.setFar_attempt (s : State) (h t : Nat) (m : Sp (Option Byte)) : (s.setFar h t m).attempt = s.attempt := rfl
@[simp] theorem State.setFar_delayed (s : State) (h t : Nat) (m : Sp (Option Byte)) : (s.setFar h t m).delayed = s.delayed := rfl

/-! `State.setUnmaps`. -/

@[simp] theorem State.setUnmaps_cores (s : State) (l : List Unmap) : (s.setUnmaps l).cores = s.cores := rfl
@[simp] theorem State.setUnmaps_ctxs (s : State) (l : List Unmap) : (s.setUnmaps l).ctxs = s.ctxs := rfl
@[simp] theorem State.setUnmaps_mem (s : State) (l : List Unmap) : (s.setUnmaps l).mem = s.mem := rfl
@[simp] theorem State.setUnmaps_dies (s : State) (l : List Unmap) : (s.setUnmaps l).dies = s.dies := rfl
@[simp] theorem State.setUnmaps_parts (s : State) (l : List Unmap) : (s.setUnmaps l).parts = s.parts := rfl
@[simp] theorem State.setUnmaps_cmds (s : State) (l : List Unmap) : (s.setUnmaps l).cmds = s.cmds := rfl
@[simp] theorem State.setUnmaps_accesses (s : State) (l : List Unmap) : (s.setUnmaps l).accesses = s.accesses := rfl
@[simp] theorem State.setUnmaps_seReqs (s : State) (l : List Unmap) : (s.setUnmaps l).seReqs = s.seReqs := rfl
@[simp] theorem State.setUnmaps_control (s : State) (l : List Unmap) : (s.setUnmaps l).control = s.control := rfl
@[simp] theorem State.setUnmaps_now (s : State) (l : List Unmap) : (s.setUnmaps l).now = s.now := rfl
@[simp] theorem State.setUnmaps_fresh (s : State) (l : List Unmap) : (s.setUnmaps l).fresh = s.fresh := rfl
@[simp] theorem State.setUnmaps_cur (s : State) (l : List Unmap) : (s.setUnmaps l).cur = s.cur := rfl
@[simp] theorem State.setUnmaps_subject (s : State) (l : List Unmap) : (s.setUnmaps l).subject = s.subject := rfl
@[simp] theorem State.setUnmaps_redo (s : State) (l : List Unmap) : (s.setUnmaps l).redo = s.redo := rfl
@[simp] theorem State.setUnmaps_pending (s : State) (l : List Unmap) : (s.setUnmaps l).pending = s.pending := rfl
@[simp] theorem State.setUnmaps_turn (s : State) (l : List Unmap) : (s.setUnmaps l).turn = s.turn := rfl
@[simp] theorem State.setUnmaps_attempt (s : State) (l : List Unmap) : (s.setUnmaps l).attempt = s.attempt := rfl
@[simp] theorem State.setUnmaps_delayed (s : State) (l : List Unmap) : (s.setUnmaps l).delayed = s.delayed := rfl

/-! `State.setComm`. -/

@[simp] theorem State.setComm_cores (s : State) (die comm : Nat) (c : Comm) : (s.setComm die comm c).cores = s.cores := rfl
@[simp] theorem State.setComm_ctxs (s : State) (die comm : Nat) (c : Comm) : (s.setComm die comm c).ctxs = s.ctxs := rfl
@[simp] theorem State.setComm_mem (s : State) (die comm : Nat) (c : Comm) : (s.setComm die comm c).mem = s.mem := rfl
@[simp] theorem State.setComm_dies (s : State) (die comm : Nat) (c : Comm) : (s.setComm die comm c).dies = s.dies := rfl
@[simp] theorem State.setComm_parts (s : State) (die comm : Nat) (c : Comm) : (s.setComm die comm c).parts = s.parts := rfl
@[simp] theorem State.setComm_cmds (s : State) (die comm : Nat) (c : Comm) : (s.setComm die comm c).cmds = s.cmds := rfl
@[simp] theorem State.setComm_accesses (s : State) (die comm : Nat) (c : Comm) : (s.setComm die comm c).accesses = s.accesses := rfl
@[simp] theorem State.setComm_seReqs (s : State) (die comm : Nat) (c : Comm) : (s.setComm die comm c).seReqs = s.seReqs := rfl
@[simp] theorem State.setComm_control (s : State) (die comm : Nat) (c : Comm) : (s.setComm die comm c).control = s.control := rfl
@[simp] theorem State.setComm_now (s : State) (die comm : Nat) (c : Comm) : (s.setComm die comm c).now = s.now := rfl
@[simp] theorem State.setComm_fresh (s : State) (die comm : Nat) (c : Comm) : (s.setComm die comm c).fresh = s.fresh := rfl
@[simp] theorem State.setComm_cur (s : State) (die comm : Nat) (c : Comm) : (s.setComm die comm c).cur = s.cur := rfl
@[simp] theorem State.setComm_subject (s : State) (die comm : Nat) (c : Comm) : (s.setComm die comm c).subject = s.subject := rfl
@[simp] theorem State.setComm_redo (s : State) (die comm : Nat) (c : Comm) : (s.setComm die comm c).redo = s.redo := rfl
@[simp] theorem State.setComm_pending (s : State) (die comm : Nat) (c : Comm) : (s.setComm die comm c).pending = s.pending := rfl
@[simp] theorem State.setComm_turn (s : State) (die comm : Nat) (c : Comm) : (s.setComm die comm c).turn = s.turn := rfl
@[simp] theorem State.setComm_attempt (s : State) (die comm : Nat) (c : Comm) : (s.setComm die comm c).attempt = s.attempt := rfl
@[simp] theorem State.setComm_delayed (s : State) (die comm : Nat) (c : Comm) : (s.setComm die comm c).delayed = s.delayed := rfl

/-! `State.setCle`. -/

@[simp] theorem State.setCle_cores (s : State) (die comm : Nat) (c : Cle) : (s.setCle die comm c).cores = s.cores := rfl
@[simp] theorem State.setCle_ctxs (s : State) (die comm : Nat) (c : Cle) : (s.setCle die comm c).ctxs = s.ctxs := rfl
@[simp] theorem State.setCle_mem (s : State) (die comm : Nat) (c : Cle) : (s.setCle die comm c).mem = s.mem := rfl
@[simp] theorem State.setCle_dies (s : State) (die comm : Nat) (c : Cle) : (s.setCle die comm c).dies = s.dies := rfl
@[simp] theorem State.setCle_parts (s : State) (die comm : Nat) (c : Cle) : (s.setCle die comm c).parts = s.parts := rfl
@[simp] theorem State.setCle_cmds (s : State) (die comm : Nat) (c : Cle) : (s.setCle die comm c).cmds = s.cmds := rfl
@[simp] theorem State.setCle_accesses (s : State) (die comm : Nat) (c : Cle) : (s.setCle die comm c).accesses = s.accesses := rfl
@[simp] theorem State.setCle_seReqs (s : State) (die comm : Nat) (c : Cle) : (s.setCle die comm c).seReqs = s.seReqs := rfl
@[simp] theorem State.setCle_control (s : State) (die comm : Nat) (c : Cle) : (s.setCle die comm c).control = s.control := rfl
@[simp] theorem State.setCle_now (s : State) (die comm : Nat) (c : Cle) : (s.setCle die comm c).now = s.now := rfl
@[simp] theorem State.setCle_fresh (s : State) (die comm : Nat) (c : Cle) : (s.setCle die comm c).fresh = s.fresh := rfl
@[simp] theorem State.setCle_cur (s : State) (die comm : Nat) (c : Cle) : (s.setCle die comm c).cur = s.cur := rfl
@[simp] theorem State.setCle_subject (s : State) (die comm : Nat) (c : Cle) : (s.setCle die comm c).subject = s.subject := rfl
@[simp] theorem State.setCle_redo (s : State) (die comm : Nat) (c : Cle) : (s.setCle die comm c).redo = s.redo := rfl
@[simp] theorem State.setCle_pending (s : State) (die comm : Nat) (c : Cle) : (s.setCle die comm c).pending = s.pending := rfl
@[simp] theorem State.setCle_turn (s : State) (die comm : Nat) (c : Cle) : (s.setCle die comm c).turn = s.turn := rfl
@[simp] theorem State.setCle_attempt (s : State) (die comm : Nat) (c : Cle) : (s.setCle die comm c).attempt = s.attempt := rfl
@[simp] theorem State.setCle_delayed (s : State) (die comm : Nat) (c : Cle) : (s.setCle die comm c).delayed = s.delayed := rfl

/-! `State.setCache`. -/

@[simp] theorem State.setCache_cores (s : State) (l : List Cached) : (s.setCache l).cores = s.cores := rfl
@[simp] theorem State.setCache_ctxs (s : State) (l : List Cached) : (s.setCache l).ctxs = s.ctxs := rfl
@[simp] theorem State.setCache_mem (s : State) (l : List Cached) : (s.setCache l).mem = s.mem := rfl
@[simp] theorem State.setCache_dies (s : State) (l : List Cached) : (s.setCache l).dies = s.dies := rfl
@[simp] theorem State.setCache_parts (s : State) (l : List Cached) : (s.setCache l).parts = s.parts := rfl
@[simp] theorem State.setCache_cmds (s : State) (l : List Cached) : (s.setCache l).cmds = s.cmds := rfl
@[simp] theorem State.setCache_accesses (s : State) (l : List Cached) : (s.setCache l).accesses = s.accesses := rfl
@[simp] theorem State.setCache_seReqs (s : State) (l : List Cached) : (s.setCache l).seReqs = s.seReqs := rfl
@[simp] theorem State.setCache_control (s : State) (l : List Cached) : (s.setCache l).control = s.control := rfl
@[simp] theorem State.setCache_now (s : State) (l : List Cached) : (s.setCache l).now = s.now := rfl
@[simp] theorem State.setCache_fresh (s : State) (l : List Cached) : (s.setCache l).fresh = s.fresh := rfl
@[simp] theorem State.setCache_cur (s : State) (l : List Cached) : (s.setCache l).cur = s.cur := rfl
@[simp] theorem State.setCache_subject (s : State) (l : List Cached) : (s.setCache l).subject = s.subject := rfl
@[simp] theorem State.setCache_redo (s : State) (l : List Cached) : (s.setCache l).redo = s.redo := rfl
@[simp] theorem State.setCache_pending (s : State) (l : List Cached) : (s.setCache l).pending = s.pending := rfl
@[simp] theorem State.setCache_turn (s : State) (l : List Cached) : (s.setCache l).turn = s.turn := rfl
@[simp] theorem State.setCache_attempt (s : State) (l : List Cached) : (s.setCache l).attempt = s.attempt := rfl
@[simp] theorem State.setCache_delayed (s : State) (l : List Cached) : (s.setCache l).delayed = s.delayed := rfl

/-! `State.setStubs`. -/

@[simp] theorem State.setStubs_cores (s : State) (l : List Stub) : (s.setStubs l).cores = s.cores := rfl
@[simp] theorem State.setStubs_ctxs (s : State) (l : List Stub) : (s.setStubs l).ctxs = s.ctxs := rfl
@[simp] theorem State.setStubs_mem (s : State) (l : List Stub) : (s.setStubs l).mem = s.mem := rfl
@[simp] theorem State.setStubs_dies (s : State) (l : List Stub) : (s.setStubs l).dies = s.dies := rfl
@[simp] theorem State.setStubs_parts (s : State) (l : List Stub) : (s.setStubs l).parts = s.parts := rfl
@[simp] theorem State.setStubs_cmds (s : State) (l : List Stub) : (s.setStubs l).cmds = s.cmds := rfl
@[simp] theorem State.setStubs_accesses (s : State) (l : List Stub) : (s.setStubs l).accesses = s.accesses := rfl
@[simp] theorem State.setStubs_seReqs (s : State) (l : List Stub) : (s.setStubs l).seReqs = s.seReqs := rfl
@[simp] theorem State.setStubs_control (s : State) (l : List Stub) : (s.setStubs l).control = s.control := rfl
@[simp] theorem State.setStubs_now (s : State) (l : List Stub) : (s.setStubs l).now = s.now := rfl
@[simp] theorem State.setStubs_fresh (s : State) (l : List Stub) : (s.setStubs l).fresh = s.fresh := rfl
@[simp] theorem State.setStubs_cur (s : State) (l : List Stub) : (s.setStubs l).cur = s.cur := rfl
@[simp] theorem State.setStubs_subject (s : State) (l : List Stub) : (s.setStubs l).subject = s.subject := rfl
@[simp] theorem State.setStubs_redo (s : State) (l : List Stub) : (s.setStubs l).redo = s.redo := rfl
@[simp] theorem State.setStubs_pending (s : State) (l : List Stub) : (s.setStubs l).pending = s.pending := rfl
@[simp] theorem State.setStubs_turn (s : State) (l : List Stub) : (s.setStubs l).turn = s.turn := rfl
@[simp] theorem State.setStubs_attempt (s : State) (l : List Stub) : (s.setStubs l).attempt = s.attempt := rfl
@[simp] theorem State.setStubs_delayed (s : State) (l : List Stub) : (s.setStubs l).delayed = s.delayed := rfl

/-! `State.setPort`. -/

@[simp] theorem State.setPort_cores (s : State) (n : Nat) (p : Port) : (s.setPort n p).cores = s.cores := rfl
@[simp] theorem State.setPort_ctxs (s : State) (n : Nat) (p : Port) : (s.setPort n p).ctxs = s.ctxs := rfl
@[simp] theorem State.setPort_mem (s : State) (n : Nat) (p : Port) : (s.setPort n p).mem = s.mem := rfl
@[simp] theorem State.setPort_dies (s : State) (n : Nat) (p : Port) : (s.setPort n p).dies = s.dies := rfl
@[simp] theorem State.setPort_parts (s : State) (n : Nat) (p : Port) : (s.setPort n p).parts = s.parts := rfl
@[simp] theorem State.setPort_cmds (s : State) (n : Nat) (p : Port) : (s.setPort n p).cmds = s.cmds := rfl
@[simp] theorem State.setPort_accesses (s : State) (n : Nat) (p : Port) : (s.setPort n p).accesses = s.accesses := rfl
@[simp] theorem State.setPort_seReqs (s : State) (n : Nat) (p : Port) : (s.setPort n p).seReqs = s.seReqs := rfl
@[simp] theorem State.setPort_control (s : State) (n : Nat) (p : Port) : (s.setPort n p).control = s.control := rfl
@[simp] theorem State.setPort_now (s : State) (n : Nat) (p : Port) : (s.setPort n p).now = s.now := rfl
@[simp] theorem State.setPort_fresh (s : State) (n : Nat) (p : Port) : (s.setPort n p).fresh = s.fresh := rfl
@[simp] theorem State.setPort_cur (s : State) (n : Nat) (p : Port) : (s.setPort n p).cur = s.cur := rfl
@[simp] theorem State.setPort_subject (s : State) (n : Nat) (p : Port) : (s.setPort n p).subject = s.subject := rfl
@[simp] theorem State.setPort_redo (s : State) (n : Nat) (p : Port) : (s.setPort n p).redo = s.redo := rfl
@[simp] theorem State.setPort_pending (s : State) (n : Nat) (p : Port) : (s.setPort n p).pending = s.pending := rfl
@[simp] theorem State.setPort_turn (s : State) (n : Nat) (p : Port) : (s.setPort n p).turn = s.turn := rfl
@[simp] theorem State.setPort_attempt (s : State) (n : Nat) (p : Port) : (s.setPort n p).attempt = s.attempt := rfl
@[simp] theorem State.setPort_delayed (s : State) (n : Nat) (p : Port) : (s.setPort n p).delayed = s.delayed := rfl

/-! `State.setReplay`. -/

@[simp] theorem State.setReplay_cores (s : State) (die comm slot : Nat) (r : Option Replay) : (s.setReplay die comm slot r).cores = s.cores := rfl
@[simp] theorem State.setReplay_ctxs (s : State) (die comm slot : Nat) (r : Option Replay) : (s.setReplay die comm slot r).ctxs = s.ctxs := rfl
@[simp] theorem State.setReplay_mem (s : State) (die comm slot : Nat) (r : Option Replay) : (s.setReplay die comm slot r).mem = s.mem := rfl
@[simp] theorem State.setReplay_dies (s : State) (die comm slot : Nat) (r : Option Replay) : (s.setReplay die comm slot r).dies = s.dies := rfl
@[simp] theorem State.setReplay_parts (s : State) (die comm slot : Nat) (r : Option Replay) : (s.setReplay die comm slot r).parts = s.parts := rfl
@[simp] theorem State.setReplay_cmds (s : State) (die comm slot : Nat) (r : Option Replay) : (s.setReplay die comm slot r).cmds = s.cmds := rfl
@[simp] theorem State.setReplay_accesses (s : State) (die comm slot : Nat) (r : Option Replay) : (s.setReplay die comm slot r).accesses = s.accesses := rfl
@[simp] theorem State.setReplay_seReqs (s : State) (die comm slot : Nat) (r : Option Replay) : (s.setReplay die comm slot r).seReqs = s.seReqs := rfl
@[simp] theorem State.setReplay_control (s : State) (die comm slot : Nat) (r : Option Replay) : (s.setReplay die comm slot r).control = s.control := rfl
@[simp] theorem State.setReplay_now (s : State) (die comm slot : Nat) (r : Option Replay) : (s.setReplay die comm slot r).now = s.now := rfl
@[simp] theorem State.setReplay_fresh (s : State) (die comm slot : Nat) (r : Option Replay) : (s.setReplay die comm slot r).fresh = s.fresh := rfl
@[simp] theorem State.setReplay_cur (s : State) (die comm slot : Nat) (r : Option Replay) : (s.setReplay die comm slot r).cur = s.cur := rfl
@[simp] theorem State.setReplay_subject (s : State) (die comm slot : Nat) (r : Option Replay) : (s.setReplay die comm slot r).subject = s.subject := rfl
@[simp] theorem State.setReplay_redo (s : State) (die comm slot : Nat) (r : Option Replay) : (s.setReplay die comm slot r).redo = s.redo := rfl
@[simp] theorem State.setReplay_pending (s : State) (die comm slot : Nat) (r : Option Replay) : (s.setReplay die comm slot r).pending = s.pending := rfl
@[simp] theorem State.setReplay_turn (s : State) (die comm slot : Nat) (r : Option Replay) : (s.setReplay die comm slot r).turn = s.turn := rfl
@[simp] theorem State.setReplay_attempt (s : State) (die comm slot : Nat) (r : Option Replay) : (s.setReplay die comm slot r).attempt = s.attempt := rfl
@[simp] theorem State.setReplay_delayed (s : State) (die comm slot : Nat) (r : Option Replay) : (s.setReplay die comm slot r).delayed = s.delayed := rfl

/-! `State.setCmd`. -/

@[simp] theorem State.setCmd_cores (s : State) (c : Cmd) : (s.setCmd c).cores = s.cores := rfl
@[simp] theorem State.setCmd_ctxs (s : State) (c : Cmd) : (s.setCmd c).ctxs = s.ctxs := rfl
@[simp] theorem State.setCmd_mem (s : State) (c : Cmd) : (s.setCmd c).mem = s.mem := rfl
@[simp] theorem State.setCmd_dies (s : State) (c : Cmd) : (s.setCmd c).dies = s.dies := rfl
@[simp] theorem State.setCmd_parts (s : State) (c : Cmd) : (s.setCmd c).parts = s.parts := rfl
@[simp] theorem State.setCmd_accesses (s : State) (c : Cmd) : (s.setCmd c).accesses = s.accesses := rfl
@[simp] theorem State.setCmd_seReqs (s : State) (c : Cmd) : (s.setCmd c).seReqs = s.seReqs := rfl
@[simp] theorem State.setCmd_fabric (s : State) (c : Cmd) : (s.setCmd c).fabric = s.fabric := rfl
@[simp] theorem State.setCmd_control (s : State) (c : Cmd) : (s.setCmd c).control = s.control := rfl
@[simp] theorem State.setCmd_now (s : State) (c : Cmd) : (s.setCmd c).now = s.now := rfl
@[simp] theorem State.setCmd_fresh (s : State) (c : Cmd) : (s.setCmd c).fresh = s.fresh := rfl
@[simp] theorem State.setCmd_cur (s : State) (c : Cmd) : (s.setCmd c).cur = s.cur := rfl
@[simp] theorem State.setCmd_subject (s : State) (c : Cmd) : (s.setCmd c).subject = s.subject := rfl
@[simp] theorem State.setCmd_redo (s : State) (c : Cmd) : (s.setCmd c).redo = s.redo := rfl
@[simp] theorem State.setCmd_pending (s : State) (c : Cmd) : (s.setCmd c).pending = s.pending := rfl
@[simp] theorem State.setCmd_turn (s : State) (c : Cmd) : (s.setCmd c).turn = s.turn := rfl
@[simp] theorem State.setCmd_attempt (s : State) (c : Cmd) : (s.setCmd c).attempt = s.attempt := rfl
@[simp] theorem State.setCmd_delayed (s : State) (c : Cmd) : (s.setCmd c).delayed = s.delayed := rfl

/-! `State.setAccess`. -/

@[simp] theorem State.setAccess_cores (s : State) (a : Access) : (s.setAccess a).cores = s.cores := rfl
@[simp] theorem State.setAccess_ctxs (s : State) (a : Access) : (s.setAccess a).ctxs = s.ctxs := rfl
@[simp] theorem State.setAccess_mem (s : State) (a : Access) : (s.setAccess a).mem = s.mem := rfl
@[simp] theorem State.setAccess_dies (s : State) (a : Access) : (s.setAccess a).dies = s.dies := rfl
@[simp] theorem State.setAccess_parts (s : State) (a : Access) : (s.setAccess a).parts = s.parts := rfl
@[simp] theorem State.setAccess_cmds (s : State) (a : Access) : (s.setAccess a).cmds = s.cmds := rfl
@[simp] theorem State.setAccess_seReqs (s : State) (a : Access) : (s.setAccess a).seReqs = s.seReqs := rfl
@[simp] theorem State.setAccess_fabric (s : State) (a : Access) : (s.setAccess a).fabric = s.fabric := rfl
@[simp] theorem State.setAccess_control (s : State) (a : Access) : (s.setAccess a).control = s.control := rfl
@[simp] theorem State.setAccess_now (s : State) (a : Access) : (s.setAccess a).now = s.now := rfl
@[simp] theorem State.setAccess_fresh (s : State) (a : Access) : (s.setAccess a).fresh = s.fresh := rfl
@[simp] theorem State.setAccess_cur (s : State) (a : Access) : (s.setAccess a).cur = s.cur := rfl
@[simp] theorem State.setAccess_subject (s : State) (a : Access) : (s.setAccess a).subject = s.subject := rfl
@[simp] theorem State.setAccess_redo (s : State) (a : Access) : (s.setAccess a).redo = s.redo := rfl
@[simp] theorem State.setAccess_pending (s : State) (a : Access) : (s.setAccess a).pending = s.pending := rfl
@[simp] theorem State.setAccess_turn (s : State) (a : Access) : (s.setAccess a).turn = s.turn := rfl
@[simp] theorem State.setAccess_attempt (s : State) (a : Access) : (s.setAccess a).attempt = s.attempt := rfl
@[simp] theorem State.setAccess_delayed (s : State) (a : Access) : (s.setAccess a).delayed = s.delayed := rfl

/-! Reading after a write. -/

@[simp] theorem State.ctx_setCtx_same (s : State) (k : Nat) (c : Ctx) : (s.setCtx k c).ctx k = c := Sp.get_put_same _ _ _ _
theorem State.ctx_setCtx_other (s : State) {k j : Nat} (c : Ctx) (h : j ≠ k) : (s.setCtx k c).ctx j = s.ctx j := Sp.get_put_other _ _ _ h
@[simp] theorem State.core_setCore_same (s : State) (n : Nat) (c : Core) : (s.setCore n c).core n = c := Sp.get_put_same _ _ _ _
theorem State.core_setCore_other (s : State) {n m : Nat} (c : Core) (h : m ≠ n) : (s.setCore n c).core m = s.core m := Sp.get_put_other _ _ _ h
@[simp] theorem State.die_setDie_same (s : State) (n : Nat) (d : Die) : (s.setDie n d).die n = d := Sp.get_put_same _ _ _ _
theorem State.die_setDie_other (s : State) {n m : Nat} (d : Die) (h : m ≠ n) : (s.setDie n d).die m = s.die m := Sp.get_put_other _ _ _ h
@[simp] theorem State.part_setPart_same (s : State) (n : Nat) (p : Part) : (s.setPart n p).part n = p := Sp.get_put_same _ _ _ _
theorem State.part_setPart_other (s : State) {n m : Nat} (p : Part) (h : m ≠ n) : (s.setPart n p).part m = s.part m := Sp.get_put_other _ _ _ h
@[simp] theorem State.core_setCtx (s : State) (k n : Nat) (c : Ctx) : (s.setCtx k c).core n = s.core n := rfl
@[simp] theorem State.die_setCtx (s : State) (k n : Nat) (c : Ctx) : (s.setCtx k c).die n = s.die n := rfl
@[simp] theorem State.part_setCtx (s : State) (k n : Nat) (c : Ctx) : (s.setCtx k c).part n = s.part n := rfl
@[simp] theorem State.ctx_setCore (s : State) (k n : Nat) (c : Core) : (s.setCore n c).ctx k = s.ctx k := rfl
@[simp] theorem State.die_setCore (s : State) (k n : Nat) (c : Core) : (s.setCore n c).die k = s.die k := rfl
@[simp] theorem State.part_setCore (s : State) (k n : Nat) (c : Core) : (s.setCore n c).part k = s.part k := rfl
@[simp] theorem State.ctx_setDie (s : State) (k n : Nat) (d : Die) : (s.setDie n d).ctx k = s.ctx k := rfl
@[simp] theorem State.core_setDie (s : State) (k n : Nat) (d : Die) : (s.setDie n d).core k = s.core k := rfl
@[simp] theorem State.part_setDie (s : State) (k n : Nat) (d : Die) : (s.setDie n d).part k = s.part k := rfl
@[simp] theorem State.ctx_setPart (s : State) (k n : Nat) (p : Part) : (s.setPart n p).ctx k = s.ctx k := rfl
@[simp] theorem State.core_setPart (s : State) (k n : Nat) (p : Part) : (s.setPart n p).core k = s.core k := rfl
@[simp] theorem State.die_setPart (s : State) (k n : Nat) (p : Part) : (s.setPart n p).die k = s.die k := rfl
@[simp] theorem State.ck_setCtx (s : State) (k : Nat) (c : Ctx) : (s.setCtx k c).ck = s.ck := rfl
@[simp] theorem State.ck_setMe (s : State) (c : Ctx) : (s.setMe c).ck = s.ck := rfl
@[simp] theorem State.ck_setCore (s : State) (n : Nat) (c : Core) : (s.setCore n c).ck = s.ck := rfl
@[simp] theorem State.ck_setHere (s : State) (c : Core) : (s.setHere c).ck = s.ck := rfl
@[simp] theorem State.me_setMe (s : State) (c : Ctx) : (s.setMe c).me = c := State.ctx_setCtx_same s s.ck c
@[simp] theorem State.me_setHere (s : State) (c : Core) : (s.setHere c).me = s.me := rfl
@[simp] theorem State.here_setMe (s : State) (c : Ctx) : (s.setMe c).here = s.here := rfl
@[simp] theorem State.here_setHere (s : State) (c : Core) : (s.setHere c).here = c := State.core_setCore_same s s.cur.core c
@[simp] theorem State.me_bump (s : State) : s.bump.me = s.me := rfl
@[simp] theorem State.here_bump (s : State) : s.bump.here = s.here := rfl
@[simp] theorem State.ctx_bump (s : State) (k : Nat) : s.bump.ctx k = s.ctx k := rfl
@[simp] theorem State.core_bump (s : State) (n : Nat) : s.bump.core n = s.core n := rfl
@[simp] theorem State.cle_setCle_same (s : State) (die comm : Nat) (c : Cle) : (s.setCle die comm c).cle die comm = c := Sp.get_put_same _ _ _ _
@[simp] theorem State.comm_setComm_same (s : State) (die comm : Nat) (c : Comm) : (s.setComm die comm c).comm die comm = c := Sp.get_put_same _ _ _ _
@[simp] theorem State.comm_setCle (s : State) (die comm n m : Nat) (c : Cle) : (s.setCle die comm c).comm n m = s.comm n m := rfl
@[simp] theorem State.cle_setComm (s : State) (die comm n m : Nat) (c : Comm) : (s.setComm die comm c).cle n m = s.cle n m := rfl
@[simp] theorem State.cle_setReplay (s : State) (die comm slot n m : Nat) (r : Option Replay) : (s.setReplay die comm slot r).cle n m = s.cle n m := rfl
@[simp] theorem State.replayOf_setReplay_none (s : State) (die comm slot : Nat) : (s.setReplay die comm slot none).replayOf die comm slot = none := by
  simp only [State.replayOf, State.setReplay, Option.toList_none, List.nil_append, List.find?_eq_none, List.mem_filter]
  intro x h
  have := h.2
  simp only [Bool.not_eq_true', ← Bool.not_eq_true] at this
  exact this
@[simp] theorem State.replayOf_setReplay_some (s : State) (r : Replay) : (s.setReplay r.die r.comm r.slot (some r)).replayOf r.die r.comm r.slot = some r := by
  simp [State.replayOf, State.setReplay]

/-! Results. -/

@[simp] theorem State.me_lands (s : State) (rs : List Result) : (s.lands rs).me = { s.me with landing := s.me.landing ++ rs } :=
  State.me_setMe s _
@[simp] theorem State.ck_lands (s : State) (rs : List Result) : (s.lands rs).ck = s.ck := rfl
@[simp] theorem State.tick_lands (s : State) (rs : List Result) : (s.lands rs).tick = s.tick := by simp [State.tick]
theorem State.ctx_lands_other (s : State) (rs : List Result) {k : Nat} (h : k ≠ s.ck) : (s.lands rs).ctx k = s.ctx k :=
  State.ctx_setCtx_other s _ h
@[simp] theorem State.core_lands (s : State) (rs : List Result) (n : Nat) : (s.lands rs).core n = s.core n := rfl
/-- Every result of an operation joins the landing buffer and does nothing else. -/
theorem State.result_eq (s : State) (L : Nat) (d : Dest) (v m : Row) (f : BitVec 6) : s.result L d v m f = s.lands [s.lander L d v m f] := rfl
theorem State.resultW_eq (s : State) (L : Nat) (d : Dest) (v : Word64) : s.resultW L d v = s.landsS L d v := rfl
theorem State.resultV_eq (s : State) (n L : Nat) (v m : Row) (f : BitVec 6) :
    s.resultV n L v m f = s.lands [s.lander (vLat n L) (s.vDest n) v m f] := rfl
theorem State.resultP_eq (s : State) (pd : BitVec 4) (b : Bool) : s.resultP pd.toNat b = s.landsP pd b := rfl
theorem State.resultK_eq (s : State) (kd : BitVec 3) (x : BitVec 128) : s.resultK kd x = s.landsK kd x := rfl
theorem State.setMe_setMe (s : State) (c d : Ctx) : (s.setMe c).setMe d = s.setMe d := by
  simp only [State.setMe, State.setCtx, State.ck]
  rw [Sp.put_put]
/-- Results of one operation that land one after another are one list of results. -/
theorem State.lands_lands (s : State) (a b : List Result) : (s.lands a).lands b = s.lands (a ++ b) := by
  rw [State.lands, State.me_lands, State.lands, State.setMe_setMe, State.lands]
  simp only [List.append_assoc]

end Sys2Proof.Machine
end

