-- ==== Sys2Proof/Laws/Lanes.lean ====
section
/-! SUPPORT. What a lane-wise operation answers, lane by lane (R146, R148). -/
namespace Sys2Proof.Machine
set_option Elab.async false
open Sys2Proof

/-- Lanes of a number. -/
def laneNat (x w i : Nat) : Nat := (x >>> (i * w)) % 2 ^ w

theorem laneN_ofNat (x w i : Nat) (h : (i + 1) * w ≤ 1024) : laneN (BitVec.ofNat 1024 x) w i = laneNat x w i := by
  simp only [laneN, laneNat, BitVec.toNat_ofNat]
  apply Nat.eq_of_testBit_eq
  intro j
  simp only [Nat.testBit_mod_two_pow, Nat.testBit_shiftRight]
  by_cases hj : j < w
  · have : i * w + j < 1024 := by
      have : (i + 1) * w = i * w + w := Nat.succ_mul i w
      omega
    simp [this]
  · simp [hj]
theorem laneNat_zero (a b w : Nat) (h : a < 2 ^ w) : laneNat (a + b * 2 ^ w) w 0 = a := by
  simp [laneNat, Nat.add_mul_mod_self_right, Nat.mod_eq_of_lt h]
theorem laneNat_succ (a b w i : Nat) (h : a < 2 ^ w) : laneNat (a + b * 2 ^ w) w (i + 1) = laneNat b w i := by
  have e : (a + b * 2 ^ w) >>> ((i + 1) * w) = b >>> (i * w) := by
    rw [Nat.succ_mul, Nat.add_comm (i * w) w, Nat.shiftRight_add, Nat.shiftRight_eq_div_pow _ w,
      Nat.add_mul_div_right _ _ (Nat.two_pow_pos w), Nat.div_eq_of_lt h, Nat.zero_add]
  simp only [laneNat, e]
/-- Lane j of a lane map: written whole where f answers a value, else not written. -/
theorem mapLanes_lane (w : Nat) (f : Nat → Option (Nat × FFlags)) (n i j : Nat) (h : j < n) :
    laneNat (mapLanes w f n i).mask w j = (if (f (i + j)).isSome then 2 ^ w - 1 else 0) ∧
    laneNat (mapLanes w f n i).val w j = (match f (i + j) with | some p => p.1 % 2 ^ w | none => 0) := by
  induction n generalizing i j with
  | zero => omega
  | succ n ih =>
    have hw : 2 ^ w - 1 < 2 ^ w := Nat.sub_one_lt (Nat.ne_of_gt (Nat.two_pow_pos w))
    cases j with
    | zero =>
      cases hf : f i with
      | none =>
        have := laneNat_zero 0 (mapLanes w f n (i + 1)).mask w (Nat.two_pow_pos w)
        have := laneNat_zero 0 (mapLanes w f n (i + 1)).val w (Nat.two_pow_pos w)
        simp_all [mapLanes]
      | some p =>
        simp [mapLanes, hf, laneNat_zero _ _ _ hw, laneNat_zero _ _ _ (Nat.mod_lt p.1 (Nat.two_pow_pos w))]
    | succ j =>
      have hs := ih (i + 1) j (by omega)
      have e : i + 1 + j = i + (j + 1) := by omega
      rw [e] at hs
      cases hf : f i with
      | none =>
        have h1 := laneNat_succ 0 (mapLanes w f n (i + 1)).mask w j (Nat.two_pow_pos w)
        have h2 := laneNat_succ 0 (mapLanes w f n (i + 1)).val w j (Nat.two_pow_pos w)
        simp only [Nat.zero_add] at h1 h2
        simp only [mapLanes, hf, h1, h2]
        exact hs
      | some p =>
        simp only [mapLanes, hf, laneNat_succ _ _ _ _ hw, laneNat_succ _ _ _ _ (Nat.mod_lt p.1 (Nat.two_pow_pos w))]
        exact hs
theorem foldl_or_init (f : Nat → FFlags) (g : Nat → Bool) (l : List Nat) (a : FFlags) :
    l.foldl (fun x i => if g i then x ||| f i else x) a = a ||| l.foldl (fun x i => if g i then x ||| f i else x) 0 := by
  induction l generalizing a with
  | nil => simp
  | cons i l ih =>
    simp only [List.foldl_cons]
    rw [ih, ih (if g i then (0 : FFlags) ||| f i else 0)]
    cases g i <;> simp [BitVec.or_assoc]
/-- The flags of a lane map are those of its active lanes. -/
theorem mapLanes_flags (w : Nat) (act : Nat → Bool) (g : Nat → Nat × FFlags) (n i : Nat) :
    (mapLanes w (fun j => if act j then some (g j) else none) n i).flags =
      (List.range' i n).foldl (fun x j => if act j then x ||| (g j).2 else x) 0 := by
  induction n generalizing i with
  | zero => rfl
  | succ n ih =>
    simp only [mapLanes, List.range'_succ, List.foldl_cons]
    rw [foldl_or_init (fun j => (g j).2)]
    cases h : act i <;> simp [ih]
/-- A lane map as a result: what the active lanes hold, what is not written, the flags. -/
theorem mapLanes_result (r : Result) (w n : Nat) (act : Nat → Bool) (g : Nat → Nat × FFlags) (hn : n * w ≤ 1024)
    (hv : r.val = BitVec.ofNat 1024 (mapLanes w (fun j => if act j then some (g j) else none) n 0).val)
    (hm : r.mask = BitVec.ofNat 1024 (mapLanes w (fun j => if act j then some (g j) else none) n 0).mask) :
    LaneResult r w n act g := by
  intro j hj
  have hb : (j + 1) * w ≤ 1024 := Nat.le_trans (Nat.mul_le_mul_right w hj) hn
  have := mapLanes_lane w (fun j => if act j then some (g j) else none) n 0 j hj
  rw [hv, hm, laneN_ofNat _ _ _ hb, laneN_ofNat _ _ _ hb, this.1, this.2, Nat.zero_add]
  constructor <;> intro h <;> simp [h]
theorem mapLanes_flagsOver (w : Nat) (act : Nat → Bool) (g : Nat → Nat × FFlags) (n : Nat) :
    (mapLanes w (fun j => if act j then some (g j) else none) n 0).flags = flagsOver act g n := by
  rw [mapLanes_flags, flagsOver, List.range_eq_range']
/-- An instruction that lands a lane map meets the lane-wise claim about it. -/
theorem landsLanes_of (i : Instr) (s : State) (d : BitVec 10) (L w n : Nat) (act : Nat → Bool) (g : Nat → Nat × FFlags)
    (hn : n * w ≤ 1024)
    (h : exec i s = .next (s.resultL d L (mapLanes w (fun j => if act j then some (g j) else none) n 0))) :
    LandsLanes i s d L w n act g :=
  ⟨_, h.trans rfl, rfl, rfl, rfl, mapLanes_flagsOver w act g n, mapLanes_result _ w n act g hn rfl rfl⟩

end Sys2Proof.Machine
end

