-- ==== Sys2Proof/Laws/Ops.lean ====
section
/-! SUPPORT. What each shared operation of Machine/Ops.lean can do, once: taking an event and coming back from it, choosing a context,
scratchpad rows and guards, ring counters, partition memory, records. -/
namespace Sys2Proof.Machine
set_option Elab.async false
open Sys2Proof

/-! Choosing and stopping a context (R31). -/

theorem State.setCore_setCore (s : State) (n : Nat) (c d : Core) : (s.setCore n c).setCore n d = s.setCore n d := by
  simp [State.setCore, Sp.put_put]
/-- The selector changes only who issues on its core, whether the core is gated, and when it chose. -/
theorem State.select_cases (s : State) (n : Nat) :
    s.select n = s ∨ ∃ i g t, s.select n = s.setCore n { s.core n with issuing := i, gated := g, choose := t } := by
  unfold State.select
  dsimp only
  split
  · exact .inl rfl
  · split
    · exact .inr ⟨_, _, _, rfl⟩
    · exact .inr ⟨_, _, _, rfl⟩
/-- Stopping changes only who issues on its core, who issued last, whether the core is gated, and when it chose. -/
theorem State.stops_cases (s : State) (n slot : Nat) :
    s.stops n slot = s ∨
      ∃ i l g t, s.stops n slot = s.setCore n { s.core n with issuing := i, last := l, gated := g, choose := t } := by
  unfold State.stops
  dsimp only
  split
  · refine .inr ?_
    rcases State.select_cases (s.setCore n { s.core n with issuing := none, last := slot, choose := none }) n with h | ⟨i, g, t, h⟩ <;> rw [h]
    · exact ⟨_, _, _, _, rfl⟩
    · rw [State.core_setCore_same, State.setCore_setCore]
      exact ⟨i, slot, g, t, rfl⟩
  · exact .inl rfl
/-- Stopping leaves contexts, dies, partitions, memory, the cycle and every other core. -/
theorem State.stops_keeps (s : State) (n slot : Nat) :
    (s.stops n slot).ctxs = s.ctxs ∧ (s.stops n slot).dies = s.dies ∧ (s.stops n slot).parts = s.parts ∧ (s.stops n slot).mem = s.mem ∧
      (s.stops n slot).now = s.now ∧ (∀ m, m ≠ n → (s.stops n slot).core m = s.core m) ∧
      ((s.stops n slot).core n).rows = (s.core n).rows ∧ ((s.stops n slot).core n).guards = (s.core n).guards := by
  rcases State.stops_cases s n slot with h | ⟨i, l, g, t, h⟩ <;> rw [h]
  · simp
  · refine ⟨rfl, rfl, rfl, rfl, rfl, fun m hm => State.core_setCore_other _ _ hm, ?_, ?_⟩ <;> simp

/-! Taking an event and coming back (R30, R330, R336). -/

/-- Firmware makes an entry valid: memory keeps its canonical form, and everything but memory stays. -/
theorem State.validate_keeps (s : State) (p f : Nat) :
    (s.mem.wf = true → (s.validate p f).mem.wf = true) ∧ (s.validate p f).ctxs = s.ctxs ∧ (s.validate p f).cores = s.cores ∧
      (s.validate p f).dies = s.dies ∧ (s.validate p f).parts = s.parts ∧ (s.validate p f).now = s.now := by
  unfold State.validate
  split
  · exact ⟨fun h => by simpa using Memory.wf_write s.mem _ _ h, rfl, rfl, rfl, rfl, rfl⟩
  · exact ⟨id, rfl, rfl, rfl, rfl, rfl⟩
/-- Firmware's answer only schedules work. -/
theorem State.answer_keeps (s : State) (n slot code sub info : Nat) :
    (s.answer n slot code sub info).ctxs = s.ctxs ∧ (s.answer n slot code sub info).cores = s.cores ∧ (s.answer n slot code sub info).dies = s.dies ∧
      (s.answer n slot code sub info).parts = s.parts ∧ (s.answer n slot code sub info).now = s.now ∧ (s.answer n slot code sub info).mem = s.mem := by
  unfold State.answer
  dsimp only
  split
  · simp
  · split
    · simp
    · split
      · split <;> simp
      · split
        · simp
        · split <;> simp
/-- Changing cores one by one by a function that keeps one field keeps that field of every core, and everything that is no core. -/
theorem State.mapCores_keeps {α : Type} (f : Nat → Core → Core) (p : Core → α) (hf : ∀ n c, p (f n c) = p c) (l : List Nat) (s : State) :
    (∀ m, p ((s.mapCores f l).core m) = p (s.core m)) ∧ (s.mapCores f l).ctxs = s.ctxs ∧ (s.mapCores f l).dies = s.dies ∧
      (s.mapCores f l).parts = s.parts ∧ (s.mapCores f l).mem = s.mem ∧ (s.mapCores f l).now = s.now := by
  induction l generalizing s with
  | nil => simp [State.mapCores]
  | cons c r ih =>
    obtain ⟨h1, h2, h3, h4, h5, h6⟩ := ih (s.setCore c (f c (s.core c)))
    refine ⟨fun m => (h1 m).trans ?_, h2, h3, h4, h5, h6⟩
    by_cases h : m = c
    · subst h; rw [State.core_setCore_same, hf]
    · rw [State.core_setCore_other _ _ h]
/-- Leaving a knot changes, of the contexts, whether that one counts as arrived; of the cores, what is reserved; and the gang's knot. -/
theorem State.unArrive_keeps (s : State) (n slot : Nat) :
    (∃ a, (s.unArrive n slot).ctx (Machine.ck n slot) = { s.ctx (Machine.ck n slot) with iss := { (s.ctx (Machine.ck n slot)).iss with arrived := a } }) ∧
      (∀ k, k ≠ Machine.ck n slot → (s.unArrive n slot).ctx k = s.ctx k) ∧
      (∀ m, { (s.unArrive n slot).core m with reserved := none } = { s.core m with reserved := none }) ∧
      (s.unArrive n slot).dies = s.dies ∧ (s.unArrive n slot).mem = s.mem ∧ (s.unArrive n slot).now = s.now := by
  have same : ∃ a, s.ctx (Machine.ck n slot) = { s.ctx (Machine.ck n slot) with iss := { (s.ctx (Machine.ck n slot)).iss with arrived := a } } := ⟨_, rfl⟩
  unfold State.unArrive
  dsimp only
  split
  · split
    · exact ⟨same, fun _ _ => rfl, fun _ => rfl, rfl, rfl, rfl⟩
    · rename_i g _ _
      generalize hu : State.setGang _ _ _ _ = u
      have hx : u.ctxs = (s.setCtx (Machine.ck n slot) { s.ctx (Machine.ck n slot) with iss := { (s.ctx (Machine.ck n slot)).iss with arrived := false } }).ctxs := by
        subst hu; rfl
      have hr : u.cores = s.cores ∧ u.dies = s.dies ∧ u.mem = s.mem ∧ u.now = s.now := by subst hu; exact ⟨rfl, rfl, rfl, rfl⟩
      obtain ⟨h1, h2, h3, -, h5, h6⟩ := State.mapCores_keeps
        (fun _ h => { h with reserved := if h.reserved = some ((s.ctx (Machine.ck n slot)).place.part, (s.ctx (Machine.ck n slot)).place.tree) then none else h.reserved })
        (fun c => { c with reserved := none }) (fun _ _ => rfl) g.cores u
      have hc (k : Nat) : (u.mapCores (fun _ h => { h with reserved := if h.reserved = some ((s.ctx (Machine.ck n slot)).place.part,
          (s.ctx (Machine.ck n slot)).place.tree) then none else h.reserved }) g.cores).ctx k =
          (s.setCtx (Machine.ck n slot) { s.ctx (Machine.ck n slot) with iss := { (s.ctx (Machine.ck n slot)).iss with arrived := false } }).ctx k := by
        show Sp.get Ctx.reset _ k = Sp.get Ctx.reset _ k
        rw [h2, hx]
      refine ⟨⟨false, by rw [hc, State.ctx_setCtx_same]⟩, fun k hk => by rw [hc, State.ctx_setCtx_other _ _ hk], fun m => (h1 m).trans ?_,
        h3.trans hr.2.1, h5.trans hr.2.2.1, h6.trans hr.2.2.2⟩
      simp only [State.core, hr.1]
  · exact ⟨same, fun _ _ => rfl, fun _ => rfl, rfl, rfl, rfl⟩
/-- A record of a core none of whose higher slots froze in this cycle is the newest of its die's control core. -/
theorem State.queueRecord_newest (s : State) (n slot : Nat) (r : List Word64) (h : s.frozenAbove n slot = []) :
    s.queueRecord n slot r = (s.die (coreDie n)).events ++ [r] := by
  simp only [State.queueRecord, h]
/-- Taking an event freezes its context, which leaves its group and no longer counts as arrived, and keeps everything else of it; its record joins
those of its die's control core; other contexts, rows and memory stay. -/
theorem State.takeEvent_spec (s : State) (n slot code sub bidx lane : Nat) (held def_ : Bool) (pc : Word64) (tick : Nat) (info aux : Word64)
    (bundle : List Word64) (inGroup : Bool) :
    let t := s.takeEvent n slot code sub bidx lane held def_ pc tick info aux bundle inGroup
    let c := s.ctx (Machine.ck n slot)
    (∃ a, t.ctx (Machine.ck n slot) = { c with iss := { c.iss with freeze := some ⟨code, sub, inGroup, s.now⟩, arrived := a }, grp := none }) ∧
      (∀ k, k ≠ Machine.ck n slot → t.ctx k = s.ctx k) ∧
      (t.die (coreDie n)).events = (s.unArrive n slot).queueRecord n slot
        (eventRecord (eventHead c n slot code sub bidx lane held def_ pc tick) info aux bundle) ∧
      (∀ m, (t.core m).rows = (s.core m).rows) ∧ t.now = s.now ∧ t.mem = s.mem := by
  unfold State.takeEvent
  obtain ⟨⟨a, ua⟩, ub, uc, ud, ue, uf⟩ := s.unArrive_keeps n slot
  generalize s.unArrive n slot = s₀ at *
  dsimp only
  have uh : eventHead (s₀.ctx (Machine.ck n slot)) n slot code sub bidx lane held def_ pc tick =
      eventHead (s.ctx (Machine.ck n slot)) n slot code sub bidx lane held def_ pc tick := by rw [ua]; rfl
  rw [uh]
  generalize hl : s₀.queueRecord n slot _ = l
  let c' : Ctx := { s₀.ctx (Machine.ck n slot) with
    iss := { (s₀.ctx (Machine.ck n slot)).iss with freeze := some ⟨code, sub, inGroup, s₀.now⟩ }, grp := none }
  have hc' : c' = { s.ctx (Machine.ck n slot) with
    iss := { (s.ctx (Machine.ck n slot)).iss with freeze := some ⟨code, sub, inGroup, s.now⟩, arrived := a }, grp := none } := by
    simp only [c', ua, uf]
  have ur (m : Nat) : (s₀.core m).rows = (s.core m).rows := by simpa using congrArg Core.rows (uc m)
  have key (u : State) (h1 : u.ctxs = (s₀.setCtx (Machine.ck n slot) c').ctxs) (h2 : u.cores = s₀.cores) (h3 : (u.die (coreDie n)).events = l)
      (h4 : u.now = s₀.now) (h5 : u.mem = s₀.mem) :
      let t := (u.stops n slot).answer n slot code sub info.toNat
      (∃ a, t.ctx (Machine.ck n slot) = { s.ctx (Machine.ck n slot) with
          iss := { (s.ctx (Machine.ck n slot)).iss with freeze := some ⟨code, sub, inGroup, s.now⟩, arrived := a }, grp := none }) ∧
        (∀ k, k ≠ Machine.ck n slot → t.ctx k = s.ctx k) ∧ (t.die (coreDie n)).events = l ∧
        (∀ m, (t.core m).rows = (s.core m).rows) ∧ t.now = s.now ∧ t.mem = s.mem := by
    obtain ⟨a1, a2, a3, a4, a5, a6⟩ := State.answer_keeps (u.stops n slot) n slot code sub info.toNat
    obtain ⟨b1, b2, b3, b4, b5, b6, b7, b8⟩ := State.stops_keeps u n slot
    dsimp only
    generalize (u.stops n slot).answer n slot code sub info.toNat = w at *
    generalize u.stops n slot = v at *
    have hx (k : Nat) : w.ctx k = (s₀.setCtx (Machine.ck n slot) c').ctx k := by simp only [State.ctx, a1, b1, h1]
    have hc (m : Nat) : w.core m = v.core m := by simp only [State.core, a2]
    have hs (m : Nat) : u.core m = s₀.core m := by simp only [State.core, h2]
    refine ⟨⟨a, by rw [hx, State.ctx_setCtx_same, hc']⟩, fun k hk => by rw [hx, State.ctx_setCtx_other _ _ hk, ub k hk], ?_, fun m => ?_,
      by rw [a5, b5, h4, uf], by rw [a6, b4, h5, ue]⟩
    · rw [← h3]; simp only [State.die, a3, b2]
    · by_cases h : m = n
      · subst h; rw [hc, b7, hs, ur]
      · rw [hc, b6 m h, hs, ur]
  apply key <;> split <;> simp [c']
/-- Coming back from an event: the context is not frozen, is ready from the next cycle, and goes on waiting at a knot where it stood at one; its
registers, results in flight, group and body stay, and so does everything else, but that the host's ring no longer names its event for `ebrk`. -/
theorem State.resume_spec (s : State) (n slot : Nat) :
    let t := s.resume n slot
    let c := s.ctx (Machine.ck n slot)
    let d := t.ctx (Machine.ck n slot)
    d.iss = { c.iss with freeze := none, ready := s.now + 1, blocked := if c.iss.knot then some .knotWait else none } ∧ d.regs = c.regs ∧
      d.landing = c.landing ∧ d.grp = c.grp ∧ d.body = c.body ∧ (∀ k, k ≠ Machine.ck n slot → t.ctx k = s.ctx k) ∧ t.cores = s.cores ∧ t.mem = s.mem ∧
      t.dies = s.dies ∧ (t.part c.place.part).ring = (s.part c.place.part).ring.forget n slot ∧ ∀ m, m ≠ c.place.part → t.part m = s.part m := by
  unfold State.resume Ctx.resumeChans
  dsimp only
  refine ⟨?_, ?_, ?_, ?_, ?_, fun k hk => State.ctx_setCtx_other _ _ hk, rfl, rfl, rfl, ?_, fun m hm => ?_⟩
  iterate 5 (rw [State.ctx_setCtx_same]; split <;> rfl)
  · rw [State.part_setCtx]; split <;> exact congrArg Part.ring (State.part_setPart_same _ _ _)
  · rw [State.part_setCtx]; exact State.part_setPart_other _ _ (by revert hm; split <;> exact id)

/-! Scratchpad rows and guards (R53, R54, R118). -/

/-- An engine's whole-row write: its row holds the value, every other row stays. -/
theorem Core.row_writeRow (c : Core) (a b : Nat) (v : Row) : (c.writeRow a v).row b = if b = a then v else c.row b := by
  unfold Core.writeRow Core.row Core.flushRow
  simp only [Sp.get_put]
  split <;> rfl
/-- Making a logged write visible changes the shared contents of its row only. -/
theorem Core.row_commitAt (c : Core) (i b : Nat) (w : RowWrite) (h : c.log[i]? = some w) :
    (c.commitAt i).row b = if b = w.row then blend (c.row w.row) w.val w.mask else c.row b := by
  simp only [Core.commitAt, h, Core.show, Core.row, Sp.get_put]
/-- A store-slot write joins the log: shared contents and guards stay. -/
theorem State.storeRow_spec (s : State) (a : Nat) (v m : Row) :
    (s.storeRow a v m).here.rows = s.here.rows ∧ (s.storeRow a v m).here.guards = s.here.guards ∧
      (s.storeRow a v m).here.log = s.here.log ++ [⟨s.cur.slot, s.tick, a, v, m, Sp.get 0 s.here.epoch s.cur.slot, .store⟩] ∧
      (s.storeRow a v m).ctxs = s.ctxs ∧ (s.storeRow a v m).mem = s.mem := by
  simp [State.storeRow]
/-- A row is held after a guard is added when it was, or when the guard is a held one of that row. -/
theorem Core.held_addGuard (c : Core) (r b cause own : Nat) (p : Bool) :
    (c.addGuard r p cause own).held b = (c.held b || (decide (r = b) && !p)) := by
  simp [Core.held, Core.addGuard, List.any_append]
/-- A row is pending after a guard is added when it was, or when the guard is a pending one of that row. -/
theorem Core.pending_addGuard (c : Core) (slot r b cause own : Nat) (p : Bool) :
    (c.addGuard r p cause own).pending slot b = (c.pending slot b || (decide (r = b) && p)) := by
  simp [Core.pending, Core.addGuard, List.any_append]
/-- Guards change no row. -/
@[simp] theorem Core.rows_addGuard (c : Core) (r cause own : Nat) (p : Bool) : (c.addGuard r p cause own).rows = c.rows := rfl
@[simp] theorem Core.rows_clearGuard (c : Core) (r cause : Nat) (p : Bool) : (c.clearGuard r cause p).rows = c.rows := rfl

/-! Rings (R55, R56). -/

theorem counters_length (n m : Nat) : (counters n m).length = m := by
  induction m generalizing n with
  | zero => rfl
  | succ m ih => simp [counters, ih]
/-- Reserving rows advances only the reservation counter of its ring, and owes those rows. -/
theorem Ctx.reserve_spec (c : Ctx) (ring n : Nat) :
    (c.reserve ring n).1.length = n ∧
      (c.reserve ring n).2 = { c with
        regs := c.regs.setRing ring (setFld (c.regs.ringOf ring) 36 12 ((ringResv (c.regs.ringOf ring) + n) % 4096)),
        owed := c.owed ++ (c.reserve ring n).1.map fun m => (ring, m) } :=
  ⟨counters_length _ _, rfl⟩
/-- Advancing a tail changes one ring register of the context and nothing else. -/
theorem Ctx.advanceTail_cases (c : Ctx) (ring n : Nat) :
    c.advanceTail ring n = c ∨ ∃ r, c.advanceTail ring n = { c with regs := c.regs.setRing ring r } := by
  induction n generalizing c with
  | zero => exact .inl rfl
  | succ n ih =>
    unfold Ctx.advanceTail
    dsimp only
    split
    · exact .inl rfl
    · refine .inr ?_
      rcases ih { c with regs := c.regs.setRing ring (setFld (c.regs.ringOf ring) 24 12 ((ringTail (c.regs.ringOf ring) + 1) % 4096)) } with h | ⟨r, h⟩ <;>
        rw [h]
      · exact ⟨_, rfl⟩
      · exact ⟨r, by simp [Regs.setRing, Sp.put_put]⟩

/-! Partition memory (R65). -/

/-- A write through stage two keeps the canonical form of memory and everything but memory. -/
theorem State.writePart_spec (s : State) (p a : Nat) (w : Word64) :
    (s.mem.wf = true → (s.writePart p a w).mem.wf = true) ∧ (s.writePart p a w).ctxs = s.ctxs ∧ (s.writePart p a w).cores = s.cores ∧
      (s.writePart p a w).dies = s.dies ∧ (s.writePart p a w).parts = s.parts ∧ (s.writePart p a w).control = s.control := by
  unfold State.writePart
  split
  · exact ⟨fun h => Memory.wf_writeN _ _ _ h, rfl, rfl, rfl, rfl, rfl⟩
  · exact ⟨id, rfl, rfl, rfl, rfl, rfl⟩
/-- A write through stage two changes only the eight bytes of its word. -/
theorem State.writePart_outside (s : State) (p a d b : Nat) (w : Word64) (h : s.phys p a = some d) (hb : b < d ∨ d + 8 ≤ b) :
    (s.writePart p a w).mem.read b = s.mem.read b := by
  simp only [State.writePart, h]
  exact Memory.read_writeN_outside _ _ (by simpa [bytesLE] using hb)
theorem State.writeParts_spec (l : List Word64) (s : State) (p a : Nat) :
    (s.mem.wf = true → (s.writeParts p a l).mem.wf = true) ∧ (s.writeParts p a l).ctxs = s.ctxs ∧ (s.writeParts p a l).cores = s.cores ∧
      (s.writeParts p a l).dies = s.dies ∧ (s.writeParts p a l).parts = s.parts := by
  induction l generalizing s a with
  | nil => exact ⟨id, rfl, rfl, rfl, rfl⟩
  | cons w r ih =>
    obtain ⟨h1, h2, h3, h4, h5⟩ := ih (s.writePart p a w) (a + 8)
    obtain ⟨g1, g2, g3, g4, g5, -⟩ := s.writePart_spec p a w
    unfold State.writeParts
    exact ⟨fun h => h1 (g1 h), h2.trans g2, h3.trans g3, h4.trans g4, h5.trans g5⟩

/-! Events of engines that make accesses (log 12). -/

/-- An event of an engine that waits changes nothing. -/
theorem State.performs_waits (s : State) (i : Instr) (f : State → Res) (h : s.eventWaits i s.subject = true) : s.performs i f = .next s := by
  simp [State.performs, h]
/-- An event of an engine of which nothing is held or parked happens whole, and no longer waits. -/
theorem State.performs_goes (s t : State) (i : Instr) (f : State → Res) (h : s.eventWaits i s.subject = false)
    (hf : f { s with attempt := some ⟨((s.delayed.find? fun w => w.event = i && w.subject = s.subject).map Waiting.denied).getD [],
      ((s.delayed.find? fun w => w.event = i && w.subject = s.subject).map Waiting.taken).getD [], none⟩ } = .next t)
    (ht : t.stalled = false) :
    s.performs i f = .next { t with attempt := none, delayed := t.delayed.filter fun w => !(w.event = i && w.subject = s.subject) } := by
  have e : t.attempt.bind Attempt.stall = none := by
    cases ha : t.attempt with
    | none => rfl
    | some a => simpa [State.stalled, ha] using ht
  simp only [State.performs, h, Bool.false_eq_true, if_false]
  rw [hf]
  simp [e]

/-! Records (R315, R361). -/

/-- A fabric record joins the log of its die, which holds 256 at most, and changes nothing else. -/
theorem State.fabricRecord_keeps (s : State) (die part code sub core comm queue tree chip : Nat) (info aux : Word64) :
    let t := s.fabricRecord die part code sub core comm queue tree chip info aux
    t.ctxs = s.ctxs ∧ t.cores = s.cores ∧ t.parts = s.parts ∧ t.mem = s.mem ∧ (∀ n, n ≠ die → t.die n = s.die n) ∧
      (t.die die).events = (s.die die).events := by
  refine ⟨rfl, rfl, rfl, rfl, fun n hn => State.die_setDie_other _ _ hn, ?_⟩
  simp [State.fabricRecord]
/-- A record to be copied to a host event ring joins those firmware has still to copy, and changes nothing else but the counter of free values. -/
theorem State.hostEvent_keeps (s : State) (part kind : Nat) (r : List Word64) :
    let t := s.hostEvent part kind r
    t.ctxs = s.ctxs ∧ t.cores = s.cores ∧ t.dies = s.dies ∧ t.mem = s.mem ∧ ∀ n, n ≠ part → t.part n = s.part n :=
  ⟨rfl, rfl, rfl, rfl, fun _ hn => State.part_setPart_other _ _ hn⟩
/-- A host event entry is written to memory or counted as lost; contexts, cores and dies stay. -/
theorem State.putEvent_keeps (s : State) (part kind : Nat) (r : List Word64) :
    let t := s.putEvent part kind r
    t.ctxs = s.ctxs ∧ t.cores = s.cores ∧ t.dies = s.dies ∧ (s.mem.wf = true → t.mem.wf = true) ∧ ∀ n, n ≠ part → t.part n = s.part n := by
  unfold State.putEvent
  dsimp only
  split
  · have h := State.writeParts_spec
    obtain ⟨v1, v2, v3, v4, v5, -⟩ := s.validate_keeps part ((s.part part).ring.entryAddr / 65536)
    refine ⟨(h _ _ _ _).2.1.trans v2, (h _ _ _ _).2.2.1.trans v3, (h _ _ _ _).2.2.2.1.trans v4, fun w => (h _ _ _ _).1 (v1 w), fun n hn => ?_⟩
    rw [State.part_setPart_other _ _ hn]
    show Sp.get Part.reset _ n = Sp.get Part.reset _ n
    rw [(h _ _ _ _).2.2.2.2, v5]
  · exact ⟨rfl, rfl, rfl, id, fun n hn => State.part_setPart_other _ _ hn⟩

end Sys2Proof.Machine
end

