-- ==== Sys2Proof/Laws/PerInstr.lean ====
section
/-! SUPPORT. Statements about every instruction as syntax, one lemma a constructor. Family WellFormed: each check that fails names a sub-code that
R332 gives to an operand field, and a place inside the 64 bits of a syllable (R331). -/
namespace Sys2Proof.Laws.WellFormed
set_option Elab.async false
open Sys2Proof

/-- A field error that an event record can hold: sub-codes 2 to 5 of R332, a bit offset of a syllable. -/
def okErr (e : FieldErr) : Bool := 2 ≤ e.sub && e.sub ≤ 5 && e.off < 64
/-- Every failed check of an instruction is such an error. -/
def Statement (i : Instr) : Prop := i.errs.all okErr = true

theorem all_need (b : Bool) (sub off val : Nat) (h : 2 ≤ sub ∧ sub ≤ 5 ∧ off < 64) : (need b sub off val).all okErr = true := by
  cases b <;> simp [need, okErr, h]
theorem all_needZero {n : Nat} (x : BitVec n) (off : Nat) (h : off < 64) : (needZero x off).all okErr = true :=
  all_need _ _ _ _ (by omega)
theorem all_needVec (x : BitVec 10) (off : Nat) (h : off < 64) : (needVec x off).all okErr = true := all_need _ _ _ _ (by omega)
theorem all_needPair (x : BitVec 10) : (needPair x).all okErr = true := all_need _ _ _ _ (by omega)
theorem all_needTy (ty : BitVec 4) (ok : Fmt → Bool) (off : Nat) (h : off < 64) : (needTy ty ok off).all okErr = true :=
  all_need _ _ _ _ (by omega)
theorem all_needLvl (x : BitVec 3) (off : Nat) (h : off < 64) : (needLvl x off).all okErr = true := all_need _ _ _ _ (by omega)
theorem all_append (a b : List FieldErr) (ha : a.all okErr = true) (hb : b.all okErr = true) : (a ++ b).all okErr = true := by
  rw [List.all_append, ha, hb]; rfl
theorem all_nil : ([] : List FieldErr).all okErr = true := rfl

/-- The checks of the layouts that instructions share. -/
theorem all_alu (o : AluOp) (u : Bool) : (o.errs u).all okErr = true := by
  unfold AluOp.errs; repeat' with_reducible first | apply all_append | exact all_needZero _ _ (by decide) | exact all_nil | split
theorem all_se (o : SeOp) (a b c d e : Bool) : (o.errs a b c d e).all okErr = true := by
  unfold SeOp.errs
  repeat' with_reducible first | apply all_append | exact all_needZero _ _ (by decide) | exact all_need _ _ _ _ (by decide) | exact all_nil | split
theorem all_copy (o : CopyOp) (a b : Bool) (l : List FieldErr) (h : l.all okErr = true) : (o.errs a b l).all okErr = true := by
  unfold CopyOp.errs
  repeat' with_reducible first
    | exact h | apply all_append | exact all_needZero _ _ (by decide) | exact all_need _ _ _ _ (by decide) | exact all_nil | split
/-- Every instruction. -/
theorem all_ok (i : Instr) : Statement i := by
  unfold Statement
  cases i <;> simp only [Instr.errs] <;> (try unfold SelOp.errs) <;> (try unfold VecOp.errs1) <;> (try unfold VecOp.errs2) <;>
    (try unfold VecOp.errs3) <;> (try unfold VecOp.errsShift) <;> (try unfold CvtOp.errsCommon) <;> (try unfold CvtOp.errsPart) <;>
    (try unfold CvtOp.errsRz) <;> (try unfold CvtOp.errsBw) <;>
    (repeat' with_reducible first
      | exact all_nil | exact all_alu _ _ | exact all_se _ _ _ _ _ _ | apply all_copy | apply all_append | exact all_needPair _
      | exact all_needZero _ _ (by decide) | exact all_needVec _ _ (by decide)
      | exact all_needTy _ _ _ (by decide) | exact all_needLvl _ _ (by decide) | exact all_need _ _ _ _ (by decide) | split)

theorem snop : Statement .snop := all_ok _
theorem knot : Statement .knot := all_ok _
theorem yield : Statement .yield := all_ok _
theorem drain : ∀ ch, Statement (.drain ch) := fun _ => all_ok _
theorem qfence : ∀ mask, Statement (.qfence mask) := fun _ => all_ok _
theorem lfence : Statement .lfence := all_ok _
theorem fmtset : ∀ value, Statement (.fmtset value) := fun _ => all_ok _
theorem seLd : ∀ o, Statement (.seLd o) := fun _ => all_ok _
theorem seSt : ∀ o, Statement (.seSt o) := fun _ => all_ok _
theorem seAdd : ∀ o, Statement (.seAdd o) := fun _ => all_ok _
theorem seMin : ∀ o, Statement (.seMin o) := fun _ => all_ok _
theorem seMax : ∀ o, Statement (.seMax o) := fun _ => all_ok _
theorem seAnd : ∀ o, Statement (.seAnd o) := fun _ => all_ok _
theorem seOr : ∀ o, Statement (.seOr o) := fun _ => all_ok _
theorem seXor : ∀ o, Statement (.seXor o) := fun _ => all_ok _
theorem seSwap : ∀ o, Statement (.seSwap o) := fun _ => all_ok _
theorem seCas : ∀ o, Statement (.seCas o) := fun _ => all_ok _
theorem seArrive : ∀ o, Statement (.seArrive o) := fun _ => all_ok _
theorem seAwait : ∀ o, Statement (.seAwait o) := fun _ => all_ok _
theorem seSemdown : ∀ o, Statement (.seSemdown o) := fun _ => all_ok _
theorem seSemup : ∀ o, Statement (.seSemup o) := fun _ => all_ok _
theorem seAlloc : ∀ o, Statement (.seAlloc o) := fun _ => all_ok _
theorem seFree : ∀ o, Statement (.seFree o) := fun _ => all_ok _
theorem tsys : ∀ code, Statement (.tsys code) := fun _ => all_ok _
theorem brk : ∀ code, Statement (.brk code) := fun _ => all_ok _
theorem halt : Statement .halt := all_ok _
theorem sadd : ∀ o, Statement (.sadd o) := fun _ => all_ok _
theorem ssub : ∀ o, Statement (.ssub o) := fun _ => all_ok _
theorem smul : ∀ o, Statement (.smul o) := fun _ => all_ok _
theorem smulh : ∀ o, Statement (.smulh o) := fun _ => all_ok _
theorem smulhn : ∀ o, Statement (.smulhn o) := fun _ => all_ok _
theorem sdiv : ∀ o, Statement (.sdiv o) := fun _ => all_ok _
theorem sdivn : ∀ o, Statement (.sdivn o) := fun _ => all_ok _
theorem srem : ∀ o, Statement (.srem o) := fun _ => all_ok _
theorem sremn : ∀ o, Statement (.sremn o) := fun _ => all_ok _
theorem sand : ∀ o, Statement (.sand o) := fun _ => all_ok _
theorem sor : ∀ o, Statement (.sor o) := fun _ => all_ok _
theorem sxor : ∀ o, Statement (.sxor o) := fun _ => all_ok _
theorem sandn : ∀ o, Statement (.sandn o) := fun _ => all_ok _
theorem sshl : ∀ o, Statement (.sshl o) := fun _ => all_ok _
theorem sshr : ∀ o, Statement (.sshr o) := fun _ => all_ok _
theorem ssra : ∀ o, Statement (.ssra o) := fun _ => all_ok _
theorem srot : ∀ o, Statement (.srot o) := fun _ => all_ok _
theorem sclz : ∀ o, Statement (.sclz o) := fun _ => all_ok _
theorem sctz : ∀ o, Statement (.sctz o) := fun _ => all_ok _
theorem spop : ∀ o, Statement (.spop o) := fun _ => all_ok _
theorem smin : ∀ o, Statement (.smin o) := fun _ => all_ok _
theorem smax : ∀ o, Statement (.smax o) := fun _ => all_ok _
theorem sminn : ∀ o, Statement (.sminn o) := fun _ => all_ok _
theorem smaxn : ∀ o, Statement (.smaxn o) := fun _ => all_ok _
theorem ssel : ∀ o, Statement (.ssel o) := fun _ => all_ok _
theorem sli : ∀ d imm, Statement (.sli d imm) := fun _ _ => all_ok _
theorem slih : ∀ d imm, Statement (.slih d imm) := fun _ _ => all_ok _
theorem smov : ∀ d a kind idx h, Statement (.smov d a kind idx h) := fun _ _ _ _ _ => all_ok _
theorem scmp : ∀ o, Statement (.scmp o) := fun _ => all_ok _
theorem pand : ∀ pd pa pb, Statement (.pand pd pa pb) := fun _ _ _ => all_ok _
theorem por : ∀ pd pa pb, Statement (.por pd pa pb) := fun _ _ _ => all_ok _
theorem pxor : ∀ pd pa pb, Statement (.pxor pd pa pb) := fun _ _ _ => all_ok _
theorem pnot : ∀ pd pa, Statement (.pnot pd pa) := fun _ _ => all_ok _
theorem pmov : ∀ pd src f, Statement (.pmov pd src f) := fun _ _ _ => all_ok _
theorem br : ∀ disp, Statement (.br disp) := fun _ => all_ok _
theorem jmp : ∀ tgt, Statement (.jmp tgt) := fun _ => all_ok _
theorem call : ∀ d disp, Statement (.call d disp) := fun _ _ => all_ok _
theorem ret : ∀ a, Statement (.ret a) := fun _ => all_ok _
theorem jr : ∀ a disp, Statement (.jr a disp) := fun _ _ => all_ok _
theorem loop : ∀ lvl ci a stride cnt, Statement (.loop lvl ci a stride cnt) := fun _ _ _ _ _ => all_ok _
theorem lbody : ∀ len lo hi e, Statement (.lbody len lo hi e) := fun _ _ _ _ => all_ok _
theorem mfs : ∀ d spec, Statement (.mfs d spec) := fun _ _ => all_ok _
theorem mts : ∀ a spec, Statement (.mts a spec) := fun _ _ => all_ok _
theorem amov : ∀ dir ar sr, Statement (.amov dir ar sr) := fun _ _ _ => all_ok _
theorem aadd : ∀ ad aa i b imm, Statement (.aadd ad aa i b imm) := fun _ _ _ _ _ => all_ok _
theorem vadd : ∀ o, Statement (.vadd o) := fun _ => all_ok _
theorem vsub : ∀ o, Statement (.vsub o) := fun _ => all_ok _
theorem vmul : ∀ o, Statement (.vmul o) := fun _ => all_ok _
theorem vfma : ∀ o, Statement (.vfma o) := fun _ => all_ok _
theorem vfms : ∀ o, Statement (.vfms o) := fun _ => all_ok _
theorem vfnma : ∀ o, Statement (.vfnma o) := fun _ => all_ok _
theorem vmin : ∀ o, Statement (.vmin o) := fun _ => all_ok _
theorem vmax : ∀ o, Statement (.vmax o) := fun _ => all_ok _
theorem vabs : ∀ o, Statement (.vabs o) := fun _ => all_ok _
theorem vneg : ∀ o, Statement (.vneg o) := fun _ => all_ok _
theorem vrcp : ∀ o, Statement (.vrcp o) := fun _ => all_ok _
theorem vrsqrt : ∀ o, Statement (.vrsqrt o) := fun _ => all_ok _
theorem vexp2 : ∀ o, Statement (.vexp2 o) := fun _ => all_ok _
theorem vlog2 : ∀ o, Statement (.vlog2 o) := fun _ => all_ok _
theorem vrnd : ∀ o, Statement (.vrnd o) := fun _ => all_ok _
theorem vtsum : ∀ o, Statement (.vtsum o) := fun _ => all_ok _
theorem vcmp : ∀ o, Statement (.vcmp o) := fun _ => all_ok _
theorem vsel : ∀ o, Statement (.vsel o) := fun _ => all_ok _
theorem vmulh : ∀ o, Statement (.vmulh o) := fun _ => all_ok _
theorem vsadd : ∀ o, Statement (.vsadd o) := fun _ => all_ok _
theorem vssub : ∀ o, Statement (.vssub o) := fun _ => all_ok _
theorem vshl : ∀ o, Statement (.vshl o) := fun _ => all_ok _
theorem vshr : ∀ o, Statement (.vshr o) := fun _ => all_ok _
theorem vsra : ∀ o, Statement (.vsra o) := fun _ => all_ok _
theorem vand : ∀ o, Statement (.vand o) := fun _ => all_ok _
theorem vor : ∀ o, Statement (.vor o) := fun _ => all_ok _
theorem vxor : ∀ o, Statement (.vxor o) := fun _ => all_ok _
theorem vandn : ∀ o, Statement (.vandn o) := fun _ => all_ok _
theorem vpopc : ∀ o, Statement (.vpopc o) := fun _ => all_ok _
theorem vcvt : ∀ o, Statement (.vcvt o) := fun _ => all_ok _
theorem vquant : ∀ o, Statement (.vquant o) := fun _ => all_ok _
theorem vdeq : ∀ o, Statement (.vdeq o) := fun _ => all_ok _
theorem vpack : ∀ o, Statement (.vpack o) := fun _ => all_ok _
theorem vunpk : ∀ o, Statement (.vunpk o) := fun _ => all_ok _
theorem vperm : ∀ o, Statement (.vperm o) := fun _ => all_ok _
theorem vrotm : ∀ d a b i sr off, Statement (.vrotm d a b i sr off) := fun _ _ _ _ _ _ => all_ok _
theorem vbcast : ∀ o, Statement (.vbcast o) := fun _ => all_ok _
theorem vshuf : ∀ o, Statement (.vshuf o) := fun _ => all_ok _
theorem vslide : ∀ o, Statement (.vslide o) := fun _ => all_ok _
theorem vredsum : ∀ o, Statement (.vredsum o) := fun _ => all_ok _
theorem vredmax : ∀ o, Statement (.vredmax o) := fun _ => all_ok _
theorem vredmin : ∀ o, Statement (.vredmin o) := fun _ => all_ok _
theorem vscan : ∀ o, Statement (.vscan o) := fun _ => all_ok _
theorem vtopk : ∀ o, Statement (.vtopk o) := fun _ => all_ok _
theorem vmov : ∀ o, Statement (.vmov o) := fun _ => all_ok _
theorem vsplat : ∀ o, Statement (.vsplat o) := fun _ => all_ok _
theorem vext : ∀ o, Statement (.vext o) := fun _ => all_ok _
theorem vins : ∀ o, Statement (.vins o) := fun _ => all_ok _
theorem vidx : ∀ o, Statement (.vidx o) := fun _ => all_ok _
theorem kand : ∀ kd ka kb, Statement (.kand kd ka kb) := fun _ _ _ => all_ok _
theorem kor : ∀ kd ka kb, Statement (.kor kd ka kb) := fun _ _ _ => all_ok _
theorem kxor : ∀ kd ka kb, Statement (.kxor kd ka kb) := fun _ _ _ => all_ok _
theorem kinv : ∀ kd ka, Statement (.kinv kd ka) := fun _ _ => all_ok _
theorem kpop : ∀ sd ka, Statement (.kpop sd ka) := fun _ _ => all_ok _
theorem kmov : ∀ kd ka, Statement (.kmov kd ka) := fun _ _ => all_ok _
theorem ldRow : ∀ v r, Statement (.ldRow v r) := fun _ _ => all_ok _
theorem ldLane : ∀ v r lane ty, Statement (.ldLane v r lane ty) := fun _ _ _ _ => all_ok _
theorem ldK : ∀ kd r seg, Statement (.ldK kd r seg) := fun _ _ _ => all_ok _
theorem ldPeek : ∀ v ring j, Statement (.ldPeek v ring j) := fun _ _ _ => all_ok _
theorem xsel : ∀ r mx dir hw dc dr, Statement (.xsel r mx dir hw dc dr) := fun _ _ _ _ _ _ => all_ok _
theorem stRow : ∀ v r, Statement (.stRow v r) := fun _ _ => all_ok _
theorem stRowk : ∀ v r km ty, Statement (.stRowk v r km ty) := fun _ _ _ _ => all_ok _
theorem stLane : ∀ v r lane ty, Statement (.stLane v r lane ty) := fun _ _ _ _ => all_ok _
theorem stFill : ∀ sf r cnt, Statement (.stFill sf r cnt) := fun _ _ _ => all_ok _
theorem stRing : ∀ v ring, Statement (.stRing v ring) := fun _ _ => all_ok _
theorem xsend : ∀ v r sk dir hw, Statement (.xsend v r sk dir hw) := fun _ _ _ _ _ => all_ok _
theorem mcall : ∀ rt acc alt rep, Statement (.mcall rt acc alt rep) := fun _ _ _ _ => all_ok _
theorem mset : ∀ kind idx sa, Statement (.mset kind idx sa) := fun _ _ _ => all_ok _
theorem mring : ∀ ra rb, Statement (.mring ra rb) := fun _ _ => all_ok _
theorem macz : ∀ acc rep, Statement (.macz acc rep) := fun _ _ => all_ok _
theorem mread : ∀ vd acc row mode, Statement (.mread vd acc row mode) := fun _ _ _ _ => all_ok _
theorem mwrite : ∀ vh vl acc row rep, Statement (.mwrite vh vl acc row rep) := fun _ _ _ _ _ => all_ok _
theorem mroute : ∀ nb sa, Statement (.mroute nb sa) := fun _ _ => all_ok _
theorem mwait : ∀ all w0 w1 snd, Statement (.mwait all w0 w1 snd) := fun _ _ _ _ => all_ok _
theorem mfmt : ∀ ent sa, Statement (.mfmt ent sa) := fun _ _ => all_ok _
theorem cpDesc : ∀ ch td an pm off h, Statement (.cpDesc ch td an pm off h) := fun _ _ _ _ _ _ => all_ok _
theorem cpIn : ∀ o, Statement (.cpIn o) := fun _ => all_ok _
theorem cpOut : ∀ o, Statement (.cpOut o) := fun _ => all_ok _
theorem cpAcc : ∀ o, Statement (.cpAcc o) := fun _ => all_ok _
theorem cpGat : ∀ o, Statement (.cpGat o) := fun _ => all_ok _
theorem cpSca : ∀ o, Statement (.cpSca o) := fun _ => all_ok _
theorem cpSl : ∀ o, Statement (.cpSl o) := fun _ => all_ok _
theorem cpXf : ∀ o, Statement (.cpXf o) := fun _ => all_ok _
theorem cpRep : ∀ o, Statement (.cpRep o) := fun _ => all_ok _
theorem cpCurSet : ∀ ch td sa, Statement (.cpCurSet ch td sa) := fun _ _ _ => all_ok _
theorem cpCurSave : ∀ ch td an pm off h, Statement (.cpCurSave ch td an pm off h) := fun _ _ _ _ _ _ => all_ok _
theorem cpCurStatus : ∀ ch an pm off h, Statement (.cpCurStatus ch an pm off h) := fun _ _ _ _ _ => all_ok _
theorem rcast : ∀ o, Statement (.rcast o) := fun _ => all_ok _
theorem plQ : ∀ o, Statement (.plQ o) := fun _ => all_ok _
theorem clRun : ∀ o, Statement (.clRun o) := fun _ => all_ok _
theorem clArm : ∀ o, Statement (.clArm o) := fun _ => all_ok _
theorem mlr : ∀ o, Statement (.mlr o) := fun _ => all_ok _
theorem wpopa : ∀ t, Statement (.wpopa t) := fun _ => all_ok _
theorem wpopb : ∀ t, Statement (.wpopb t) := fun _ => all_ok _
theorem wfeed : ∀ part ta tb, Statement (.wfeed part ta tb) := fun _ _ _ => all_ok _
theorem wgroup : ∀ sa mpa sb mpb, Statement (.wgroup sa mpa sb mpb) := fun _ _ _ _ => all_ok _
theorem wsum : ∀ src, Statement (.wsum src) := fun _ => all_ok _
theorem wretire : ∀ pa pb, Statement (.wretire pa pb) := fun _ _ => all_ok _
theorem wsend : ∀ dst n sc m first cnt, Statement (.wsend dst n sc m first cnt) := fun _ _ _ _ _ _ => all_ok _
theorem wfmt : ∀ lvl, Statement (.wfmt lvl) := fun _ => all_ok _
theorem wloop : ∀ c src m imm, Statement (.wloop c src m imm) := fun _ _ _ _ => all_ok _
theorem wjump : ∀ c cond tgt, Statement (.wjump c cond tgt) := fun _ _ _ => all_ok _
theorem wwait : ∀ f sn, Statement (.wwait f sn) := fun _ _ => all_ok _
theorem wend : Statement .wend := all_ok _
theorem groupEntry : ∀ core, Statement (.groupEntry core) := fun _ => all_ok _
theorem conditionClears : ∀ core slot, Statement (.conditionClears core slot) := fun _ _ => all_ok _
theorem heldReissue : ∀ lane, Statement (.heldReissue lane) := fun _ => all_ok _
theorem resultArrival : ∀ op, Statement (.resultArrival op) := fun _ => all_ok _
theorem landing : ∀ core slot, Statement (.landing core slot) := fun _ _ => all_ok _
theorem loopPassEnd : ∀ core slot, Statement (.loopPassEnd core slot) := fun _ _ => all_ok _
theorem knotArrival : ∀ core slot, Statement (.knotArrival core slot) := fun _ _ => all_ok _
theorem knotAnnouncement : ∀ part tree, Statement (.knotAnnouncement part tree) := fun _ _ => all_ok _
theorem knotRelease : ∀ part tree, Statement (.knotRelease part tree) := fun _ _ => all_ok _
theorem exchangeGrant : ∀ part tree, Statement (.exchangeGrant part tree) := fun _ _ => all_ok _
theorem preemptSave : ∀ part tree, Statement (.preemptSave part tree) := fun _ _ => all_ok _
theorem gangRestore : ∀ part tree, Statement (.gangRestore part tree) := fun _ _ => all_ok _
theorem withheldRelease : ∀ part tree, Statement (.withheldRelease part tree) := fun _ _ => all_ok _
theorem copyRequest : ∀ cmd, Statement (.copyRequest cmd) := fun _ => all_ok _
theorem copyRowWrite : ∀ cmd row, Statement (.copyRowWrite cmd row) := fun _ _ => all_ok _
theorem fillRowWrite : ∀ core slot, Statement (.fillRowWrite core slot) := fun _ _ => all_ok _
theorem ropeBeat : Statement .ropeBeat := all_ok _
theorem xselRowWrite : ∀ core mux, Statement (.xselRowWrite core mux) := fun _ _ => all_ok _
theorem matrixEntryStart : ∀ core slot, Statement (.matrixEntryStart core slot) := fun _ _ => all_ok _
theorem kblockRetire : ∀ core slot, Statement (.kblockRetire core slot) := fun _ _ => all_ok _
theorem entryRetire : ∀ core slot, Statement (.entryRetire core slot) := fun _ _ => all_ok _
theorem routedRowSend : ∀ msg, Statement (.routedRowSend msg) := fun _ => all_ok _
theorem routedRowArrival : ∀ msg, Statement (.routedRowArrival msg) := fun _ => all_ok _
theorem xformRun : ∀ core, Statement (.xformRun core) := fun _ => all_ok _
theorem collector : ∀ part td, Statement (.collector part td) := fun _ _ => all_ok _
theorem luAccess : ∀ acc, Statement (.luAccess acc) := fun _ => all_ok _
theorem recastSeal : ∀ cmd, Statement (.recastSeal cmd) := fun _ => all_ok _
theorem sealReceive : ∀ cmd lu, Statement (.sealReceive cmd lu) := fun _ _ => all_ok _
theorem recastRewrite : ∀ cmd, Statement (.recastRewrite cmd) := fun _ => all_ok _
theorem invalidationMarker : ∀ core slot handle tile, Statement (.invalidationMarker core slot handle tile) := fun _ _ _ _ => all_ok _
theorem markerWatchdog : ∀ core slot, Statement (.markerWatchdog core slot) := fun _ _ => all_ok _
theorem seOperationPerform : ∀ op, Statement (.seOperationPerform op) := fun _ => all_ok _
theorem seGrantArrival : ∀ op, Statement (.seGrantArrival op) := fun _ => all_ok _
theorem collectiveStart : ∀ die comm, Statement (.collectiveStart die comm) := fun _ _ => all_ok _
theorem joinArrival : ∀ msg, Statement (.joinArrival msg) := fun _ => all_ok _
theorem joinTimeout : ∀ die comm, Statement (.joinTimeout die comm) := fun _ _ => all_ok _
theorem presenceQuery : ∀ msg, Statement (.presenceQuery msg) := fun _ => all_ok _
theorem presenceTimeout : ∀ die comm, Statement (.presenceTimeout die comm) := fun _ _ => all_ok _
theorem chunkSendStart : ∀ die comm, Statement (.chunkSendStart die comm) := fun _ _ => all_ok _
theorem chainPairArrival : ∀ msg, Statement (.chainPairArrival msg) := fun _ => all_ok _
theorem copyChunkArrival : ∀ msg, Statement (.copyChunkArrival msg) := fun _ => all_ok _
theorem transferTimeout : ∀ die comm, Statement (.transferTimeout die comm) := fun _ _ => all_ok _
theorem collectiveAbort : ∀ die comm, Statement (.collectiveAbort die comm) := fun _ _ => all_ok _
theorem collectiveComplete : ∀ die comm, Statement (.collectiveComplete die comm) := fun _ _ => all_ok _
theorem switchReduce : ∀ group chunk, Statement (.switchReduce group chunk) := fun _ _ => all_ok _
theorem switchGroupLoad : ∀ group epoch members, Statement (.switchGroupLoad group epoch members) := fun _ _ _ => all_ok _
theorem membershipApply : ∀ die comm, Statement (.membershipApply die comm) := fun _ _ => all_ok _
theorem spareJoin : ∀ die comm slot, Statement (.spareJoin die comm slot) := fun _ _ _ => all_ok _
theorem plQueryAccept : ∀ ple, Statement (.plQueryAccept ple) := fun _ => all_ok _
theorem plQueryComplete : ∀ ple, Statement (.plQueryComplete ple) := fun _ => all_ok _
theorem qtailWrite : ∀ part queue v, Statement (.qtailWrite part queue v) := fun _ _ _ => all_ok _
theorem qcfgEnable : ∀ part queue v, Statement (.qcfgEnable part queue v) := fun _ _ _ => all_ok _
theorem qcfgDisable : ∀ part queue v, Statement (.qcfgDisable part queue v) := fun _ _ _ => all_ok _
theorem qcfgConfig : ∀ part queue v, Statement (.qcfgConfig part queue v) := fun _ _ _ => all_ok _
theorem cheadWrite : ∀ part queue v, Statement (.cheadWrite part queue v) := fun _ _ _ => all_ok _
theorem ecfgEnable : ∀ part v, Statement (.ecfgEnable part v) := fun _ _ => all_ok _
theorem ecfgDisable : ∀ part v, Statement (.ecfgDisable part v) := fun _ _ => all_ok _
theorem eheadWrite : ∀ part v, Statement (.eheadWrite part v) := fun _ _ => all_ok _
theorem ebrkContinue : ∀ part entry, Statement (.ebrkContinue part entry) := fun _ _ => all_ok _
theorem ebrkTerminate : ∀ part entry, Statement (.ebrkTerminate part entry) := fun _ _ => all_ok _
theorem registerWrite : ∀ offset size v, Statement (.registerWrite offset size v) := fun _ _ _ => all_ok _
theorem recordRead : ∀ part queue, Statement (.recordRead part queue) := fun _ _ => all_ok _
theorem placementDecision : ∀ part, Statement (.placementDecision part) := fun _ => all_ok _
theorem groupComplete : ∀ part tree, Statement (.groupComplete part tree) := fun _ _ => all_ok _
theorem completionRecordWrite : ∀ part queue, Statement (.completionRecordWrite part queue) := fun _ _ => all_ok _
theorem preemptDecision : ∀ part queue, Statement (.preemptDecision part queue) := fun _ _ => all_ok _
theorem partitionConfigure : ∀ cfg, Statement (.partitionConfigure cfg) := fun _ => all_ok _
theorem hostCxlMemAccess : ∀ part addr write bytes, Statement (.hostCxlMemAccess part addr write bytes) := fun _ _ _ _ => all_ok _
theorem supplySag : Statement .supplySag := all_ok _
theorem clockStepUp : Statement .clockStepUp := all_ok _
theorem dutyUpdate : Statement .dutyUpdate := all_ok _
theorem bootStep : Statement .bootStep := all_ok _
theorem getVersion : Statement .getVersion := all_ok _
theorem getCapabilities : Statement .getCapabilities := all_ok _
theorem negotiateAlgorithms : Statement .negotiateAlgorithms := all_ok _
theorem getDigests : Statement .getDigests := all_ok _
theorem getCertificate : Statement .getCertificate := all_ok _
theorem challenge : Statement .challenge := all_ok _
theorem getMeasurements : Statement .getMeasurements := all_ok _
theorem vendorDefinedRequest : Statement .vendorDefinedRequest := all_ok _
theorem tsysNull : Statement .tsysNull := all_ok _
theorem communicatorCreate : Statement .communicatorCreate := all_ok _
theorem membershipChange : Statement .membershipChange := all_ok _
theorem communicatorDelete : Statement .communicatorDelete := all_ok _
theorem cycleCount : Statement .cycleCount := all_ok _
theorem overflowAreaQuery : Statement .overflowAreaQuery := all_ok _
theorem retry : Statement .retry := all_ok _
theorem cont : Statement .cont := all_ok _
theorem terminate : Statement .terminate := all_ok _
theorem freeze : Statement .freeze := all_ok _
theorem brkRecordWrite : Statement .brkRecordWrite := all_ok _
theorem faultResolve : Statement .faultResolve := all_ok _
theorem migration : Statement .migration := all_ok _
theorem stubForward : Statement .stubForward := all_ok _
theorem redirect : Statement .redirect := all_ok _
theorem directoryRequest : Statement .directoryRequest := all_ok _
theorem stubTimeout : Statement .stubTimeout := all_ok _
theorem reclaimGrant : Statement .reclaimGrant := all_ok _
theorem remoteNack : Statement .remoteNack := all_ok _
theorem remoteTimeout : Statement .remoteTimeout := all_ok _
theorem knotTimeout : Statement .knotTimeout := all_ok _
theorem knotSecondTimeout : Statement .knotSecondTimeout := all_ok _
theorem terminationTimeout : Statement .terminationTimeout := all_ok _
theorem partitionReset : Statement .partitionReset := all_ok _
theorem routerIdleTimeout : Statement .routerIdleTimeout := all_ok _
theorem routerWakeNotice : Statement .routerWakeNotice := all_ok _
theorem umtuicCodewordError : Statement .umtuicCodewordError := all_ok _
theorem d2dCrcError : Statement .d2dCrcError := all_ok _
theorem boundaryFailure : Statement .boundaryFailure := all_ok _
theorem sramScrub : Statement .sramScrub := all_ok _
theorem sramUncorrectable : Statement .sramUncorrectable := all_ok _
theorem storageUncorrectable : Statement .storageUncorrectable := all_ok _
theorem dramUncorrectable : Statement .dramUncorrectable := all_ok _
theorem dutyFrameBoundary : Statement .dutyFrameBoundary := all_ok _
theorem deviceReset : Statement .deviceReset := all_ok _
theorem earlierEpochAnswer : Statement .earlierEpochAnswer := all_ok _

end Sys2Proof.Laws.WellFormed
end

