-- ==== Sys2Proof/Tests/Slice0.lean ====
section
/-! SUPPORT. Ill-formed terms that the checks refuse, words of every encoded constructor, single steps, and for each statement a state
that meets its hypotheses. Expected results are worked from the manual's tables. -/
namespace Sys2Proof.Machine
set_option Elab.async false
open Sys2Proof

/-! States to start from. -/

/-- The device after reset with the context of core 0, slot 0 changed and in hand. -/
def withCtx (c : Ctx) : State := { State.reset.setCtx 0 c with pending := [] }
/-- The context of core 0, slot 0 placed. -/
def placed : Ctx := { Ctx.reset with iss := { Issue.reset with placed := true, pc := 0x10000 }, place := { Place.reset with limit := 2559 } }
/-- A bundle of one slot operation at the placed pc. -/
def oneOp (b : Bundle) : InGroup := { start := 0x10000, tick0 := 0, idx := 0, bundles := [(0x10000, b, [])], next := 0x10010, again := [] }
/-- A state on whose next step core 0 issues a bundle. -/
def issuing (b : Bundle) : State :=
  { (State.reset.setCtx 0 { placed with grp := some (oneOp b) }).setCore 0 { Core.reset with issuing := some 0 } with pending := [], turn := [0] }

/-- The state after an operation, when it completes. -/
def got (r : Res) : State :=
  match r with
  | .next s => s
  | _ => State.reset
/-- Whether an operation completes. -/
def completes (r : Res) : Bool :=
  match r with
  | .next _ => true
  | _ => false
theorem next_got (r : Res) (h : completes r = true) : r = .next (got r) := by
  cases r with
  | next s => rfl
  | fault e => cases h
  | refused e => cases h

/-! Steps from reset. -/

/-- The registers of the context of core 0, slot 0, three steps on: the turn, the next cycle and the turn of that cycle. -/
def after3 (w : Nat) (f : Ctx → Bool) : Bool :=
  match step (State.reset.withFetchWord 64 w) with
  | .next s => f (s.ctx 0)
  | _ => false
/-- R103, R122: a head word of a `halt` with the stop bit runs as the first instruction: the context halts. -/
theorem test_step_halt : after3 0xf800000000000080 (fun c => c.iss.halted) = true := by decide +kernel
/-- Each instruction is ill formed, and an error with this sub-code at this offset says so. -/
def refuses (l : List (Instr × Nat × Nat)) : Bool := l.all fun e => !e.1.wf && e.1.errs.any fun x => x.sub = e.2.1 && x.off = e.2.2
/-- R129, R228, R332: each check refuses a term that breaks it, with the sub-code and the field that R332 gives. -/
theorem test_ill_formed_sync_and_scalar :
    refuses [(.seLd ⟨1,2,3,0,1,false⟩, 4, 24), (.seLd ⟨1,2,0,4,1,false⟩, 4, 18), (.seLd ⟨1,2,0,0,0,false⟩, 5, 12),
      (.seSt ⟨1,2,3,0,0,false⟩, 4, 36), (.seSt ⟨0,2,3,0,5,false⟩, 5, 12), (.seAlloc ⟨1,2,0,0,1,false⟩, 4, 30),
      (.seArrive ⟨1,2,3,0,1,true⟩, 5, 11), (.seAdd ⟨1,2,3,4,1,true⟩, 4, 18), (.seCas ⟨1,2,3,4,0,true⟩, 5, 12),
      (.seAwait ⟨1,2,3,0,0,false⟩, 4, 36), (.seFree ⟨0,2,3,0,0,false⟩, 4, 24), (.sadd ⟨1,2,true,3,4⟩, 4, 32),
      (.sadd ⟨1,2,false,3,4⟩, 4, 0), (.sclz ⟨1,2,false,3,0⟩, 4, 32), (.ssel ⟨1,2,true,3,1,4⟩, 4, 32),
      (.ssel ⟨1,2,false,3,1,4⟩, 4, 0), (.scmp ⟨16,2,false,3,1,0⟩, 4, 49), (.scmp ⟨1,2,false,3,10,0⟩, 5, 28),
      (.scmp ⟨1,2,true,3,1,0⟩, 4, 32), (.scmp ⟨1,2,false,3,1,7⟩, 4, 0), (.smov 1 2 6 0 false, 4, 45),
      (.smov 1 2 4 0 false, 4, 39), (.smov 1 0 4 6 false, 3, 33), (.smov 1 2 0 1 false, 4, 33),
      (.smov 1 2 0 0 true, 4, 32), (.pmov 1 16 false, 4, 43), (.loop 6 true 0 0 1, 3, 48),
      (.loop 1 true 1 0 1, 4, 41), (.loop 1 false 1 0 1, 4, 0), (.lbody 0 6 6 0, 3, 9),
      (.lbody 0 0 6 0, 3, 6), (.lbody 0 2 1 0, 5, 6), (.mfs 1 9, 3, 32),
      (.mts 1 24, 3, 32), (.aadd 1 2 true 3 4, 4, 36), (.aadd 1 2 false 3 4, 4, 0)] = true := by decide +kernel
/-- R147, R154, R159, R162, R164, R332: each check refuses a term that breaks it, with the sub-code and the field that R332 gives. -/
theorem test_ill_formed_vector :
    refuses [(.vadd ⟨640,2,3,0,0,false,0,0⟩, 3, 41), (.vadd ⟨1,640,3,0,0,false,0,0⟩, 3, 31), (.vadd ⟨1,2,1023,0,0,false,0,0⟩, 3, 21),
      (.vadd ⟨1,2,3,1,0,false,0,0⟩, 4, 11), (.vadd ⟨1,2,3,0,0,false,3,0⟩, 5, 3), (.vadd ⟨1,2,3,0,0,false,0,1⟩, 4, 0),
      (.vabs ⟨1,2,3,0,0,false,0,0⟩, 4, 21), (.vabs ⟨1,2,0,3,0,false,0,0⟩, 4, 11), (.vfma ⟨1,2,3,640,0,false,0,0⟩, 3, 11),
      (.vfma ⟨1,2,3,4,0,false,6,0⟩, 5, 3), (.vrcp ⟨1,2,0,0,0,false,6,0⟩, 5, 3), (.vtsum ⟨511,2,0,0,0,false,0,0⟩, 5, 41),
      (.vtsum ⟨607,2,0,0,0,false,0,0⟩, 5, 41), (.vtsum ⟨639,2,0,0,0,false,0,0⟩, 5, 41), (.vtsum ⟨1,2,0,0,0,false,1,0⟩, 5, 3),
      (.vcmp ⟨8,2,3,0,0,false,0,0⟩, 4, 44), (.vcmp ⟨1,2,3,0,0,false,0,6⟩, 5, 0), (.vsel ⟨1,2,3,0,0,true,0,0⟩, 5, 7),
      (.vmulh ⟨1,2,3,0,0,false,0,0⟩, 5, 3), (.vshl ⟨1,2,3,4,0,false,6,1⟩, 4, 21), (.vshl ⟨1,2,3,4,0,false,6,0⟩, 4, 11),
      (.vshl ⟨1,2,3,0,0,false,6,2⟩, 4, 1), (.vand ⟨1,2,3,0,0,false,14,0⟩, 5, 3), (.vpopc ⟨1,2,0,0,0,false,9,0⟩, 5, 3),
      (.vcvt ⟨1,2,0,14,0,false,false,0,false,0⟩, 5, 17), (.vcvt ⟨1,2,1,0,0,false,false,0,false,0⟩, 4, 21), (.vcvt ⟨1,2,0,0,2,false,false,0,false,1⟩, 5, 14),
      (.vcvt ⟨1,2,0,6,0,true,false,0,false,6⟩, 5, 13), (.vcvt ⟨1,2,0,0,0,false,true,0,false,0⟩, 5, 12), (.vquant ⟨1,2,3,1,0,false,false,0,false,3⟩, 5, 17),
      (.vquant ⟨1,2,3,0,0,false,false,0,false,0⟩, 5, 3), (.vquant ⟨1,2,3,0,0,true,false,0,false,8⟩, 5, 13), (.vdeq ⟨1,2,3,0,0,false,false,0,false,0⟩, 5, 17),
      (.vdeq ⟨1,2,640,8,0,false,false,0,false,0⟩, 3, 21), (.vpack ⟨1,2,3,6,1,false,false,0,false,7⟩, 4, 14), (.vpack ⟨1,2,3,6,0,false,false,0,false,8⟩, 5, 3),
      (.vpack ⟨1,2,3,6,0,false,true,0,false,7⟩, 5, 12), (.vunpk ⟨1,2,3,7,0,false,false,0,false,6⟩, 4, 21), (.vunpk ⟨1,2,0,7,2,false,false,0,false,6⟩, 5, 14),
      (.vunpk ⟨1,2,0,8,0,false,false,0,false,6⟩, 5, 3), (.vperm ⟨1,2,3,0,0,false,5,0⟩, 5, 3), (.vrotm 1 2 3 true 4 5, 4, 14),
      (.vrotm 1 2 3 false 4 5, 4, 7), (.vrotm 1 2 640 true 0 5, 3, 21), (.vbcast ⟨1,2,0,32,0,false,0,0⟩, 5, 11),
      (.vshuf ⟨1,2,3,0,0,false,0,4⟩, 4, 21), (.vshuf ⟨1,2,3,0,0,false,0,5⟩, 5, 0), (.vslide ⟨1,2,3,33,0,false,0,0⟩, 5, 11),
      (.vredsum ⟨1,2,0,0,0,false,3,0⟩, 5, 3), (.vtopk ⟨511,2,0,1,0,false,0,0⟩, 5, 41), (.vtopk ⟨1,2,0,0,0,false,0,0⟩, 5, 11),
      (.vtopk ⟨1,2,0,33,0,false,0,0⟩, 5, 11), (.vtopk ⟨1,2,0,1,0,false,8,0⟩, 5, 3), (.vtopk ⟨1,2,0,1,0,false,0,2⟩, 4, 1),
      (.vmov ⟨1,2,1,0,0,false,0,0⟩, 4, 21), (.vsplat ⟨1,2,true,0,3,0,false,0⟩, 4, 31), (.vsplat ⟨1,0,true,4,3,0,false,0⟩, 4, 24),
      (.vsplat ⟨1,0,false,4,3,0,false,0⟩, 4, 12), (.vext ⟨64,2,false,0,3,0,false,0⟩, 4, 47), (.vext ⟨1,2,true,0,3,0,false,0⟩, 4, 30),
      (.vext ⟨1,2,false,1,3,0,false,0⟩, 4, 24), (.vext ⟨1,2,false,0,3,1,false,0⟩, 4, 8), (.vext ⟨1,2,false,0,3,0,true,0⟩, 4, 7),
      (.vext ⟨1,2,false,0,32,0,false,0⟩, 5, 12), (.vins ⟨1,1,false,2,3,0,false,0⟩, 4, 31), (.vins ⟨1,0,false,2,128,0,false,8⟩, 5, 12),
      (.vidx ⟨1,0,0,3,0,false,0,0⟩, 5, 3)] = true := by decide +kernel
/-- R167, R170, R174, R175, R189, R191, R197, R204, R213-R215, R224, R251, R332: each check refuses a term that breaks it, with the sub-code and the field that R332 gives. -/
theorem test_ill_formed_rows_matrix_copy_microwords :
    refuses [(.ldRow 640 ⟨1,false,0⟩, 3, 41), (.stRow 640 ⟨1,false,0⟩, 3, 41), (.ldPeek 640 1 0, 3, 41),
      (.stRing 640 1, 3, 41), (.ldLane 1 ⟨1,false,0⟩ 32 0, 5, 16), (.stLane 1 ⟨1,false,0⟩ 0 14, 5, 3),
      (.stRowk 1 ⟨1,false,0⟩ 0 15, 5, 3), (.xsel ⟨1,false,0⟩ false false false 96 0, 5, 13), (.xsel ⟨1,false,0⟩ false false false 160 0, 5, 13),
      (.xsel ⟨1,false,0⟩ false false false 0 24, 5, 7), (.xsend 1 ⟨1,false,0⟩ true false false, 4, 37), (.xsend 1 ⟨0,true,0⟩ true false false, 4, 36),
      (.xsend 1 ⟨0,false,1⟩ true false false, 4, 24), (.xsend 1 ⟨0,false,1⟩ false false false, 4, 41), (.mcall 1 false true none, 4, 41),
      (.mset true 4 0, 3, 44), (.mread 640 false 0 0, 3, 38), (.mread 1 false 0 3, 5, 30),
      (.mwrite 640 0 false 0 none, 3, 38), (.mwrite 0 640 false 0 none, 3, 28), (.cpOut ⟨0,0,0,false,0,0,0,false,true,1,0⟩, 5, 16),
      (.cpIn ⟨0,0,1,false,0,0,0,false,true,1,0⟩, 4, 41), 
      (.cpIn ⟨0,0,0,false,1,0,0,false,false,1,0⟩, 4, 13), (.cpIn ⟨0,0,0,false,1,0,0,false,false,0,1⟩, 4, 0), (.cpAcc ⟨0,0,0,false,1,0,0,false,false,0,1⟩, 4, 0),
      (.cpSl ⟨0,0,0,false,0,0,0,false,false,0,1⟩, 4, 0), (.cpSl ⟨0,0,1,false,0,0,0,false,false,0,512⟩, 4, 41), (.cpXf ⟨0,0,0,0,0,0,96,0,0⟩, 5, 14),
      (.cpXf ⟨0,0,0,0,0,0,0,96,0⟩, 5, 7), (.cpRep ⟨0,0,0,false,0,0,0,false,false,0,1⟩, 4, 0), (.cpRep ⟨0,0,0,false,0,0,0,false,false,0,6144⟩, 5, 11),
      (.cpRep ⟨0,0,0,false,0,0,0,false,false,0,32⟩, 4, 5), (.rcast ⟨0,0,false,false,0,false,1,0,0,false⟩, 4, 34), (.clRun ⟨0,0,0,0,0,1⟩, 4, 5),
      (.mlr ⟨0,0,0,0,0,1⟩, 4, 5), (.wfmt 6, 2, 57), (.wjump 0 3 0, 2, 56)] = true ∧
      (Instr.cpIn ⟨0,0,0,true,1,0,0,false,true,1,0⟩).wf = true := by decide +kernel
/-- R122, R228: the sync syllables without a synchronisation engine. -/
theorem test_decode_sync :
    decodeSync 0x000000000000 = .ok .snop ∧
    decodeSync 0x040000000000 = .ok .knot ∧
    decodeSync 0x080000000000 = .ok .yield ∧
    decodeSync 0x140000000000 = .ok .lfence ∧
    decodeSync 0xf80000000000 = .ok .halt ∧
    decodeSync 0x0c0000000002 = .ok (.drain 2) ∧
    decodeSync 0x100000000055 = .ok (.qfence 0x55) ∧
    decodeSync 0x180080000001 = .ok (.fmtset 0x80000001) ∧
    decodeSync 0xf0000000beef = .ok (.tsys 0xbeef) ∧
    decodeSync 0xf40000008001 = .ok (.brk 0x8001) := by decide +kernel
/-- R122, R228: the operations of the synchronisation engine. -/
theorem test_decode_se :
    decodeSync 0x23d08003f800 = .ok (.seLd ⟨61, 2, 0, 0, 63, true⟩) ∧
    decodeSync 0x240845000800 = .ok (.seSt ⟨0, 33, 5, 0, 0, true⟩) ∧
    decodeSync 0x28a35400a000 = .ok (.seAdd ⟨10, 13, 20, 0, 10, false⟩) ∧
    decodeSync 0x2cb39600b800 = .ok (.seMin ⟨11, 14, 22, 0, 11, true⟩) ∧
    decodeSync 0x30c3d800c000 = .ok (.seMax ⟨12, 15, 24, 0, 12, false⟩) ∧
    decodeSync 0x34d41a00d800 = .ok (.seAnd ⟨13, 16, 26, 0, 13, true⟩) ∧
    decodeSync 0x38e45c00e000 = .ok (.seOr ⟨14, 17, 28, 0, 14, false⟩) ∧
    decodeSync 0x3cf49e00f800 = .ok (.seXor ⟨15, 18, 30, 0, 15, true⟩) ∧
    decodeSync 0x4104e0010000 = .ok (.seSwap ⟨16, 19, 32, 0, 16, false⟩) ∧
    decodeSync 0x441083b05800 = .ok (.seCas ⟨1, 2, 3, 44, 5, true⟩) ∧
    decodeSync 0x48720900a000 = .ok (.seArrive ⟨7, 8, 9, 0, 10, false⟩) ∧
    decodeSync 0x4c08e4000000 = .ok (.seAwait ⟨0, 35, 36, 0, 0, false⟩) ∧
    decodeSync 0x50007e000000 = .ok (.seSemdown ⟨0, 1, 62, 0, 0, false⟩) ∧
    decodeSync 0x540f81000000 = .ok (.seSemup ⟨0, 62, 1, 0, 0, false⟩) ∧
    decodeSync 0x591000028000 = .ok (.seAlloc ⟨17, 0, 0, 0, 40, false⟩) ∧
    decodeSync 0x5c0480000000 = .ok (.seFree ⟨0, 18, 0, 0, 0, false⟩) := by decide +kernel
/-- R123, R129: the alu layout. -/
theorem test_decode_alu :
    decodeOp .s false 0x0100a5c080000001 = .ok (.sadd ⟨5, 11, true, 0, 0x80000001⟩) ∧
    decodeOp .s false 0x02014b0e00000000 = .ok (.ssub ⟨10, 22, false, 14, 0x0⟩) ∧
    decodeOp .s false 0x0301f0c080000003 = .ok (.smul ⟨15, 33, true, 0, 0x80000003⟩) ∧
    decodeOp .s false 0x0402961c00000000 = .ok (.smulh ⟨20, 44, false, 28, 0x0⟩) ∧
    decodeOp .s false 0x05033bc080000005 = .ok (.smulhn ⟨25, 55, true, 0, 0x80000005⟩) ∧
    decodeOp .s false 0x0603c12a00000000 = .ok (.sdiv ⟨30, 2, false, 42, 0x0⟩) ∧
    decodeOp .s false 0x070466c080000007 = .ok (.sdivn ⟨35, 13, true, 0, 0x80000007⟩) ∧
    decodeOp .s false 0x08050c3800000000 = .ok (.srem ⟨40, 24, false, 56, 0x0⟩) ∧
    decodeOp .s false 0x0905b1c080000009 = .ok (.sremn ⟨45, 35, true, 0, 0x80000009⟩) ∧
    decodeOp .s false 0x0a06570600000000 = .ok (.sand ⟨50, 46, false, 6, 0x0⟩) ∧
    decodeOp .s false 0x0b06fcc08000000b = .ok (.sor ⟨55, 57, true, 0, 0x8000000b⟩) ∧
    decodeOp .s false 0x0c07821400000000 = .ok (.sxor ⟨60, 4, false, 20, 0x0⟩) ∧
    decodeOp .s false 0x0d0027c08000000d = .ok (.sandn ⟨1, 15, true, 0, 0x8000000d⟩) ∧
    decodeOp .s false 0x0e00cd2200000000 = .ok (.sshl ⟨6, 26, false, 34, 0x0⟩) ∧
    decodeOp .s false 0x0f0172c08000000f = .ok (.sshr ⟨11, 37, true, 0, 0x8000000f⟩) ∧
    decodeOp .s false 0x1002183000000000 = .ok (.ssra ⟨16, 48, false, 48, 0x0⟩) ∧
    decodeOp .s false 0x1102bdc080000011 = .ok (.srot ⟨21, 59, true, 0, 0x80000011⟩) ∧
    decodeOp .s false 0x1203430000000000 = .ok (.sclz ⟨26, 6, false, 0, 0x0⟩) ∧
    decodeOp .s false 0x1303e88000000000 = .ok (.sctz ⟨31, 17, false, 0, 0x0⟩) ∧
    decodeOp .s false 0x14048e0000000000 = .ok (.spop ⟨36, 28, false, 0, 0x0⟩) ∧
    decodeOp .s false 0x150533c080000015 = .ok (.smin ⟨41, 39, true, 0, 0x80000015⟩) ∧
    decodeOp .s false 0x1605d91a00000000 = .ok (.smax ⟨46, 50, false, 26, 0x0⟩) ∧
    decodeOp .s false 0x17067ec080000017 = .ok (.sminn ⟨51, 61, true, 0, 0x80000017⟩) ∧
    decodeOp .s false 0x1807042800000000 = .ok (.smaxn ⟨56, 8, false, 40, 0x0⟩) := by decide +kernel
/-- R123, R129: the other layouts of the S slot. -/
theorem test_decode_scalar :
    decodeOp .s false 0x1904214078000001 = .ok (.ssel ⟨33, 2, true, 0, 7, 0x8000001⟩) ∧
    decodeOp .s false 0x1a07e00080000000 = .ok (.sli 63 0x80000000) ∧
    decodeOp .s false 0x1b04000012345678 = .ok (.slih 32 0x12345678) ∧
    decodeOp .s false 0x1c01201b00000000 = .ok (.smov 9 0 1 5 true) ∧
    decodeOp .s false 0x1c0014ea00000000 = .ok (.smov 0 41 6 5 false) ∧
    decodeOp .s false 0x1d01c1ac90000000 = .ok (.scmp ⟨14, 3, false, 44, 9, 0⟩) ∧
    decodeOp .s false 0x1e01c28b00000000 = .ok (.pand 14 5 11) ∧
    decodeOp .s false 0x1f01e28b00000000 = .ok (.por 15 5 11) ∧
    decodeOp .s false 0x2000028b00000000 = .ok (.pxor 0 5 11) ∧
    decodeOp .s false 0x2100640000000000 = .ok (.pnot 3 8) ∧
    decodeOp .s false 0x2200744000000000 = .ok (.pmov 3 40 true) ∧
    decodeOp .s false 0x2200648000000000 = .ok (.pmov 3 9 false) ∧
    decodeOp .s false 0x23000000fffffff0 = .ok (.br 0xfffffff0) ∧
    decodeOp .s false 0x2400800000000001 = .ok (.jmp 0x800000000001) ∧
    decodeOp .s false 0x2507c00000000200 = .ok (.call 62 0x200) ∧
    decodeOp .s false 0x26001f0000000000 = .ok (.ret 62) ∧
    decodeOp .s false 0x2700108080000002 = .ok (.jr 33 0x80000002) ∧
    decodeOp .s false 0x2805810003000001 = .ok (.loop 5 true 0 0x8001 0x1000001) ∧
    decodeOp .s false 0x2802560002000000 = .ok (.loop 2 false 43 1 0) ∧
    decodeOp .s false 0x290000000003f378 = .ok (.lbody 63 1 5 7) ∧
    decodeOp .s false 0x2a04401700000000 = .ok (.mfs 34 23) ∧
    decodeOp .s false 0x2b00110500000000 = .ok (.mts 34 5) ∧
    decodeOp .s false 0x2c04cb4000000000 = .ok (.amov true 12 45) ∧
    decodeOp .s false 0x2d04a40000800001 = .ok (.aadd 9 4 true 0 0x800001) ∧
    decodeOp .s false 0x2d00fae000000000 = .ok (.aadd 1 15 false 46 0) := by decide +kernel
/-- R124, R147: arithmetic, comparison and logic of the vector slots. -/
theorem test_decode_vector_arithmetic :
    decodeOp .va false 0x01004a2d86a00588 = .ok (.vadd ⟨37, 91, 53, 0, 5, true, 1, 0⟩) ∧
    decodeOp .va false 0x0200945b0d400510 = .ok (.vsub ⟨74, 182, 106, 0, 5, false, 2, 0⟩) ∧
    decodeOp .va false 0x0300de8893e005b0 = .ok (.vmul ⟨111, 273, 159, 0, 5, true, 6, 0⟩) ∧
    decodeOp .va false 0x040128b61a93fb88 = .ok (.vfma ⟨148, 364, 212, 639, 3, true, 1, 0⟩) ∧
    decodeOp .va false 0x050172e3a133fb90 = .ok (.vfms ⟨185, 455, 265, 639, 3, true, 2, 0⟩) ∧
    decodeOp .va false 0x0601bd1127d3fb80 = .ok (.vfnma ⟨222, 546, 318, 639, 3, true, 0, 0⟩) ∧
    decodeOp .va false 0x0702073eae6005d8 = .ok (.vmin ⟨259, 637, 371, 0, 5, true, 11, 0⟩) ∧
    decodeOp .va false 0x0802502c35000560 = .ok (.vmax ⟨296, 88, 424, 0, 5, false, 12, 0⟩) ∧
    decodeOp .vb false 0x09029a5980000180 = .ok (.vabs ⟨333, 179, 0, 0, 1, true, 0, 0⟩) ∧
    decodeOp .vb false 0x0a02e48700000208 = .ok (.vneg ⟨370, 270, 0, 0, 2, false, 1, 0⟩) ∧
    decodeOp .vb false 0x0b032eb480000390 = .ok (.vrcp ⟨407, 361, 0, 0, 3, true, 2, 0⟩) ∧
    decodeOp .vb false 0x0c0378e200000400 = .ok (.vrsqrt ⟨444, 452, 0, 0, 4, false, 0, 0⟩) ∧
    decodeOp .vb false 0x0d03c30f80000588 = .ok (.vexp2 ⟨481, 543, 0, 0, 5, true, 1, 0⟩) ∧
    decodeOp .vb false 0x0e040d3d00000610 = .ok (.vlog2 ⟨518, 634, 0, 0, 6, false, 2, 0⟩) ∧
    decodeOp .vb false 0x0f04562a80000780 = .ok (.vrnd ⟨555, 85, 0, 0, 7, true, 0, 0⟩) ∧
    decodeOp .va false 0x1003fc0080000180 = .ok (.vtsum ⟨510, 1, 0, 0, 1, true, 0, 0⟩) ∧
    decodeOp .va false 0x11000f004fe002e5 = .ok (.vcmp ⟨7, 512, 639, 0, 2, true, 12, 5⟩) ∧
    decodeOp .va false 0x120034b327400520 = .ok (.vsel ⟨26, 358, 314, 0, 5, false, 4, 0⟩) ∧
    decodeOp .va false 0x13007ee0ade005b8 = .ok (.vmulh ⟨63, 449, 367, 0, 5, true, 7, 0⟩) ∧
    decodeOp .va false 0x1400c90e34800540 = .ok (.vsadd ⟨100, 540, 420, 0, 5, false, 8, 0⟩) ∧
    decodeOp .va false 0x1501133bbb2005d0 = .ok (.vssub ⟨137, 631, 473, 0, 5, true, 10, 0⟩) ∧
    decodeOp .va false 0x160002010000f831 = .ok (.vshl ⟨1, 2, 0, 31, 0, false, 6, 1⟩) ∧
    decodeOp .va false 0x1700020125800050 = .ok (.vshr ⟨1, 2, 300, 0, 0, false, 10, 0⟩) ∧
    decodeOp .va false 0x18000201006007e0 = .ok (.vsra ⟨1, 2, 3, 0, 7, true, 12, 0⟩) ∧
    decodeOp .va false 0x19023ab185a005d8 = .ok (.vand ⟨285, 355, 45, 0, 5, true, 11, 0⟩) ∧
    decodeOp .va false 0x1a0284df0c400560 = .ok (.vor ⟨322, 446, 98, 0, 5, false, 12, 0⟩) ∧
    decodeOp .va false 0x1b02cf0c92e005e8 = .ok (.vxor ⟨359, 537, 151, 0, 5, true, 13, 0⟩) ∧
    decodeOp .va false 0x1c03193a19800500 = .ok (.vandn ⟨396, 628, 204, 0, 5, false, 0, 0⟩) ∧
    decodeOp .vb false 0x1d036227800005e0 = .ok (.vpopc ⟨433, 79, 0, 0, 5, true, 12, 0⟩) := by decide +kernel
/-- R124, R147, R154, R159, R162, R163: conversions, permutations, transfers and masks. -/
theorem test_decode_vector_movement :
    decodeOp .vb false 0x1e04b0018000e6c0 = .ok (.vcvt ⟨600, 3, 0, 0, 3, true, false, 6, true, 8⟩) ∧
    decodeOp .vb false 0x1e000201000bc000 = .ok (.vcvt ⟨1, 2, 0, 5, 7, false, false, 0, false, 0⟩) ∧
    decodeOp .vb false 0x1f000a034fe0d118 = .ok (.vquant ⟨5, 6, 639, 0, 3, false, true, 1, false, 3⟩) ∧
    decodeOp .vb false 0x2003ff0000f25008 = .ok (.vdeq ⟨511, 512, 7, 9, 1, false, true, 0, false, 1⟩) ∧
    decodeOp .vb false 0x21000a04814e02e0 = .ok (.vpack ⟨5, 9, 10, 7, 0, false, false, 2, true, 12⟩) ∧
    decodeOp .vb false 0x22000a04801642b0 = .ok (.vunpk ⟨5, 9, 0, 11, 1, false, false, 2, true, 6⟩) ∧
    decodeOp .va false 0x2300020100600498 = .ok (.vperm ⟨1, 2, 3, 0, 4, true, 3, 0⟩) ∧
    decodeOp .va false 0x2404fe0180b03f80 = .ok (.vrotm 639 3 5 true 0 127) ∧
    decodeOp .va false 0x24000201006f4000 = .ok (.vrotm 1 2 3 false 61 0) ∧
    decodeOp .va false 0x250002010003f818 = .ok (.vbcast ⟨1, 2, 0, 127, 0, false, 3, 0⟩) ∧
    decodeOp .va false 0x2600020100600003 = .ok (.vshuf ⟨1, 2, 3, 0, 0, false, 0, 3⟩) ∧
    decodeOp .va false 0x2600020100000004 = .ok (.vshuf ⟨1, 2, 0, 0, 0, false, 0, 4⟩) ∧
    decodeOp .va false 0x2700020100620008 = .ok (.vslide ⟨1, 2, 3, 64, 0, false, 1, 0⟩) ∧
    decodeOp .vb false 0x280190dc00000038 = .ok (.vredsum ⟨200, 440, 0, 0, 0, false, 7, 0⟩) ∧
    decodeOp .vb false 0x2901db09800001c0 = .ok (.vredmax ⟨237, 531, 0, 0, 1, true, 8, 0⟩) ∧
    decodeOp .vb false 0x2a02253700000250 = .ok (.vredmin ⟨274, 622, 0, 0, 2, false, 10, 0⟩) ∧
    decodeOp .vb false 0x2b026e24800003d8 = .ok (.vscan ⟨311, 73, 0, 0, 3, true, 11, 0⟩) ∧
    decodeOp .va false 0x2c04fa0100010181 = .ok (.vtopk ⟨637, 2, 0, 32, 1, true, 0, 1⟩) ∧
    decodeOp .vb false 0x2d03027f80000598 = .ok (.vmov ⟨385, 255, 0, 0, 5, true, 3, 0⟩) ∧
    decodeOp .va false 0x2e001200408003e8 = .ok (.vsplat ⟨9, 0, true, 0, 2048, 3, true, 13⟩) ∧
    decodeOp .va false 0x2e00120021000000 = .ok (.vsplat ⟨9, 0, false, 33, 0, 0, false, 0⟩) ∧
    decodeOp .va false 0x2f007f3f8007f040 = .ok (.vext ⟨63, 639, false, 0, 127, 0, false, 8⟩) ∧
    decodeOp .va false 0x3004b0002203f5b8 = .ok (.vins ⟨600, 0, false, 34, 63, 5, true, 7⟩) ∧
    decodeOp .va false 0x31000400001ff9b8 = .ok (.vidx ⟨2, 0, 0, 1023, 1, true, 7, 0⟩) ∧
    decodeOp .va false 0x32015c0000000000 = .ok (.kand 1 2 7) ∧
    decodeOp .va false 0x33017c0000000000 = .ok (.kor 1 3 7) ∧
    decodeOp .va false 0x34019c0000000000 = .ok (.kxor 1 4 7) ∧
    decodeOp .va false 0x3506a00000000000 = .ok (.kinv 6 5) ∧
    decodeOp .vb false 0x3600821000000000 = .ok (.kpop 33 4) ∧
    decodeOp .vb false 0x3703400000000000 = .ok (.kmov 3 2) := by decide +kernel
/-- R125, R167, R170, R174, R175: the LD and ST slots. -/
theorem test_decode_rows :
    decodeOp .ld false 0x0104fff800000000 = .ok (.ldRow 639 ⟨15, true, 0x800⟩) ∧
    decodeOp .ld false 0x02000240057f0018 = .ok (.ldLane 1 ⟨2, false, 0x5⟩ 127 3) ∧
    decodeOp .ld false 0x03000a7fff070000 = .ok (.ldK 5 ⟨3, true, 0xfff⟩ 7) ∧
    decodeOp .ld false 0x0400058401000000 = .ok (.ldPeek 2 6 1025) ∧
    decodeOp .ld false 0x0500008003cbf480 = .ok (.xsel ⟨4, false, 0x3⟩ true true false 95 41) ∧
    decodeOp .ld false 0x0500009003342b80 = .ok (.xsel ⟨4, true, 0x3⟩ false false true 161 23) ∧
    decodeOp .st false 0x0104fc37ff000000 = .ok (.stRow 638 ⟨1, true, 0x7ff⟩) ∧
    decodeOp .st false 0x02000e2000000668 = .ok (.stRowk 7 ⟨1, false, 0x0⟩ 6 13) ∧
    decodeOp .st false 0x03000e2000ff0028 = .ok (.stLane 7 ⟨1, false, 0x0⟩ 255 5) ∧
    decodeOp .st false 0x04007f30043f0000 = .ok (.stFill 63 ⟨9, true, 0x4⟩ 63) ∧
    decodeOp .st false 0x050259c000000000 = .ok (.stRing 300 7) ∧
    decodeOp .st false 0x0600011001400000 = .ok (.xsend 0 ⟨8, true, 0x1⟩ false true false) ∧
    decodeOp .st false 0x0600180000a00000 = .ok (.xsend 12 ⟨0, false, 0x0⟩ true false true) := by decide +kernel
/-- R107, R125, R189: the MX slot. -/
theorem test_decode_matrix :
    decodeOp .mx false 0x0100fc0000000000 = .ok (.mcall 31 true false none) ∧
    decodeOp .mx true 0x01ff0a0000000000 = .ok (.mcall 1 false true (some 255)) ∧
    decodeOp .mx false 0x0200b8c000000000 = .ok (.mset true 3 35) ∧
    decodeOp .mx false 0x020078c000000000 = .ok (.mset false 7 35) ∧
    decodeOp .mx false 0x0300a80000000000 = .ok (.mring 5 2) ∧
    decodeOp .mx false 0x0400800000000000 = .ok (.macz true none) ∧
    decodeOp .mx true 0x0480000000000000 = .ok (.macz false (some 128)) ∧
    decodeOp .mx false 0x05009ffe80000000 = .ok (.mread 639 true 30 2) ∧
    decodeOp .mx false 0x060000600c400000 = .ok (.mwrite 1 512 true 17 none) ∧
    decodeOp .mx false 0x0700a10000000000 = .ok (.mroute 2 33) ∧
    decodeOp .mx false 0x0800a00000000000 = .ok (.mwait true false true false) ∧
    decodeOp .mx false 0x0800500000000000 = .ok (.mwait false true false true) ∧
    decodeOp .mx false 0x0900d90000000000 = .ok (.mfmt 13 36) := by decide +kernel
/-- R125, R204, R213-R215, R224, R251, R272: the CP slot. -/
theorem test_decode_copy :
    decodeOp .cp false 0x0207e00027ffe000 = .ok (.cpIn ⟨3, 15, 0, false, 0, 9, 255, true, true, 7, 0⟩) ∧
    decodeOp .cp false 0x0302478012000000 = .ok (.cpOut ⟨1, 2, 3, true, 512, 4, 128, false, false, 0, 0⟩) ∧
    decodeOp .cp false 0x04043c7fe0061000 = .ok (.cpAcc ⟨2, 1, 14, false, 511, 8, 1, true, false, 0, 4096⟩) ∧
    decodeOp .cp false 0x05010fffc80c0000 = .ok (.cpGat ⟨0, 8, 7, true, 1023, 2, 3, false, false, 0, 0⟩) ∧
    decodeOp .cp false 0x06028a00581e0000 = .ok (.cpSca ⟨1, 4, 5, false, 1, 6, 7, true, false, 0, 0⟩) ∧
    decodeOp .cp false 0x07052000282c1a00 = .ok (.cpSl ⟨2, 9, 0, false, 0, 10, 11, false, false, 0, 6656⟩) ∧
    decodeOp .cp false 0x09062000080e15a0 = .ok (.cpRep ⟨3, 1, 0, false, 0, 2, 3, true, false, 0, 5536⟩) ∧
    decodeOp .cp false 0x0104ebffa0000000 = .ok (.cpDesc 2 7 5 true 1022 true) ∧
    decodeOp .cp false 0x0803fcc037f7c0d8 = .ok (.cpXf ⟨1, 63, 9, 64, 3, 63, 95, 1, 44⟩) ∧
    decodeOp .cp false 0x0a0325a000000000 = .ok (.cpCurSet 1 9 45) ∧
    decodeOp .cp false 0x0a052817ff600000 = .ok (.cpCurSave 2 9 11 true 1021 true) ∧
    decodeOp .cp false 0x0a06100801600000 = .ok (.cpCurStatus 3 4 false 5 true) ∧
    decodeOp .cp false 0x0b024f9672200000 = .ok (.rcast ⟨1, 2, false, true, 3, true, 37, 9, 200, true⟩) ∧
    decodeOp .cp false 0x0c02702a84ffe000 = .ok (.plQ ⟨1, 3, 129, 5, 66, 7, 255⟩) ∧
    decodeOp .cp false 0x0d04b0529a000000 = .ok (.clRun ⟨2, 5, 130, 9, 77, 0⟩) ∧
    decodeOp .cp false 0x0e04d0529bffffe0 = .ok (.clArm ⟨2, 6, 130, 9, 77, 1048575⟩) ∧
    decodeOp .cp false 0x0f04f0529a000000 = .ok (.mlr ⟨2, 7, 130, 9, 77, 0⟩) := by decide +kernel
/-- R197: microwords. -/
theorem test_decode_microwords :
    decodeMicro 0x1800000000000000 = some (.wpopa true) ∧
    decodeMicro 0x2000000000000000 = some (.wpopb false) ∧
    decodeMicro 0x3a00000000000000 = some (.wfeed 2 true false) ∧
    decodeMicro 0x4d00000000000000 = some (.wgroup true 5 false 0) ∧
    decodeMicro 0x5800000000000000 = some (.wsum true) ∧
    decodeMicro 0x6400000000000000 = some (.wretire false true) ∧
    decodeMicro 0x7db1f00000000000 = some (.wsend true 2 true 5 17 30) ∧
    decodeMicro 0x8a00000000000000 = some (.wfmt 5) ∧
    decodeMicro 0x9f80000000000000 = some (.wloop 3 true 6 0) ∧
    decodeMicro 0x9400000080000001 = some (.wloop 1 false 0 0x80000001) ∧
    decodeMicro 0xa980200000000000 = some (.wjump 2 1 1025) ∧
    decodeMicro 0xb800000000000000 = some (.wwait true false) ∧
    decodeMicro 0xc000000000000000 = some .wend := by decide +kernel

/-! Hypotheses that can be met: encoding, steps, groups, results. -/

theorem witness_SyllableDecodeOfEncode : ∃ (y : Syl) (n : Nat) (fs : List (Nat × Nat)) (w : Word64), y.op.wf = true ∧
    slotFields y.op = some (.va, n, fs) ∧ repeats y.op = false ∧ y.hold = true ∧ y.pred = 15 ∧ encodeSyl y = some w :=
  ⟨⟨true, true, 15, .vadd ⟨607, 0, 511, 0, 7, false, 6, 0⟩⟩, _, _, _, by decide +kernel, rfl, rfl, rfl, rfl, rfl⟩
theorem witness_SyllableDecodeOfEncode_repeat : ∃ (y : Syl) (n : Nat) (fs : List (Nat × Nat)) (w : Word64), y.op.wf = true ∧
    slotFields y.op = some (.mx, n, fs) ∧ repeats y.op = true ∧ y.pn = false ∧ y.pred = 0 ∧ encodeSyl y = some w :=
  ⟨⟨false, false, 0, .macz true (some 255)⟩, _, _, _, by decide +kernel, rfl, rfl, rfl, rfl, rfl⟩
theorem witness_SyncAndMicrowordDecodeOfEncode : ∃ (i j : Instr) (w : BitVec 48) (v : Word64), i.wf = true ∧ encodeSync i = some w ∧
    j.wf = true ∧ encodeMicro j = some v :=
  ⟨.tsys 0xffff, .wsend true 3 true 7 31 31, _, _, by decide +kernel, rfl, by decide +kernel, rfl⟩
theorem witness_DecodedIsWellFormed : ∃ i j k, decodeOp .s false 0x2507c00000000200 = .ok i ∧ decodeSync 0x48a0c4028000 = .ok j ∧
    decodeMicro 0xc000000000000000 = some k :=
  ⟨.call 62 512, .seArrive ⟨10, 3, 4, 0, 40, false⟩, .wend, by decide +kernel, by decide +kernel, by decide +kernel⟩
/-- A bundle with one operation of the S slot, guarded by p0. -/
def addBundle : Bundle := { stop := true, sync := .snop, slots := [(.s, ⟨true, false, 0, .sadd ⟨63, 0, true, 0, 5⟩⟩)] }
/-- The state whose turn it is, and the one after the landings of its tick. -/
def turnOf (b : Bundle) : State := { issuing b with turn := [] }
def landed (b : Bundle) : State :=
  got (exec (.landing 0 0) { turnOf b with cur := { core := 0, slot := 0, lane := .sync, pc := 0x10000, link := 0x10010, held := false } })
theorem witness_StepRunsDecodedOperations : ∃ v, (issuing addBundle).pick = .turn 0 (turnOf addBundle) ∧
    ((turnOf addBundle).core 0).issuing = some 0 ∧ (((turnOf addBundle).core 0).choose.any fun n => (turnOf addBundle).now < n) = false ∧
    ((turnOf addBundle).ctx 0).grp = some (oneOp addBundle) ∧ (oneOp addBundle).bundles[0]? = some (0x10000, addBundle, []) ∧
    Lane.s ∈ Lane.slots ∧ exec (.landing 0 0)
      { turnOf addBundle with cur := { core := 0, slot := 0, lane := .sync, pc := 0x10000, link := 0x10010, held := false } } = .next (landed addBundle) ∧
    ((landed addBundle).setLane .s).me.performs ⟨true, false, 0, .sadd ⟨63, 0, true, 0, 5⟩⟩ = true ∧
    exec (.sadd ⟨63, 0, true, 0, 5⟩) ((landed addBundle).setLane .s) = .next v :=
  ⟨_, by decide +kernel, by decide +kernel, by decide +kernel, by decide +kernel, by decide +kernel, by decide +kernel, rfl, by decide +kernel, rfl⟩
theorem witness_StepRunsDecodedOperations_sync : (issuing ⟨true, .halt, []⟩).pick = .turn 0 (turnOf ⟨true, .halt, []⟩) ∧
    ((turnOf ⟨true, .halt, []⟩).core 0).issuing = some 0 ∧
    (((turnOf ⟨true, .halt, []⟩).core 0).choose.any fun n => (turnOf ⟨true, .halt, []⟩).now < n) = false ∧
    ((turnOf ⟨true, .halt, []⟩).ctx 0).grp = some (oneOp ⟨true, .halt, []⟩) ∧
    exec (.landing 0 0) { turnOf ⟨true, .halt, []⟩ with cur := { core := 0, slot := 0, lane := .sync, pc := 0x10000, link := 0x10010, held := false } } =
      .next (landed ⟨true, .halt, []⟩) ∧ ∃ v, exec .halt ((landed ⟨true, .halt, []⟩).setLane .sync) = .next v :=
  ⟨by decide +kernel, by decide +kernel, by decide +kernel, by decide +kernel, rfl, _, rfl⟩
/-- Reset with a head word placed at its pc. -/
def fetches (w : Nat) : State := State.reset.withFetchWord 64 w
/-- The states inside a step that enters a group and issues its one bundle: the core's turn, the group entered, the landings, the slots. -/
def knotTurn : State := { fetches 0x0400000000000080 with turn := [] }
def knotEntered : State := got (exec (.groupEntry 0) knotTurn)
def knotLanding : Res := exec (.landing 0 0) { knotEntered with cur := { core := 0, slot := 0, lane := .sync, pc := 0x10000, link := 0x10008, held := false } }
def knotSlots : Res := State.issueLanes ⟨true, .knot, []⟩ 0 [] Lane.slots (got knotLanding)
theorem witness_StepRunsDecodedOperations_entry : (fetches 0x0400000000000080).pick = .turn 0 knotTurn ∧ (knotTurn.core 0).issuing = some 0 ∧
    ((knotTurn.core 0).choose.any fun n => knotTurn.now < n) = false ∧ (knotTurn.ctx 0).grp = none ∧
    knotTurn.barred 0 0 = false ∧ (knotTurn.ctx 0).iss.placed = true ∧ (knotTurn.ctx 0).iss.halted = false := by decide +kernel
theorem witness_StepRunsDecodedOperations_bundle : (knotTurn.ctx 0).iss.freeze = none ∧ (knotTurn.ctx 0).iss.blocked = none ∧
    (knotTurn.ctx 0).dutyOk = true ∧ exec (.groupEntry 0) knotTurn = .next knotEntered ∧
    (∃ g form, (knotEntered.ctx 0).grp = some g ∧ g.idx = 0 ∧ g.next = 0x10008 ∧ g.again = [] ∧ g.bundles[g.idx]? = some (0x10000, ⟨true, .knot, []⟩, form)) ∧
    knotLanding = .next (got knotLanding) ∧ knotSlots = .next (got knotSlots) ∧
    exec .knot ((got knotSlots).setLane .sync) = .next (got (exec .knot ((got knotSlots).setLane .sync))) :=
  ⟨by decide +kernel, by decide +kernel, by decide +kernel, next_got _ (by decide +kernel),
    ⟨(((knotEntered.ctx 0).grp).getD (oneOp addBundle)), 0x0400000000000080 :: List.replicate 7 0, by decide +kernel, by decide +kernel, by decide +kernel, by decide +kernel, by decide +kernel⟩,
    next_got _ (by decide +kernel), next_got _ (by decide +kernel), next_got _ (by decide +kernel)⟩
/-- A syllable that performs, one whose predicate is false, a slot with nothing, one held that performs again, and one held that does not. -/
theorem witness_StepRunsDecodedOperations_slots :
    let op : Syl := ⟨false, false, 0, .sadd ⟨63, 0, true, 0, 5⟩⟩
    let no : Syl := ⟨false, true, 0, .sadd ⟨63, 0, true, 0, 5⟩⟩
    let two : Bundle := ⟨true, .snop, [(.s, op), (.va, no)]⟩
    let holds (y : Syl) : State := (landed two).setMe ((landed two).me.setHold .s { y with hold := true })
    ((landed two).setLane .s).me.performs op = true ∧ completes (exec op.op ((landed two).setLane .s)) = true ∧
    ((landed two).setLane .va).me.performs no = false ∧ ((two.slots.find? fun e => e.1 = .ld).map Prod.snd) = none ∧
    (got (exec (.heldReissue .s) (holds op))).redo = some op.op ∧ (got (exec (.heldReissue .s) (holds no))).redo = none := by decide +kernel
theorem witness_GroupEntryTakesDecodedBundles : ((fetches 0x0400000000000080).core 0).issuing = some 0 ∧ ((fetches 0x0400000000000080).ctx 0).grp = none ∧
    ((fetches 0x0400000000000080).ctx 0).iss.skip = 0 ∧
    ∃ t, exec (.groupEntry 0) (fetches 0x0400000000000080) = .next t ∧ (t.ctx 0).grp.isSome = true :=
  ⟨by decide +kernel, by decide +kernel, by decide +kernel, _, next_got _ (by decide +kernel), by decide +kernel⟩
/-- A word of the loop buffer, one that no line holds, and one of a line that memory has overtaken. -/
theorem witness_GroupEntryTakesDecodedBundles_words : let s := fetches 0x0400000000000080
    let t := s.setCore 0 { s.core 0 with icache := [⟨0, 0x400, [7, 0, 0, 0, 0, 0, 0, 0]⟩] }
    Sp.find [(0x10000, (5 : Word64))] 0x10000 = some 5 ∧ (s.core 0).lineAt 0 0x400 = none ∧ ((t.core 0).lineAt 0 0x400).isSome = true ∧
    (t.readPart 0 0x10000).isSome = true := by decide +kernel
/-- R122, R332: sync opcode 0x07 is unassigned. -/
theorem witness_EventsFreezeTheirContexts : ∃ i f l e, let u := (fetches 0x1c00000000000080).passOver 0 0
    ((fetches 0x1c00000000000080).core 0).issuing = some 0 ∧ (u.ctx 0).iss.routineEvent = none ∧ (u.ctx 0).iss.pc.toNat % 8 = 0 ∧ (u.ctx 0).iss.skip = 0 ∧
    u.fetchGroup 0 (u.ctx 0).loopBuffer (u.ctx 0).place.part 8 (u.ctx 0).iss.pc = ([f], none) ∧ decodeGroup [f] 0 = .inr (i, f, l, e) ∧ e.sub = 2 ∧
    (u.ctx 0).hold = [] ∧ (u.ctx 0).landing = [] ∧ (u.ctx 0).ringDue = [] :=
  ⟨0, ⟨0x10000, 0x1c00000000000080, []⟩, _, _, by decide +kernel, by decide +kernel, by decide +kernel, by decide +kernel, by decide +kernel, rfl,
    by decide +kernel, by decide +kernel, by decide +kernel, by decide +kernel⟩
theorem witness_EventsFreezeTheirContexts_address :
    let s := (fetches 0).setCtx 0 { placed with iss := { placed.iss with pc := 0x10004 } }
    (s.core 0).issuing = some 0 ∧ ((s.passOver 0 0).ctx 0).iss.routineEvent = none ∧ ((s.passOver 0 0).ctx 0).iss.pc.toNat % 8 ≠ 0 := by decide +kernel
/-- Slot 1 has frozen in this cycle, and its record is in the queue before slot 0's. -/
theorem witness_EventsFreezeTheirContexts_order : ∃ x : List Word64,
    let s := ((withCtx placed).setCtx 1 { placed with iss := { placed.iss with freeze := some ⟨2, 1, true, 0⟩ } }).setDie 0 { Die.reset with events := [x] }
    ([1, 2, 3].filter fun k => 0 < k && (s.ctx (Machine.ck 0 k)).iss.freeze.any fun f => f.since = s.now) = [1] ∧ (s.die 0).events = [] ++ [x] ∧
    fldN (x.getD 0 0) 16 12 = 0 ∧ fldN (x.getD 0 0) 28 2 = 1 := ⟨[pack [(28, 1)]], by decide +kernel⟩
theorem witness_EventsFreezeTheirContexts_calls : ∃ (a b : After), (a.op = .tsys 0xffff ∧ 7 = 7) ∧ (b.op = .brk 0 ∧ 8 = 8) :=
  ⟨⟨.tsys 0xffff, 7, 0x10000, 0, []⟩, ⟨.brk 0, 0, 0x10000, 0, []⟩, ⟨rfl, rfl⟩, rfl, rfl⟩
/-- One result in flight for a register, due at a tick, the context's tick being 5. -/
def flying (r : Result) : State := withCtx { placed with iss := { placed.iss with tick := 5 }, landing := [r] }
/-- Every destination, mask and set of flags; early, at its tick, late, and with its value still away. -/
theorem witness_LandingWritesAtItsTick : ∀ (d : Dest) (mask : Row) (flags : BitVec 6) (arrived : Bool), ∀ due ∈ [4, 5, 6],
    ((flying ⟨due, d, 9, mask, flags, true, arrived, 0⟩).ctx (Machine.ck 0 0)).landing = [⟨due, d, 9, mask, flags, true, arrived, 0⟩] ∧
    ((flying ⟨due, d, 9, mask, flags, true, arrived, 0⟩).ctx (Machine.ck 0 0)).ringDue = [] ∧
    ((flying ⟨due, d, 9, mask, flags, true, arrived, 0⟩).ctx (Machine.ck 0 0)).iss.tick = 5 := fun _ _ _ _ _ _ => ⟨rfl, rfl, rfl⟩
theorem witness_HardwiredRegistersAndGatheredFlags : ∃ r q : Result, r.dest = .s 0 ∧ q.dest = .p 0 ∧ r.dest ≠ .fmt ∧ r.flags = 63 :=
  ⟨⟨0, .s 0, 1, allOnes, 63, true, true, 0⟩, ⟨0, .p 0, 1, allOnes, 0, true, true, 0⟩, rfl, rfl, by decide, rfl⟩

/-! Hypotheses that can be met: scalar and vector instructions. -/

theorem witness_ScalarBitOperations : ∃ (x : Word64), x.toNat = 64 ∧ (63 : Nat) < 64 ∧ ∃ y : Word64, y.toNat = 2 ^ 64 - 1 := ⟨64, rfl, by decide, -1, rfl⟩
theorem witness_ComparisonsAndPredicates : ∀ c : BitVec 4, ∃ o : SelOp, o.x = c := fun c => ⟨⟨15, 0, true, 0, c, -1⟩, rfl⟩
/-- A level of count 0 in a nest, and a nest with none. -/
theorem witness_LoopsAndBodies : (∃ k, 0 ≤ k ∧ k ≤ 5 ∧ k < 6 ∧ Sp.get 0 (withCtx placed).me.regs.lc k = 0) ∧
    (∀ k, 5 ≤ k → k ≤ 5 → k < 6 → Sp.get 0 (withCtx { placed with regs := { Regs.reset with lc := [(5, 1)] } }).me.regs.lc k ≠ 0) ∧
    ∃ b : Body, ((withCtx { placed with body := some ⟨0x10008, 1, 0, true, []⟩ }).ctx (Machine.ck 0 0)).body = some b ∧ b.ended = true := by
  refine ⟨⟨5, by decide, by decide, by decide, by decide +kernel⟩, ?_, ⟨0x10008, 1, 0, true, []⟩, by decide +kernel, rfl⟩
  intro k h1 h2 _
  obtain rfl : k = 5 := by omega
  decide +kernel
theorem witness_SpecialAndAddressRegisters : (0 : Nat) < 8 ∧ (7 : Nat) < 8 := by decide
theorem witness_ComputingAndControlFrames : (∀ i ∈ [Instr.sadd ⟨63, 0, true, 0, 5⟩, .ldRow 639 ⟨15, true, -1⟩, .vmov ⟨639, 0, 0, 0, 0, false, 0, 0⟩, .mset true 3 0, .drain 3],
      computes i = true ∧ completes (exec i (withCtx placed)) = true) ∧
    (∀ i ∈ [Instr.br 1, .jmp 0, .call 63 1, .ret 0, .jr 0 1], isTransfer i = true ∧ completes (exec i (withCtx placed)) = true) ∧
    completes (exec (.lbody 0 0 5 7) (withCtx placed)) = true := by decide +kernel
theorem witness_VectorFloatArithmetic : ∀ ty ∈ [0, 1, 2, 3, 4, 5], (VecOp.fmt ⟨639, 0, 511, 0, 7, true, ty, 0⟩).isFloat = true := by decide
theorem witness_FunctionsOfSpecialOperands : ∀ f ∈ [Fmt.f32, .f16, .bf16], f.clsF = true ∧ decodeNum f f.nan = .nan ∧
    decodeNum f f.infCode = .inf false ∧ decodeNum f (2 ^ (f.width - 1) + f.infCode) = .inf true ∧ (∃ e, decodeNum f 0 = .fin false 0 e) ∧
    (∃ e, decodeNum f (2 ^ (f.width - 1)) = .fin true 0 e) ∧ ∃ m e, decodeNum f (2 ^ (f.width - 1) + 1) = .fin true (m + 1) e := by
  intro f h
  simp only [List.mem_cons, List.not_mem_nil, or_false] at h
  rcases h with rfl | rfl | rfl <;> exact ⟨rfl, by decide, by decide, by decide, ⟨_, rfl⟩, ⟨_, rfl⟩, 0, _, rfl⟩
theorem witness_VectorIntegerAndLogic : ∀ ty ∈ [6, 7, 8, 9, 10, 11, 12, 13], (VecOp.fmt ⟨639, 0, 511, 0, 7, true, ty, 0⟩).isFloat = false := by decide
theorem witness_VectorComparisonsAndMasks : ∃ (o : VecOp), o.x.toNat < 6 ∧ (127 : Nat) < 128 ∧ (127 : Nat) < o.n := ⟨⟨7, 0, 511, 0, 0, false, 8, 5⟩, by decide, by decide, by decide⟩
theorem witness_VectorConversions : ∃ o p q : CvtOp, o.part.toNat < o.ratio ∧ o.part = 3 ∧ p.to.width = 2 * p.from.width ∧ p.part.toNat < 2 ∧ p.part = 1 ∧
    q.from.width = 2 * q.to.width :=
  ⟨⟨639, 0, 0, 0, 3, false, false, 7, true, 12⟩, ⟨639, 0, 0, 8, 1, false, false, 0, false, 7⟩, ⟨0, 1, 2, 6, 0, false, false, 0, false, 7⟩,
    by decide, rfl, by decide, by decide, rfl, by decide⟩
theorem witness_VectorPermutationsAndTransfers : ∀ x ∈ [0, 1, 2, 3, 4], ∃ (o : VecOp), o.x = x ∧ (127 : Nat) < 128 := fun x _ => ⟨⟨0, 1, 2, 0, 0, false, 0, x⟩, rfl, by decide⟩
/-- The values of the active lanes of a vector operation. -/
def actives (s : State) (o : VecOp) : List Nat := ((List.range o.n).filter (active o.ke (s.k o.km) o.n)).map (laneN (s.v o.a) o.w)
/-- v0 holds lanes 1, 2 and zeros; k0 is all ones, k1 has all bits but bit 0 set, k2 none. -/
def lanes : State := withCtx { placed with regs := { Regs.reset with v := [(0, 0x200000001), (1, 0x7fc00000)], k := [(1, ~~~1), (2, 0)] } }
/-- R160: no active lane, a greatest and a least one; the same for floats without and with a NaN. -/
theorem witness_VectorReductions : (VecOp.fmt ⟨0, 0, 0, 0, 0, false, 6, 0⟩).isFloat = false ∧ (VecOp.fmt ⟨0, 0, 0, 0, 0, false, 0, 0⟩).clsF = true ∧
    actives lanes ⟨0, 0, 0, 0, 2, true, 6, 0⟩ = [] ∧
    (∃ x ∈ actives lanes ⟨0, 0, 0, 0, 0, false, 6, 0⟩, ∀ y ∈ actives lanes ⟨0, 0, 0, 0, 0, false, 6, 0⟩, intOf .s32 y ≤ intOf .s32 x) ∧
    (∃ x ∈ actives lanes ⟨0, 0, 0, 0, 0, false, 6, 0⟩, ∀ y ∈ actives lanes ⟨0, 0, 0, 0, 0, false, 6, 0⟩, intOf .s32 x ≤ intOf .s32 y) ∧
    (∃ x ∈ actives lanes ⟨0, 1, 0, 0, 0, false, 0, 0⟩, decodeNum .f32 x = .nan) ∧
    (∀ x ∈ actives lanes ⟨0, 0, 0, 0, 0, false, 0, 0⟩, decodeNum .f32 x ≠ .nan) ∧
    (∃ x ∈ actives lanes ⟨0, 0, 0, 0, 0, false, 0, 0⟩, ∀ y ∈ actives lanes ⟨0, 0, 0, 0, 0, false, 0, 0⟩, y = x ∨ (decodeNum .f32 y).lt (decodeNum .f32 x) = true) ∧
    (∃ x ∈ actives lanes ⟨0, 0, 0, 0, 0, false, 0, 0⟩, ∀ y ∈ actives lanes ⟨0, 0, 0, 0, 0, false, 0, 0⟩, y = x ∨ (decodeNum .f32 x).lt (decodeNum .f32 y) = true) := by
  decide +kernel
theorem witness_TopKRanksLanes : ∃ o : VecOp, (31 : Nat) < o.n ∧ (31 : Nat) < o.c.toNat ∧ ∃ p : VecOp, (31 : Nat) < p.n ∧ p.c.toNat ≤ 1 :=
  ⟨⟨0, 1, 0, 32, 0, false, 0, 0⟩, by decide, by decide, ⟨0, 1, 0, 1, 0, true, 0, 1⟩, by decide, by decide⟩

/-! Hypotheses that can be met: rows, ropes, the matrix unit. -/

theorem witness_OwnWritesBeforeVisibleOnes : Core.reset.log = [] ∧ Core.reset.shadow = [] ∧ ∃ w : RowWrite, w.tick + 2 ≤ 5 ∧ ¬ w.tick + 2 ≤ 4 ∧ w.slot ≠ 0 :=
  ⟨rfl, rfl, ⟨3, 3, 2559, allOnes, allOnes, 0, .store⟩, by decide, by decide, by decide⟩
theorem witness_StoresFillsAndRingAppends : (31 : Nat) < 1024 / (Fmt.get 0).width ∧ (255 : Nat) < 1024 / (Fmt.get 5).width ∧ ∃ f : Fill,
    (({ withCtx placed with cores := [(0, { Core.reset with fills := [⟨1, 0, 0, 2496, 64, 63, 7, 0⟩] })] } : State).core 0).fills.find? (fun f => f.slot = 0) = some f :=
  ⟨by decide, by decide, _, rfl⟩
theorem witness_StoreFrame : ∀ i ∈ [Instr.stRow 639 ⟨15, true, -1⟩, .stRowk 0 ⟨0, false, 0⟩ 7 5, .stLane 0 ⟨0, false, 0⟩ 255 5, .stFill 63 ⟨0, false, 0⟩ 63,
    .stRing 0 7, .xsend 0 ⟨0, false, 0⟩ false true true, .xsel ⟨0, false, 0⟩ true false false 0x5f 23],
    isStore i = true ∧ completes (exec i (withCtx placed)) = true := by decide +kernel
/-- One beat on the ropes, at cycle 5. -/
def roped (b : Beat) : State := { State.reset with fabric := { Fabric.reset with beats := [b] }, now := 5 }
/-- A beat that stands still; one at its edge east and west; full and half width at a boundary; one inside its die. -/
theorem witness_RopeExchange : ∀ e ∈ [((false, 3, true, 0, 29, 5), 0), ((false, 29, true, 0, 29, 4), 1), ((true, 0, false, 0, 29, 4), 1), ((false, 29, true, 0, 59, 4), 2),
      ((true, 30, false, 0, 59, 4), 3), ((false, 28, true, 0, 59, 4), 4)],
    let b : Beat := ⟨0, e.1.1, e.1.2.1, 1, e.1.2.2.1, false, e.1.2.2.2.1, e.1.2.2.2.2.1, e.1.2.2.2.2.2, 0, 0, 0⟩
    let edge : Bool := if b.dir then b.strip ≤ b.lo else b.hi ≤ b.strip
    let cross : Bool := if b.dir then b.strip % 30 = 0 else b.strip % 30 = 29
    (roped b).fabric.beats = [b] ∧ (e.2 = 0 → (roped b).now ≤ b.at_) ∧ (e.2 ≠ 0 → b.at_ < (roped b).now) ∧ (e.2 = 1 → edge = true) ∧
      (e.2 = 2 → edge = false ∧ cross = true ∧ b.full = true) ∧ (e.2 = 3 → edge = false ∧ cross = true ∧ b.full = false) ∧
      (e.2 = 4 → edge = false ∧ cross = false) := by decide +kernel
/-- Core 0 stands at course 0, row 0 of die 0: the offsets that stay inside the package, and those that leave it. -/
theorem witness_RopeExchange_capture : (0 ≤ (24 * coreDie 0 + coreCourse 0 : Nat) + (95 : Int) ∧ (24 * coreDie 0 + coreCourse 0 : Nat) + (95 : Int) < 96) ∧
    (0 ≤ (coreRow 0 : Nat) + (23 : Int) ∧ (coreRow 0 : Nat) + (23 : Int) < 24) ∧ ∃ m : Mux,
      (({ State.reset with cores := [(0, { Core.reset with muxes := [⟨4, 0, true, false, true, 7, 0, none, List.replicate 16 1, false, 0⟩] })] } : State).core 0).muxes.find?
        (fun m => m.id = 4) = some m ∧ m.bad = false ∧ m.parts.length = 16 := ⟨by decide, by decide, _, rfl, rfl, rfl⟩
/-- A multiplexer of core 0 that has captured nothing and starts in cycle 5, at full and at half width, with and without a lane of the package. -/
theorem witness_RopeExchange_parts : ∀ hw : Bool, ∀ lane ∈ [some (1, 0, 0), some (0, 0, 0), none],
    let m : Mux := ⟨4, 0, true, false, hw, 7, 5, lane, [], false, 0⟩
    let s : State := { roped ⟨576, false, coreStrip 0, 1, true, false, 0, 29, 5, 0, 0, 0⟩ with cores := [(0, { Core.reset with muxes := [m] })] }
    m ∈ (s.core 0).muxes ∧ m.start + m.parts.length = s.now ∧ m.parts.length < (if m.hw then 16 else 8) := by decide +kernel
/-- A queue of one entry on core 0, slot 0. -/
def queued (op : Instr) (rep : Nat) (run : Option MRun) : Ctx :=
  { placed with matrix := { Matrix.reset with queue := [{ MEntry.idle with op, rep, id := 1 }], run } }
theorem witness_MatrixEntriesStartAndRetire : (∀ op ∈ [Instr.macz true none, .mwrite 0 1 true 31 none, .mcall 7 true true none],
      (withCtx (queued op 1 none)).entryReady 0 0 = true ∧ ((withCtx (queued op 1 none)).ctx 0).entry.op = op) ∧
    Sp.get none ((withCtx placed).core 0).routines 7 = some 42 ∧
    ∀ op ∈ [Instr.macz true (some 1), .mwrite 0 1 true 31 (some 1), .mcall 7 true true (some 1)], ∀ n ∈ [1, 2], ∃ e q r,
      ((withCtx (queued op n (some { MRun.idle with ended := some 0 }))).ctx (Machine.ck 0 0)).matrix.queue = e :: q ∧
      ((withCtx (queued op n (some { MRun.idle with ended := some 0 }))).ctx (Machine.ck 0 0)).matrix.run = some r ∧ r.ended.isSome = true ∧ e.op = op ∧ e.rep = n :=
  ⟨by decide +kernel, by decide +kernel, fun _ _ _ _ => ⟨_, _, _, rfl, rfl, rfl, rfl, rfl⟩⟩
/-- A block of 32 rows of ring 0, and a K-block that retires now. -/
def block : Block := ⟨0, 0, 32, false, false, List.replicate 32 0⟩
def feed (nan pop : Bool) : Feed := ⟨3, 0, block, { block with ring := 1 }, 0, 0, none, none, pop, pop, nan, List.replicate 32 0, List.replicate 32 0⟩
/-- A routine with these feeds, sends and bound blocks. -/
def running (feeds : List Feed) (sends : List Nat) (a b : List Block) : Ctx :=
  queued (.mcall 0 false false none) 1 (some { MRun.idle with feeds, sends, blocksA := a, blocksB := b })
/-- An operand of single-precision zeros, and a grouped one of 4-bit integers whose groups of 32 have scale 1. -/
def zerosOf (grouped : Bool) : Operand :=
  ⟨if grouped then .s4 else .f32, 0, grouped, List.replicate 32 0, false, 0, 32, if grouped then some 0x3c00 else none⟩
theorem witness_KBlocksRetireIntoTheTile_beats : ((zerosOf false).val 0 63).units 0 = some 0 ∧ ((zerosOf false).grouped && (zerosOf false).grouped) = false ∧
    ((zerosOf true).grouped && (zerosOf true).grouped) = true ∧ (0 + 1) * 16 % 32 ≠ 0 ∧ (1 + 1) * 16 % 32 = 0 ∧ ((zerosOf true).scale 0 0).units 0 = some 1 := by decide +kernel
/-- A NaN and a number added to a pair, and a sum that becomes infinite. -/
theorem witness_KBlocksRetireIntoTheTile_pairs : decodeNum .f32 0x7fc00000 = .nan ∧ decodeNum .f32 0x3f800000 ≠ .nan ∧
    ∀ e ∈ [(0x7f7fffff, false), (0x3f800000, true)],
      (decodeNum .f32 (roundTo .f32 false ((decodeNum .f32 0x7f7fffff).add (decodeNum .f32 e.1))).1).isFin = e.2 := by decide +kernel
theorem witness_KBlocksRetireIntoTheTile : ∀ nan ∈ [false, true], ∀ pop ∈ [false, true], ∃ r f fs, ((withCtx (running [feed nan pop] [] [block] [block])).ctx (Machine.ck 0 0)).matrix.run = some r ∧
    r.feeds = f :: fs ∧ f.retire ≤ (withCtx (running [feed nan pop] [] [block] [block])).now ∧ f.nan = nan ∧ f.popA = pop :=
  fun _ _ _ _ => ⟨_, _, _, rfl, rfl, Nat.le_refl _, rfl, rfl⟩
theorem witness_SteeringMicrowords : ∀ fs ∈ [[], [feed false false]], ∀ ss ∈ [[], [5]], ∃ r, (withCtx (running fs ss [] [])).me.active = some r ∧ r.feeds = fs ∧ r.sends = ss :=
  fun _ _ _ _ => ⟨_, rfl, rfl, rfl⟩
theorem witness_SteeringMicrowords_retire : ∃ r fs f, (withCtx (running [feed false false, { feed false false with id := 4 }] [] [] [])).me.active = some r ∧ r.feeds = fs ++ [f] ∧ ∀ g ∈ fs, g.id ≠ f.id :=
  ⟨_, [feed false false], { feed false false with id := 4 }, rfl, rfl, by decide +kernel⟩
/-- `wpopa` and `wpopb` wait, bind and fail by the rows of their rings: ring 0 holds 64 rows of which 31 or 32 have landed, ring 1 holds 16. -/
theorem witness_DataMicrowords : ∀ tail ∈ [31, 32], ∃ r, (withCtx { running [] [] [] [] with regs := { Regs.reset with ring := [(0, pack [(48, 6), (24, tail)])] } }).me.active = some r ∧
    (let g := (withCtx { running [] [] [] [] with regs := { Regs.reset with ring := [(0, pack [(48, 6), (24, tail)])] } }).me.regs.ringOf 0
     blockRows r.fmt false false r.sa.isSome = 32 ∧ 32 ≤ 2 ^ ringLsize g ∧ (ringTail g + 4096 - (ringHead g + 0) % 4096) % 4096 = tail ∧ r.blocksA ++ r.blocksB = []) := by
  intro tail h
  simp only [List.mem_cons, List.not_mem_nil, or_false] at h
  rcases h with rfl | rfl <;> exact ⟨_, rfl, by decide +kernel⟩
theorem witness_DataMicrowords_fail : ∃ r, (withCtx { running [] [] [] [] with regs := { Regs.reset with ring := [(1, pack [(48, 4)])] } }).me.active = some r ∧
    2 ^ ringLsize ((withCtx { running [] [] [] [] with regs := { Regs.reset with ring := [(1, pack [(48, 4)])] } }).me.regs.ringOf 1) < blockRows r.fmt true false r.sb.isSome ∧
    (withCtx (running [] [] [] [])).me.iss.halted = false ∧ (withCtx (running [] [] [] [])).me.iss.routineEvent = none ∧ r.blocksA = [] :=
  ⟨_, rfl, by decide +kernel, by decide +kernel, by decide +kernel, rfl⟩
/-- A routine that may feed at cycle 4, and not at cycle 3. -/
theorem witness_DataMicrowords_feed : ∃ r, (withCtx (running [] [] [block] [block])).me.active = some r ∧ r.blocksA = [] ++ [block] ∧ r.blocksB = [] ++ [block] ∧
    r.feedFrom ≤ ({ withCtx (running [] [] [block] [block]) with now := 4 } : State).now ∧ ({ withCtx (running [] [] [block] [block]) with now := 3 } : State).now < r.feedFrom ∧
    (withCtx (running [] [] [block] [block])).here.arrayFree ≤ 4 ∧ (∀ k, k ≠ 0 → ({ withCtx (running [] [] [block] [block]) with now := 4 } : State).feedReady 0 k = false) ∧
    (withCtx (running [] [] [block] [block])).cur.slot < 4 := by
  refine ⟨_, rfl, rfl, rfl, by decide +kernel, by decide +kernel, by decide +kernel, ?_, by decide +kernel⟩
  intro k hk
  have h : ({ withCtx (running [] [] [block] [block]) with now := 4 } : State).ctx (Machine.ck 0 k) = Ctx.reset :=
    Sp.get_put_other Ctx.reset [] (running [] [] [block] [block]) (i := 0) (show Machine.ck 0 k ≠ 0 by unfold Machine.ck; omega)
  simp only [State.feedReady, h]
  rfl
/-- Feeds outstanding, none outstanding, and rows inside and outside the window. -/
theorem witness_DataMicrowords_send : (∃ r, (withCtx (running [feed false false] [] [] [])).me.active = some r ∧ r.feeds ≠ []) ∧
    (∃ r, (withCtx (running [] [] [] [])).me.active = some r ∧ r.feeds = []) ∧ (withCtx (running [] [] [] [])).me.inWindow 2559 = true ∧
    (withCtx (running [] [] [] [])).me.inWindow 2560 = false := ⟨⟨_, rfl, by simp⟩, ⟨_, rfl, rfl⟩, by decide +kernel, by decide +kernel⟩

/-! Hypotheses that can be met: synchronisation, copy engine, layout units, posting lists. -/

theorem witness_SyncOperationsAndFences : ∃ g e, (withCtx { placed with grp := some (oneOp ⟨true, .brk 0xffff, []⟩) }).me.grp = some g ∧ g.bundles[g.idx]? = some e :=
  ⟨_, (0x10000, ⟨true, .brk 0xffff, []⟩, []), rfl, rfl⟩
theorem witness_EngineOperationsAreSent : ∀ o : SeOp, ∀ i ∈ [Instr.seLd o, .seSt o, .seAdd o, .seMin o, .seMax o, .seAnd o, .seOr o, .seXor o, .seSwap o, .seCas o,
    .seArrive o, .seAwait o, .seSemdown o, .seSemup o, .seAlloc o, .seFree o], seOp i = some o := by
  intro o i h
  simp only [List.mem_cons, List.not_mem_nil, or_false] at h
  rcases h with rfl | rfl | rfl | rfl | rfl | rfl | rfl | rfl | rfl | rfl | rfl | rfl | rfl | rfl | rfl | rfl <;> rfl
/-- Die 0 with partition 0, and one operation that has reached its engine: the last variable of the SRAM. -/
def asked (op : Instr) : SeReq := ⟨9, 0, 0, 0, Place.reset, op, 786431, 5, 6, 0, false, 0, none⟩
def asking (q : SeReq) : State :=
  { (withCtx { placed with iss := { placed.iss with grant := some 12 }, landing := [⟨4, .s 3, 0, allOnes, 0, true, false, 9⟩] }).setPart 0 { Part.reset with cfg := { PartCfg.reset with dies := [0] } } with
    seReqs := [q] }
theorem witness_EngineVariablesAndBarriers : ∀ op ∈ [Instr.seLd ⟨1, 2, 0, 0, 1, true⟩, .seSt ⟨0, 2, 3, 0, 0, true⟩, .seAdd ⟨1, 2, 3, 0, 1, false⟩, .seMin ⟨1, 2, 3, 0, 1, false⟩,
      .seMax ⟨1, 2, 3, 0, 1, false⟩, .seAnd ⟨1, 2, 3, 0, 1, false⟩, .seOr ⟨1, 2, 3, 0, 1, false⟩, .seXor ⟨1, 2, 3, 0, 1, false⟩, .seSwap ⟨1, 2, 3, 0, 1, false⟩,
      .seCas ⟨1, 2, 3, 4, 1, true⟩, .seArrive ⟨1, 2, 3, 0, 1, false⟩, .seAwait ⟨0, 2, 3, 0, 0, false⟩, .seSemdown ⟨0, 2, 3, 0, 0, false⟩, .seSemup ⟨0, 2, 3, 0, 0, false⟩, .seFree ⟨0, 2, 0, 0, 0, false⟩],
    (asking (asked op)).seReqs.find? (fun r => r.id = 9 && !r.performed) = some (asked op) ∧ (asking (asked op)).seRefusal (asked op) 0 = none ∧
    (asked op).handle.getLsbD 63 = false ∧ (asked op).place.part = 0 ∧ (asked op).die = (asked op).handle.toNat / 2 ^ 56 % 4 := by decide +kernel
/-- The same of variable 3 of an overflow area at partition address 0x10000, which stage two puts in frame 1; its table is at device address 0. -/
def askedMemory (op : Instr) : SeReq := { asked op with handle := 0x8000000000000003 }
def askingMemory (op : Instr) : State :=
  ((asking (askedMemory op)).setPart 0 { Part.reset with cfg := { PartCfg.reset with dies := [0], overflow := [(0, 0x10000, 64)] } }).placeWords []
theorem witness_EngineVariablesAndBarriers_memory : ∀ op ∈ [Instr.seAdd ⟨1, 2, 3, 0, 1, true⟩, .seArrive ⟨1, 2, 3, 0, 1, false⟩, .seSemup ⟨0, 2, 3, 0, 0, false⟩, .seFree ⟨0, 2, 0, 0, 0, false⟩],
    let s := askingMemory op
    s.seReqs.find? (fun r => r.id = 9 && !r.performed) = some (askedMemory op) ∧ s.seRefusal (askedMemory op) 0 = none ∧ (askedMemory op).die = (askedMemory op).handle.toNat / 2 ^ 56 % 4 ∧
    (askedMemory op).handle.getLsbD 63 = true ∧ (overflowArea (s.part 0).cfg 0).1 + 16 * ((askedMemory op).handle.toNat % 2 ^ 40) = 0x10030 ∧ s.phys 0 0x10030 = some 0x10030 ∧
    (s.part 0).cfg.s2base + 8 * (0x10030 / 65536) + 8 ≤ 0x10030 := by decide +kernel
/-- Barriers that an arrival with tag 5 completes, with one awaiter that is freed and one that is not; phases that are complete and not; semaphores. -/
theorem witness_EngineVariablesAndBarriers_waits : let y : Word64 := 5
    (∃ v : BitVec 128, (barrier v y).2.2 = true ∧ ∀ e ∈ [(5, 1), (6, 0)], ((barrier v y).1.toNat % 2 ^ 8 + 256 - e.1) % 256 = e.2) ∧
    (∀ e ∈ [(6, 1), (133, 128), (5, 0), (134, 129)], ((e.1 : Nat) + 256 - y.toNat % 2 ^ 8) % 256 = e.2) ∧ (y.toNat ≤ 5 ∧ 4 < y.toNat) ∧
    ∃ w : Waiter, w.key = 786431 ∧ w.units = some 4 ∧ ∃ x : Waiter, x.key = 2 ^ 40 + 3 ∧ x.units = none :=
  ⟨⟨BitVec.ofNat 128 (2 ^ 96 + 5), by decide +kernel⟩, by decide +kernel, by decide, ⟨1, 0, 0, 786431, 0, some 4⟩, rfl, rfl, ⟨1, 0, 0, 2 ^ 40 + 3, 5, none⟩, rfl, rfl⟩
/-- An engine that has handed out some variables: one that has its last one out, and one that has them all out. -/
def handedOut (used : List Nat) : State := { State.reset with dies := [(0, { Die.reset with se := { Die.reset.se with used } })] }
theorem witness_EngineVariablesAndBarriers_pool : 786431 ∈ ((handedOut [786431]).die 0).se.used ∧ ((handedOut [786431]).die 0).se.waiters = [] ∧
    (∃ i, i < 786432 ∧ i ∉ ((handedOut [786431]).die 0).se.used ∧ i ∉ ((handedOut [786431]).die 0).se.lost) := ⟨by decide +kernel, rfl, 0, by decide +kernel⟩
theorem witness_EngineVariablesAndBarriers_spent (n i : Nat) : ¬(i < n ∧ i ∉ ((handedOut (List.range n)).die 0).se.used ∧ i ∉ ((handedOut (List.range n)).die 0).se.lost) :=
  fun h => h.2.1 (List.mem_range.mpr h.1)
/-- A barrier of phase 0 with one arrival of two: tags 0, 255 and 1; and the last arrival. -/
theorem witness_EngineVariablesAndBarriers_tags : ∃ v : BitVec 128, let phase := v.toNat % 2 ^ 8
    let arrived := v.toNat / 2 ^ 64 % 2 ^ 32
    let target := v.toNat / 2 ^ 96
    phase = 0 ∧ target ≤ arrived + 1 ∧ 255 = (phase + 255) % 256 ∧ 1 ≠ phase ∧ 1 ≠ (phase + 255) % 256 ∧ ∃ u : BitVec 128, u.toNat / 2 ^ 64 % 2 ^ 32 + 1 < u.toNat / 2 ^ 96 :=
  ⟨BitVec.ofNat 128 (2 * 2 ^ 96 + 2 ^ 64), by decide +kernel, by decide +kernel, by decide +kernel, by decide +kernel, by decide +kernel, BitVec.ofNat 128 (2 * 2 ^ 96), by decide +kernel⟩
theorem witness_RepliesAndGrantsArrive : (∃ q, (asking { asked (.seLd ⟨3, 2, 0, 0, 4, false⟩) with performed := true, reply := 77 }).seReqs.find? (fun r => r.id = 9 && r.performed) = some q ∧ q.id = 9) ∧
    (∃ e, ((asking (asked .snop)).ctx 0).landing[0]? = some e ∧ e.id = 9 ∧ e.arrived = false) ∧ (asking (asked .snop)).waiting 12 = some 0 :=
  ⟨⟨_, rfl, rfl⟩, ⟨_, rfl, rfl, rfl⟩, by decide +kernel⟩
/-- A descriptor of 16,384 single-precision elements in one tile, of a role, with its table at 0x10000, and a box of 32 elements. -/
def desc (role : Nat) : Desc :=
  BitVec.ofNat 512 (packN [(15, role), (21, 1), (64, 16384), (96, 1), (128, 1), (160, 1), (192, 1), (224, 1), (256, 14), (289, 1), (292, 2), (295, 3), (298, 4), (301, 5), (323, 0x2000)])
def box (n : Nat) : Box := BitVec.ofNat 512 (packN [(192, n), (208, 1), (224, 1), (240, 1), (256, 1), (272, 1)])
/-- Row 0 holds a box of 32 elements; td0 a tensor that is read in order, td1 one that its gang owns; ring 0 has 16 rows. -/
def copies : State :=
  { withCtx { placed with regs := { Regs.reset with td := [(0, some (desc 1)), (1, some (desc 3))], ring := [(0, pack [(52, 64), (48, 4), (0, 1)])] } } with
    cores := [(0, { Core.reset with rows := [(0, (box 32).setWidth 1024)] })] }
def transferOf (td : BitVec 4) (rg : Bool) : CopyOp := ⟨0, td, 1, false, 8, 0, 0, false, rg, 0, 0⟩
theorem witness_CopyTransfersAreIssued :
    (copies.planTransfer (.cpIn (transferOf 1 false)) (transferOf 1 false)).err = none ∧ (copies.planTransfer (.cpIn (transferOf 1 false)) (transferOf 1 false)).ring = none ∧
    (copies.planTransfer (.cpIn (transferOf 1 true)) (transferOf 1 true)).err = none ∧ (copies.planTransfer (.cpIn (transferOf 1 true)) (transferOf 1 true)).ring = some (0, 1) ∧
    (copies.planTransfer (.cpIn (transferOf 2 false)) (transferOf 2 false)).err = some (0, 2, 0) ∧ (copies.die (coreDie copies.cur.core)).faults.length < 1024 ∧
    copies.cur.core < 2304 ∧ copies.cur.slot < 4 ∧ ∀ i ∈ [Instr.cpIn (transferOf 0 false), .cpOut (transferOf 1 false), .cpAcc (transferOf 1 false), .cpGat (transferOf 1 false),
      .cpSca (transferOf 1 false), .cpSl (transferOf 0 false), .cpRep (transferOf 0 false)], completes (exec i copies) = true := by decide +kernel
theorem witness_CopyCommandsAreIssued : copies.slotErr (.cpCurSet 0 1 0) 1 = none ∧ copies.slotErr (.cpCurSave 0 1 0 false 0 false) 1 = none ∧
    (copies.slotErr (.cpCurSet 0 2 0) 2).map (·.1) = some 0 ∧ noRows (copies.tdSlot 2) = true ∧ copies.tdSlot 2 = none ∧
    (let t := { copies with ctxs := [(0, { Ctx.reset with regs := { Regs.reset with td := [(3, some (desc 1 &&& ~~~(BitVec.ofNat 512 (2 ^ 64 * 16384))))] } })] }
     (t.slotErr (.cpCurSave 0 3 0 false 0 false) 3).map (·.1) = some 1 ∧ noRows (t.tdSlot 3) = true) ∧
    (let r : RcastOp := ⟨0, 0, true, false, 0, false, 0, 0, 0, false⟩
     let b := halfOf (copies.snapRow (copies.rowAt r.ab r.boff.toNat)) r.bh
     descErr (.rcast r) r.td.toNat 0 (copies.tdSlot r.td.toNat) none b b (copies.rowAt r.ab r.boff.toNat) (!r.all) = none ∧
     (descErr (.rcast { r with td := 2 }) 2 0 (copies.tdSlot 2) none b b (copies.rowAt r.ab r.boff.toNat) (!r.all)).isSome = true) := by decide +kernel
/-- One command in flight. -/
def command (op : Instr) : Cmd :=
  { State.reset.newCmd op 0 1 with td := some (desc 3), box := box 32, src := [7], dest := [8], id := 1, tick := 0 }
def commands (c : Cmd) : State := { withCtx placed with cmds := [c], cores := [(0, { Core.reset with xforms := [1] })] }
theorem witness_CopyRequestsAndRowWrites : (∀ op ∈ [Instr.cpOut (transferOf 1 false), .cpCurStatus 0 0 false 0 false],
      (commands (command op)).cmd 1 = some (command op) ∧ (command op).sent < (command op).beats ∧ ((commands (command op)).ctx (Machine.ck 0 0)).iss.freeze = none ∧
      (command op).td = some (desc 3) ∧ (command op).sent < (command op).src.length ∧ (commands (command op)).channelClear (command op) = true) ∧
    (({ commands (command .snop) with ctxs := [(0, { placed with iss := { placed.iss with freeze := some ⟨7, 0, false, 0⟩ } })] } : State).ctx (Machine.ck 0 0)).iss.freeze.isSome = true ∧
    (command .snop).dest[0]? = some 8 ∧ (command .snop).written.contains 0 = false ∧ (command .snop).bad.contains 0 = false ∧
    ({ command .snop with bad := [0] } : Cmd).bad.contains 0 = true ∧
    (∀ ch td an pm off h, (command .snop).op ≠ .cpCurSave ch td an pm off h) ∧ (∀ ch an pm off h, (command .snop).op ≠ .cpCurStatus ch an pm off h) ∧
    ∀ r, State.reset.region 0 (desc 0) ≠ .ok r := by
  refine ⟨by decide +kernel, by decide +kernel, by decide +kernel, by decide +kernel, by decide +kernel, by decide +kernel, ?_, ?_, ?_⟩
  · intros; exact nofun
  · intros; exact nofun
  · have h : (match State.reset.region 0 (desc 0) with
        | .ok _ => true
        | _ => false) = false := by decide +kernel
    intro r e
    rw [e] at h
    cases h
/-- A gather and a scatter of one element by an index: inside the dimension and at its end; a frozen context whose gang is not being ended. -/
theorem witness_CopyRequestsAndRowWrites_indexed : ∀ op ∈ [Instr.cpGat (transferOf 1 false), .cpSca (transferOf 1 false)], ∀ e ∈ [(16383, true), (16384, false)],
    let c : Cmd := { command op with idx := [e.1] }
    (commands c).cmd 1 = some c ∧ c.sent < c.beats ∧ c.td = some (desc 3) ∧ c.sent < c.dest.length ∧ c.sent < c.src.length ∧ c.written.length < c.dest.length ∧
    decide (c.idx.getD (boxIndex (desc 3) c.box (c.sent / max 1 (rowsPerBox (desc 3) c.box 32)) (bGdim c.box)) 0 < dDim (desc 3) (bGdim c.box)) = e.2 ∧
    (commands c).gang ((commands c).ctx 0) = none := by decide +kernel
/-- A transform command whose rows have been read, and code for its routine: `li a0, 0; ret`, `li a0, 1; ret`, the illegal word 0, `c.j` to itself. -/
def xform : Cmd := { command (.cpXf ⟨0, 1, 0, 0, 1, 0, 0, 0, 0⟩) with sent := 1 }
def xforming (code : List Nat) : State :=
  let s := commands xform
  { s with control := { s.control with xcode := code.map (BitVec.ofNat 8), xtable := [0], xreturn := 0x8000 } }
/-- R225, R226, RV64C: how the routine of a code ends: 0 with a0 = 0, 1 with another a0, 2 with a trap, 3 still running. -/
def xformEnds (code : List Nat) (n : Nat) : Nat :=
  match (Rv.call ((code.map (BitVec.ofNat 8))) 0 0x8000 [] 1 0).run 0x8000 n with
  | .returned _ a0 => if a0 = 0 then 0 else 1
  | .trapped .. => 2
  | .running _ => 3
theorem witness_TransformRoutinesRun : (∀ code, ((xforming code).core 0).xforms = xform.id :: [] ∧ (xforming code).cmd xform.id = some xform) ∧
    xform.op = .cpXf ⟨0, 1, 0, 0, 1, 0, 0, 0, 0⟩ ∧ xform.beats ≤ xform.sent ∧ xformEnds [0x01, 0x45, 0x82, 0x80] 4096 = 0 ∧ xformEnds [0x05, 0x45, 0x82, 0x80] 4096 = 1 ∧
    xformEnds [0, 0] 4096 = 2 ∧ xformEnds [0x01, 0xa0] 8 = 3 ∧ (let r := Rv.call [0x01, 0x45] 0 2 [] 1 0
      r.pc ≠ 2 ∧ (match r.step with
        | .inl t => decide (t.pc = 2)
        | .inr _ => false) = true) := by
  refine ⟨fun _ => ⟨rfl, rfl⟩, by decide +kernel⟩
/-- A tile entry: valid or not, owned by gang 0, in frame 1, which holds the table itself. -/
def entry (valid : Bool) : Word64 := pack [(63, b2n valid), (61, 3), (18, 1)]
/-- An access to one element of a tensor on its way, and the state that holds it with the words of the tensor's table. -/
def accessTo (d : Desc) (kind : AccKind) (e : Elem) : Access :=
  { id := 2, cmd := 1, row := 0, kind, who := ⟨0, 0, 0, 0, 0, 0, 0, 0, 0⟩, td := d, tile := 0, lu := 0, elems := [e], extent := none, parked := none, accepted := false, replayed := false, sentAt := none, hops := 0, stale := [] }
def tabled (ws : List Word64) (a : Access) : State :=
  { State.reset.placeWords ws with accesses := [a], cmds := [command (.cpIn (transferOf 1 false))] }
def reaching (kind : AccKind) (extent : Option (Nat × Nat)) : Access := { accessTo (desc 3) kind ⟨0, 16383, 0, 5⟩ with extent }
def tiled (e : Word64) (kind : AccKind) (extent : Option (Nat × Nat)) : State := tabled [e] (reaching kind extent)
/-- Nothing holds an access back. -/
abbrev Untouched (s : State) (a : Access) : Prop :=
  s.accesses.find? (fun b => b.id = a.id) = some a ∧ a.parked = none ∧ a.sentAt = none ∧ a.extent = none ∧ s.accesses.find? (s.behind a) = none ∧ s.awaitsRecast a = false ∧
  s.sealedAt a.lu (dHandle a.td) a.tile = false ∧ s.movingAt (dHandle a.td) a.tile = false ∧ s.parkFull a.lu = false ∧ s.cached a.lu (dHandle a.td) a.tile = none ∧
  s.leftTo a.cmd (dHandle a.td) a.tile = none
/-- A descriptor of the fixed-point format, for W = 0, and its tile's entry; a streamed tensor's entry; a compressed tensor whose table follows its region. -/
def adds : Desc := desc 2 ||| BitVec.ofNat 512 (14 * 2 ^ 17)
def packed : Desc := desc 3 ||| BitVec.ofNat 512 (packN [(14, 1), (326, 1)])
def region : List Word64 := [0x18000, pack [(32, 1), (0, 1)], 0, 0, 0, 0, 0, 0, entry true]
theorem witness_AccessesReadAndWriteTiles : ∀ e ∈ [(desc 3, AccKind.read, entry true), (desc 3, .write, entry true), (desc 1, .stream, pack [(63, 1), (61, 1), (18, 1)]),
      (adds, .add, pack [(63, 1), (61, 2), (18, 1)])],
    let a := accessTo e.1 e.2.1 ⟨0, 0, 0, 0x3f800000⟩
    let s := tabled [e.2.2] a
    Untouched s a ∧ dCmp a.td = false ∧ s.walk a.who.part a.td a.tile = .ok e.2.2 1 ∧ judge a.td a.tile a.kind a.who.gang a.elems e.2.2 = none ∧
    s.entryPlace a.who.part a.td a.tile = some (0, 0x10000) ∧ s.readPart 0 0x10000 = some e.2.2 ∧ (s.die (luDie a.lu)).faults.length + a.elems.length < 1024 := by decide +kernel
/-- What is added: a NaN; 1, which fits; 2^27, which does not. -/
theorem witness_AccessesReadAndWriteTiles_adds : (decodeNum .f32 0x7fc00000).isFin = false ∧ ∀ e ∈ [(0x3f800000, true), (0x4d000000, false)],
    let a := accessTo adds .add ⟨0, 0, 0, e.1⟩
    let s := tabled [pack [(63, 1), (61, 2), (18, 1)]] a
    ∃ i, (decodeNum (s.addFmt a) e.1).units (dW a.td - 100 - (0 : Nat)) = some i ∧
      decide (-2 ^ 127 < signed 128 (s.readElem 1 0 128) + i / 2 ^ 0 ∧ signed 128 (s.readElem 1 0 128) + i / 2 ^ 0 < 2 ^ 127) = e.2 := by
  refine ⟨by decide +kernel, ?_⟩
  intro e h
  simp only [List.mem_cons, List.not_mem_nil, or_false] at h
  rcases h with rfl | rfl
  · exact ⟨2 ^ 100, by decide +kernel, by decide +kernel⟩
  · exact ⟨2 ^ 127, by decide +kernel, by decide +kernel⟩
/-- Whether the codec completes. -/
def CodecRes.good {α : Type} (r : CodecRes α) : Bool :=
  match r with
  | .ok _ => true
  | _ => false
theorem witness_AccessesReadAndWriteTiles_compressed : ∀ kind ∈ [AccKind.read, .write],
    let a := accessTo packed kind ⟨0, 0, 0, 5⟩
    let s := tabled region a
    Untouched s a ∧ dCmp a.td = true ∧ s.walk a.who.part a.td a.tile = .ok (entry true) 0 ∧ judge a.td a.tile a.kind a.who.gang a.elems (entry true) = none := by decide +kernel
theorem witness_AccessesReadAndWriteTiles_codec : let s := tabled region (accessTo packed .write ⟨0, 0, 0, 5⟩)
    (match s.region 0 packed with
      | .ok r => (s.codecRead 0 r 0 32 [⟨0, 0, 0, 5⟩]).good
      | _ => false) = true ∧ (s.codecWrite 0 packed 0 32 [⟨0, 0, 0, 5⟩] [] (blocksOf 32 [⟨0, 0, 0, 5⟩])).good = true := by decide +kernel
theorem witness_AccessesReadAndWriteTiles_refused : (tiled (entry false) .write none).readPart 0 (entryAddr (desc 3) 0) = some (entry false) ∧ (entry false).getLsbD 63 = false ∧
    (tiled (entry true) .read (some (0, 16384))).accesses.find? (fun b => b.id = 2) = some (reaching .read (some (0, 16384))) ∧ (reaching .read (some (0, 16384))).extent = some (0, 16384) ∧
    ((judge (desc 1) 0 .write 0 [] (entry true)).map fun e => (e.1, e.2.1)) = some (0x13, 0) ∧ (tabled [entry true] (accessTo (desc 1) .write ⟨0, 0, 0, 5⟩)).walk 0 (desc 1) 0 = .ok (entry true) 1 := by
  decide +kernel
/-- A recast that seals, a tile on the move, an earlier recast of the channel, and a full park hold an access. -/
theorem witness_AccessesReadAndWriteTiles_held : let s := tiled (entry true) .read none
    let h := dHandle (desc 3)
    ({ s with fabric := { Fabric.reset with recasts := [⟨1, 0, h, [0], [], true⟩] } } : State).sealedAt 0 h 0 = true ∧
    ({ s with fabric := { Fabric.reset with stubs := [⟨h, 0, 7, true, [], [], 0, false⟩] } } : State).movingAt h 0 = true ∧
    ({ s with cmds := [{ command (.rcast ⟨0, 1, true, false, 0, false, 0, 0, 0, false⟩) with id := 0 }] } : State).awaitsRecast (reaching .read none) = true ∧
    ({ s with accesses := List.replicate 256 { reaching .read none with parked := some 0 } } : State).parkFull 0 = true := by decide +kernel
/-- A tensor of home chip 1: without and with an owner that the cache names; held by a redirect; a port that reaches the owner; a full buffer. -/
theorem witness_AccessesReadAndWriteTiles_remote : let d : Desc := desc 3 ||| BitVec.ofNat 512 (2 ^ 46)
    let a := accessTo d .read ⟨0, 0, 0, 5⟩
    let s := tabled [] a
    let owned : State := { s with fabric := { s.fabric with owners := [(dHandle d, 0, 1)] } }
    Untouched s a ∧ s.walk 0 d 0 = .remote 0 ∧ s.heldBack (dHandle d) 0 = false ∧ s.ownerOf (dHandle d) 0 = none ∧ owned.ownerOf (dHandle d) 0 = some 1 ∧
    ({ s with fabric := { s.fabric with holds := [(dHandle d, 0, [2])] } } : State).heldBack (dHandle d) 0 = true ∧
    1024 ≤ (({ s with dies := [(0, { Die.reset with faults := List.replicate 1024 ⟨0, 0, [], false, [], [], 0⟩ })] } : State).die (luDie 0)).faults.length := by decide +kernel
theorem witness_noPath (s : State) (chip n : Nat) (h : n < 18) (r : Config.reaches n chip = true) (f : n ∉ s.control.fencedPorts) : s.noPath chip = false := by
  simp only [State.noPath, List.all_eq_false, List.mem_range]
  exact ⟨n, h, by simp [r, f]⟩
/-- A recast of the owned tensor to a role, and the states of its life. -/
def recastOp (role : BitVec 2) : RcastOp := ⟨0, 1, true, false, role, false, 0, 0, 0, false⟩
def recasting (role : BitVec 2) (rs : List Recast) (w : Nat) : State :=
  { State.reset.placeWords [entry true] with cmds := [command (.rcast (recastOp role))], fabric := { Fabric.reset with recasts := rs }, accesses := [], now := w }
theorem witness_RecastsAndQueries : ∀ e ∈ [((0 : BitVec 2), (none : Option (Nat × Option Nat))), (2, none)],
    let c := command (.rcast (recastOp e.1))
    let s := recasting e.1 [] 0
    let who := (s.ctx (Machine.ck c.core c.slot)).who 0 c.core c.slot c.ch c.tick
    s.cmd 1 = some c ∧ c.td = some (desc 3) ∧ dHome (desc 3) = s.control.chip ∧ s.fabric.recasts = [] ∧ s.channelClear c = true ∧
    s.firstUnread who.part (desc 3) (recastTiles (desc 3) c.box (recastOp e.1) c.cursor) = none ∧
    s.recastCheck who (desc 3) c.box (recastOp e.1) (recastTiles (desc 3) c.box (recastOp e.1) c.cursor) false s.chooses = e.2 := by decide +kernel
/-- A recast of a tensor of role A to itself is refused; a buffer with room and a full one. -/
theorem witness_RecastsAndQueries_refused : (∀ p : Bool, (recasting 2 [] 0).recastCheck ⟨0, 0, 0, 0, 0, 0, 0, 0, 0⟩ (desc 2) 0 (recastOp 2) [0] false p = some (0, none)) ∧
    (recasting 2 [] 0).faultRoom 0 ≠ 0 ∧
    ({ recasting 2 [] 0 with dies := [(0, { Die.reset with faults := List.replicate 1024 ⟨0, 0, [], false, [], [], 0⟩ })] } : State).faultRoom 0 = 0 := by decide +kernel
/-- A unit with an access of a recast's range that it has accepted; an event that has one; and neither. -/
theorem witness_RecastsAndQueries_life : let r : Recast := ⟨1, 0, dHandle (desc 3), [0], [0], true⟩
    let s := recasting 0 [r] 0
    s.fabric.recasts.find? (fun x => x.cmd = 1 && x.sealed) = some r ∧ 0 ∈ r.units ∧ (∀ n ∈ r.units, n = 0) ∧ s.accesses = [] ∧ s.delayed = [] ∧
    (let a : Access := { reaching .read none with accepted := true }
     a.lu = 0 ∧ dHandle a.td = r.handle ∧ a.tile ∈ r.tiles) ∧
    ∃ w : Waiting, (0, r.handle, 0) ∈ w.taken := ⟨rfl, by decide, by decide, rfl, rfl, by decide +kernel, ⟨.recastRewrite 1, [], none, [], none, [(0, dHandle (desc 3), 0)]⟩, by decide +kernel⟩
/-- The rewrite of a tile whose frame is mapped, and of one whose frame stage two does not map. -/
theorem witness_RecastsAndQueries_rewrite : ∀ e ∈ [((entry true).toNat, false), ((pack [(63, 1), (61, 3), (18, 5)]).toNat, true)],
    let r : Recast := ⟨1, 0, dHandle (desc 3), [0], [], true⟩
    let s : State := { State.reset.placeWords [BitVec.ofNat 64 e.1] with cmds := [command (.rcast (recastOp 2))], fabric := { Fabric.reset with recasts := [r] } }
    s.fabric.recasts.find? (fun x => x.cmd = 1 && x.sealed) = some r ∧ r.units = [] ∧ s.eventWaits (.recastRewrite 1) s.subject = false ∧
    (State.rewriteTile { s with attempt := some ⟨[], [], none⟩ } (s.me.who 0 0 0 0 0) (desc 3) (recastOp 2) 0 0).stalled = e.2 := by decide +kernel
/-- What stays of a floor: an owned tile that stays owned, a streamed tensor's tile up to the cursor and past it. -/
theorem witness_RecastsAndQueries_entry : (dRole (desc 3) = roleO ∧ (recastOp 3).role.toNat = roleO) ∧ (dRole (desc 1) = roleS ∧ (recastOp 0).role.toNat = roleI ∧ (recastOp 0).cur = false) ∧
    (0 / dElems (desc 3) < 1) ∧ dRole adds = roleA ∧ (entry true).getLsbD 59 = false ∧ (entry true).getLsbD 60 = false ∧ (pack [(59, 1)]).getLsbD 59 = true ∧
    (recasting 2 [] 0).entryPlace 0 (desc 3) 0 = some (0, 0x10000) ∧ (recasting 2 [] 0).readPart 0 0x10000 = some (entry true) ∧ (recasting 2 [] 0).stalled = false ∧
    (recasting 2 [] 0).s2 0 (eFrame (entry true)) = some 1 := by decide +kernel
/-- A query of one term at the posting-list engine of core 0, at cycle 5, its header's code given; its directory is a tensor whose table the model
holds no entry of. -/
def query (taken : Bool) (code : Nat) (after : List Nat) : Query :=
  ⟨1, 0, 0, ⟨4, 0, 0, 0, 0, 0, 0, 0, 0⟩, 0, [BitVec.ofNat 1024 (2 ^ 53), 1], [], some (desc 1), some (desc 1), some (desc 1), after, taken, code⟩
def querying (q : Query) : State :=
  { (withCtx placed).setPle 0 [q] with cmds := [{ command (.plQ ⟨0, 0, 0, 0, 0, 0, 0⟩) with dest := [8, 9] }, { command .snop with id := 2 }], now := 5 }
theorem witness_RecastsAndQueries_query : (querying (query false 0 [])).plNext 0 = some (query false 0 []) ∧
    (∀ q ∈ [query true 1 [], query true 0 [], query true 0 [2]], ((querying q).ple 0).find? Query.taken = some q) ∧
    ((querying (query true 0 [])).cmd 1).isSome = true ∧ [8, 9].Nodup ∧ (querying (query true 0 [])).queryHeld 0 = false ∧ (querying (query true 0 [2])).queryHeld 0 = true ∧
    (querying (query true 0 [])).eventWaits (.plQueryComplete 0) [] = false ∧
    ({ querying (query true 0 []) with delayed := [⟨.plQueryComplete 0, [], none, [], some (0, 0, 0), []⟩] } : State).eventWaits (.plQueryComplete 0) [] = true ∧
    (State.runQuery { querying (query true 1 []) with attempt := some ⟨[], [], none⟩ } (query true 1 [])).1.stalled = false ∧
    (State.runQuery { querying (query true 0 []) with attempt := some ⟨[], [], none⟩ } (query true 0 [])).1.stalled = true ∧
    (∀ x ∈ ((querying (query true 1 [])).core 0).log, ((querying (query true 1 [])).core 0).fillFirst x = false) ∧ ((querying (query true 1 [])).core 0).fills = [] := by decide +kernel

/-! Hypotheses that can be met: cores and gangs. -/

/-- A placed context about to enter the group of one `halt`, with its issue state changed. -/
def entering (f : Issue → Issue) : State :=
  let s := fetches 0xf800000000000080
  s.setCtx 0 { s.ctx 0 with iss := f (s.ctx 0).iss }
theorem witness_GroupsAreEnteredOrWait : ∃ g l cond at_, ((entering id).core 0).issuing = some 0 ∧ ((entering id).ctx (Machine.ck 0 0)).iss.routineEvent = none ∧
    ((entering id).passOver 0 0).entryCheck 0 0 true = .go g ∧ (((entering id).passOver 0 0).ctx (Machine.ck 0 0)).iss.routineEvent = none ∧
    ((entering id).core 0).icache.length ≤ 384 ∧ ((entering fun i => { i with grant := some 5 }).core 0).issuing = some 0 ∧
    ((entering fun i => { i with grant := some 5 }).passOver 0 0).entryCheck 0 0 true = .waits l ∧
    (((entering fun i => { i with grant := some 5 }).passOver 0 0).ctx (Machine.ck 0 0)).iss.routineEvent = none ∧ firstCond l = some (cond, at_) ∧ cond = .seWait ∧
    ((entering fun i => { i with routineEvent := some (4, 7, 2047) }).ctx (Machine.ck 0 0)).iss.routineEvent = some (4, 7, 2047) ∧
    (entering fun i => { i with blocked := some .channel }).condCleared 0 0 = true ∧ ((entering fun i => { i with blocked := some .channel }).ctx (Machine.ck 0 0)).ringDue = [] :=
  ⟨{ start := 0x10000, tick0 := 0, idx := 0, bundles := [(0x10000, ⟨true, .halt, []⟩, [0xf800000000000080, 0, 0, 0, 0, 0, 0, 0])], next := 0x10008, again := [] },
    [(.seWait, ⟨0, .sync, false⟩)], .seWait, ⟨0, .sync, false⟩, by decide +kernel⟩
/-- A held syllable under p0, and one under its negation. -/
theorem witness_GroupsAreEnteredOrWait_held : ∀ pn ∈ [false, true], ∃ y, (withCtx { placed with hold := [(.s, ⟨true, pn, 0, .sadd ⟨1, 1, true, 0, 1⟩⟩)] }).me.held .s = some y ∧ y.pn = pn ∧
    (withCtx placed).me.regs.readP y.pred.toNat = true := by
  intro pn _
  exact ⟨_, rfl, rfl, by show (withCtx placed).me.regs.readP 0 = true; decide +kernel⟩
/-- A gang of one member, on core 0, slot 0, on tree 0 of a partition of die 0. -/
def gang (knot : Knot) (xbit victim : Bool) (ending : Option (Nat × Nat)) : Gang :=
  { queue := 0, lseq := 0, group := 0, slot := 0, cores := [0], base := [(0, 0)], window := 2, shared := false, xbit, prio := 0, placed := 0, image := 0, routines := [], knot, victim, ending, duty := 16, saving := none }
def ganged (g : Gang) (iss : Issue → Issue) : State :=
  (withCtx { placed with iss := iss placed.iss }).setPart 0 { Part.reset with cfg := { PartCfg.reset with dies := [0] }, gangs := [(0, g)] }
def stood : Knot := { Knot.reset with arrived := [0], first := some 0, last := some 0 }
/-- A gang that may be announced, and one that may be released. -/
def told (x v : Bool) : Gang := gang stood x v none
def released (x : Bool) : Gang := gang { stood with announced := true, grant := if x then some 0 else none } x false none
/-- Arrival of the last member, which has not halted. -/
theorem witness_KnotsAndSupersteps : (ganged (gang Knot.reset false false none) fun i => { i with knot := true }).gangAt 0 0 = some (gang Knot.reset false false none) ∧
    (ganged (gang Knot.reset false false none) fun i => { i with knot := true }).arrives 0 0 = true ∧
    ((ganged (gang Knot.reset false false none) fun i => { i with knot := true }).ctx (Machine.ck 0 0)).place.part = 0 ∧
    (∀ m ∈ [0], m = 0 ∨ m ∈ Knot.reset.arrived) ∧
    (ganged (gang Knot.reset false false none) fun i => { i with knot := true }).haltedAt (gang Knot.reset false false none) 0 = false := by decide +kernel
/-- Announcements of a victim, into an exchange and into a compute superstep. -/
theorem witness_KnotsAndSupersteps_announcement : ∀ v ∈ [false, true], ∀ x ∈ [false, true], (ganged (told x v) id).gangAt 0 0 = some (told x v) ∧
    (told x v).knot.last = some 0 ∧ (told x v).knot.announced = false ∧ (told x v).ending = none ∧ (told x v).knot.xfab = false ∧ (told x v).victim = v ∧ (told x v).knot.withheld = false ∧
    (let D := if ((ganged (told x v) id).part 0).cfg.dies.length = 1 then 20 else 32
     0 + D ≤ ({ ganged (told x v) id with now := 18 } : State).now + 2) ∧
    (ganged (told x v) id).toExchange (told x v) = x := by decide +kernel
/-- A grant, and releases into both kinds of superstep. -/
theorem witness_KnotsAndSupersteps_release : (ganged (gang { stood with announced := true, request := some 2 } true false none) id).grantReady 0 0 = true ∧
    ∀ x ∈ [false, true], (released x).knot.announced = true ∧ (released x).knot.withheld = false ∧ (released x).cores.Nodup ∧
      ((ganged (released x) id).toExchange (released x) = true → (released x).knot.grant = some (ganged (released x) id).now) := by decide +kernel
/-- A release that ends an exchange superstep. -/
theorem witness_KnotsAndSupersteps_closing : let g := gang { stood with announced := true, exchanging := true } true false none
    let s : State := { (ganged g id).setCtx 0 { placed with place := { placed.place with phase := 1 } } with cores := [(0, { Core.reset with exchanging := some 0 })] }
    s.gangAt 0 0 = some g ∧ g.knot.announced = true ∧ g.knot.withheld = false ∧ s.toExchange g = false ∧ g.knot.exchanging = true ∧ ∀ m ∈ g.cores, (s.core m).exchanging = some g.slot := by
  decide +kernel
/-- A gang in its save area. -/
def saved : Saved := { tree := 0, gang := gang stood true true none, ctxs := [(0, placed)], rows := [(0, 0, 1), (0, 1, 2)], shadow := [], guards := [], since := 0, back := none }
/-- A save that is to begin, one under way and one whose time is over; a restore likewise. -/
theorem witness_KnotsAndSupersteps_firmware : (∀ saving ∈ [none, some 30, some 20],
      let g : Gang := { gang { stood with withheld := true } false true none with saving }
      let s : State := { ganged g id with now := 20 }
      s.gangAt 0 0 = some g ∧ s.saveReady 0 0 = true) ∧
    ∀ back ∈ [none, some 0], (let v : Saved := { saved with back }
      let s := State.reset.setPart 0 { Part.reset with saved := [v] }
      (s.part 0).saved.find? (fun x => x.tree = v.tree && s.restoreDue 0 x) = some v) := by decide +kernel
/-- Saving, a withheld release, time-outs, the end of a group, restoring. -/
theorem witness_KnotsAndSupersteps_ends :
    (gang { stood with withheld := true } false false none).knot.withheld = true ∧ (gang { stood with withheld := true } false false none).victim = false ∧
    ({ ganged (gang { Knot.reset with first := some 0 } false false none) id with subject := [0, 0, 0] } : State).subject = [0, 0, 0] ∧
    (gang { Knot.reset with first := some 0 } false false none).knot.last = none ∧ ({ stood with xfab := true } : Knot).xfab = true ∧
    (gang { stood with withheld := true } false false none).knot.last.isSome = true ∧
    (ganged (gang Knot.reset false false none) fun i => { i with halted := true }).gangDone 0 0 = true ∧
    ({ ganged (gang Knot.reset false false none) id with subject := [0, 0] } : State).subject = [0, 0] ∧
    (saved.ctxs.map Prod.fst).Nodup ∧ (saved.rows.map fun e => (e.1, e.2.1)).Nodup := by decide +kernel

/-! Hypotheses that can be met: collectives. -/

/-- A communicator of two members, dies 0 and 1 of this chip, with its membership table at 0x10040 and a switch group. -/
def commEntry : BitVec 128 := BitVec.ofNat 128 (packN [(127, 1), (80, 2), (60, 2), (44, 5), (43, 1), (0, 0x8020)])
/-- A record of one level of one transfer, of a kind, without and with X. -/
def record (kind : Nat) (x : Bool) : List Word64 := [pack [(56, kind), (53, 1), (49, 1), (45, 1), (44, b2n x)], 0, 0, 0, 0, pack [(40, 1)], 0, 0, 0, 0, 0, 0, 0, 0, 0, 0]
def submission (kind : Nat) (x : Bool) : Submission :=
  { cmd := 1, core := 0, slot := 0, kind := if kind = 2 then .mlr ⟨0, 0, 0, 0, 0, 0⟩ else .clRun ⟨0, 0, 0, 0, 0, 0⟩, record := record kind x, tds := some (desc 3), tdd := some (desc 3),
    need := 0, count := 0, after := [], owner := 0, who := ⟨3, 0, 0, 0, 0, 0, 0, 0, 0⟩, bad := false }
/-- The same element data under another handle. -/
def source (n : Nat) : Desc := setFld (desc 3) 24 22 n
/-- A collective of a member, which has a source tensor of its own. -/
def coll (kind : Nat) (x : Bool) (rank : Nat) (joined : List Nat) (dec : Option (List Nat)) : Coll :=
  { sub := { submission kind x with tds := some (source (rank + 1)) }, epoch := 0, round := 0, p := 2, rank, live := [(0, 0, 0), (1, 0, 1)], began := 0, joined, poison := [], sentJoin := false, acting := false, rooted := 0, queries := [],
    x := dec, todo := [], pairs := [], arrived := [], expect := [], written := [], switched := [], waitSince := none, code := 0, fault := 0 }
/-- The engines of dies 0 and 1, with these lists, collectives and packets. -/
def together (a b : Cle) (msgs : List Packet) : State :=
  let s := State.reset.placeWords [entry true, 0, 0, 0, 0, 0, 0, 0, 0x8000000180000000]
  { s with fabric := { Fabric.reset with cles := [(0, a), (64, b)], comms := [(0, { Comm.reset with entry := commEntry }), (64, { Comm.reset with entry := commEntry })],
                                         msgs := indexed 0 msgs |>.map fun e => ⟨e.1, 0, e.2, none⟩, switch := [(5, { epoch := 0, members := [0, 1], joins := [(64, 0, 0), (64, 1, 0)] })] },
           cmds := [{ command (.clRun ⟨0, 0, 0, 0, 0, 0⟩) with dest := [8] }] }
def runs (c : Coll) : Cle := { Cle.reset with cur := some c }
def submits (kind : Nat) : Cle := { Cle.reset with subs := [submission kind false] }
theorem witness_CollectivesJoinAndDecide_start : ∃ b, let s := together (submits 0) (submits 0) []
    s.collDue 1 0 = true ∧ s.turnOf 1 0 = some b ∧ s.subRefused 1 0 b = false ∧ s.liveSlots (s.comm 1 0).entry = [(0, 0, 0), (1, 0, 1)] ∧
      rankOf s.control.chip 1 [(0, 0, 0), (1, 0, 1)] = some 1 ∧ 0 < cP (s.comm 1 0).entry := ⟨submission 0 false, by decide +kernel⟩
/-- The table is mapped, so it is read; the source is not parked; without a stage two table it is not mapped. -/
theorem witness_CollectivesJoinAndDecide_table : ∃ b, let s := together (submits 0) (submits 0) []
    let e := (s.comm 1 0).entry
    s.turnOf 1 0 = some b ∧ cV e = true ∧ cMtab e = 0x10040 ∧ 4 * max 1 (cSlots e) = 8 ∧ (∀ n, n < 8 → (s.s2 (cPart e) ((cMtab e + n) / 65536)).isSome = true) ∧
    s.eventWaits (.collectiveStart 1 0) [] = false ∧ (State.sourcePoisoned { s with attempt := some ⟨[], [], none⟩ } b (cP e)).1.stalled = false ∧
    (({ s with mem := State.reset.mem } : State).s2 (cPart e) (cMtab e / 65536)).isSome = false := ⟨submission 0 false, by decide +kernel⟩
/-- The packets of this chip are in turn; of those of another chip, the first of its communicator is. -/
theorem witness_packets_in_turn : (let s := together Cle.reset Cle.reset [.query 0 1 0 1 1, .query 0 1 0 1 1]
    InTurn s 0 ∧ InTurn s 1) ∧
    (let s : State := { State.reset with fabric := { Fabric.reset with msgs := [⟨0, 0, .query 0 1 0 1 1, some 5⟩, ⟨1, 0, .query 0 1 0 1 1, some 5⟩, ⟨2, 0, .query 0 1 0 1 1, some 6⟩] } }
    InTurn s 0 ∧ ¬InTurn s 1 ∧ InTurn s 2) := by
  unfold InTurn
  decide +kernel
theorem witness_CollectivesJoinAndDecide_refused : ∃ b, (together (submits 3) (submits 3) []).turnOf 1 0 = some b ∧
    (together (submits 3) (submits 3) []).collDue 1 0 = true ∧ (together (submits 3) (submits 3) []).subRefused 1 0 b = true := ⟨submission 3 false, by decide +kernel⟩
/-- The last join reaches the root, undecided and decided. -/
theorem witness_CollectivesJoinAndDecide_join : ∀ dec ∈ [none, some []], let s := together (runs (coll 0 false 0 [0] dec)) Cle.reset [.join 0 0 0 0 2 1 [1] []]
    s.packet 0 = some (.join 0 0 0 0 2 1 [1] []) ∧ cEpoch (s.comm 0 0).entry ≤ 0 ∧ (s.cle 0 0).cur = some (coll 0 false 0 [0] dec) ∧
      (∀ r, r < 2 → r ∈ (coll 0 false 0 [0] dec).joined ∨ r ∈ [1]) := by decide +kernel
/-- X reaches a member: empty, and not, with and without the flag, of a copy and of a reduction in the switch. -/
theorem witness_CollectivesJoinAndDecide_decided : ∀ e ∈ [(0, false, ([] : List Nat), ([] : List Nat)), (2, false, [1], [1]), (2, false, [1], []), (0, false, [0], []), (0, true, [0, 1], [1]), (1, true, [1], [1])],
    let c := { coll e.1 e.2.1 1 [1] none with poison := e.2.2.2 }
    let s := together Cle.reset (runs c) [.decided 0 1 0 0 e.2.2.1 false]
    c.rank = 1 ∧ s.packet 0 = some (.decided 0 1 0 0 e.2.2.1 false) ∧ (s.cle 1 0).cur = some c ∧ c.x = none ∧ c.code = 0 ∧ kKind c.sub.record = e.1 ∧ kX c.sub.record = e.2.1 ∧ c.sub.bad = false := by decide +kernel
/-- A join of a round that has closed, while the engine runs the next one. -/
theorem witness_CollectivesJoinAndDecide_late : let c := { coll 0 false 0 [0] none with round := 1 }
    let s := together { runs c with round := 2, closed := [(0, [1])] } Cle.reset [.join 0 0 0 0 2 1 [1] []]
    s.packet 0 = some (.join 0 0 0 0 2 1 [1] []) ∧ cEpoch (s.comm 0 0).entry = 0 ∧ (0 : Nat) < (s.cle 0 0).round ∧ (s.cle 0 0).cur = some c ∧ (0 : Nat) < c.round ∧
      (s.cle 0 0).closed.find? (fun e => e.1 = 0) = some (0, [1]) := by decide +kernel
theorem witness_CollectivesJoinAndDecide_timeouts : ∃ c d, ({ together Cle.reset (runs (coll 0 false 1 [1] none)) [.query 0 1 0 1 1] with subject := [0, 2] } : State).subject = [0, 2] ∧
    ((together Cle.reset (runs (coll 0 false 1 [1] none)) [.query 0 1 0 1 1]).cle 1 0).cur = some c ∧ c.x = none ∧ c.code = 0 ∧ c.began = 0 ∧
    (∀ m ∈ (together Cle.reset (runs (coll 0 false 1 [1] none)) [.query 0 1 0 1 1]).fabric.msgs, ∀ x late, m.pkt ≠ .decided 0 1 c.epoch c.round x late) ∧
    c.chipOf ((2 - 1) / 2) = (together Cle.reset Cle.reset []).control.chip ∧
    ((together (runs { coll 0 false 0 [0] none with queries := [(1, 0, false)] }) Cle.reset [.query 0 1 0 1 1]).cle (1 - 1) 0).cur = some d ∧ d.rank = 0 ∧
    (∀ r ∈ (together Cle.reset Cle.reset []).mates d, d.rank < r) ∧
    (together (runs { coll 0 false 0 [0] none with queries := [(1, 0, false)] }) Cle.reset [.query 0 1 0 1 1]).packet 0 = some (.query 0 1 0 1 1) := by
  refine ⟨coll 0 false 1 [1] none, { coll 0 false 0 [0] none with queries := [(1, 0, false)] }, rfl, by decide +kernel, rfl, rfl, rfl, ?_, by decide +kernel, by decide +kernel, rfl, by decide +kernel, by decide +kernel⟩
  intro m hm x late
  obtain rfl : m = ⟨0, 0, .query 0 1 0 1 1, none⟩ := by simpa [together, indexed] using hm
  exact nofun
/-- The first time-out of rank 1 names rank 0; X that reaches a late member; a presence answer in time, and one after 3 T_j. -/
theorem witness_CollectivesJoinAndDecide_low : (let s : State := { together Cle.reset (runs (coll 0 false 1 [1] none)) [] with subject := [0, 0] }
    (s.cle 1 0).cur = some (coll 0 false 1 [1] none) ∧ s.mates (coll 0 false 1 [1] none) = [0] ∧ s.fabric.msgs = []) ∧
    (let s := together Cle.reset (runs (coll 0 false 1 [1] none)) [.decided 0 1 0 0 [1] true]
    s.packet 0 = some (.decided 0 1 0 0 [1] true) ∧ (s.cle 1 0).cur = some (coll 0 false 1 [1] none)) ∧
    ∀ e ∈ [(3 * 2 ^ 22 - 1, true), (3 * 2 ^ 22, false)],
      let s : State := { together (runs { coll 0 false 0 [0] none with queries := [(1, 0, false)] }) Cle.reset [.query 0 1 0 1 1] with now := e.1 }
      decide (s.now < 0 + 3 * (s.comm 0 0).tj) = e.2 := by decide +kernel
/-- The third query was answered by nobody: rank 1 is absent. -/
theorem witness_CollectivesJoinAndDecide_absent : let c := { coll 0 false 0 [0] none with queries := [(1, 2, false)] }
    let s : State := { together (runs c) Cle.reset [] with now := 3 * 2 ^ 22, subject := [0, 3] }
    (s.cle 0 0).cur = some c ∧ s.subject = [c.began, 3] ∧ (∀ r ∈ c.lacking, s.absent 0 0 c r = true) ∧ c.lacking = [1] := by decide +kernel
theorem witness_CollectivesJoinAndDecide_earlier : (({ together Cle.reset (runs (coll 0 false 1 [1] none)) [] with subject := [1, 0, 0] } : State).cle 1 0).cur = some (coll 0 false 1 [1] none) := by decide +kernel
theorem some_of {α β : Type} (x : α × Option β) (h : x.2.isSome = true) : ∃ v o, x = (v, some o) := by
  obtain ⟨v, o⟩ := x
  cases o with
  | none => cases h
  | some o => exact ⟨v, o, rfl⟩
/-- A member at its turn. -/
def sends (kind rank chunk : Nat) : Coll := { coll kind false rank [0, 1] (some []) with todo := [⟨chunk, 1⟩], pairs := [(1, 1, [0]), (0, 1, [0])], arrived := [chunk] }
def sending (kind rank chunk : Nat) : State := together (if rank = 0 then runs (sends kind rank chunk) else Cle.reset) (if rank = 1 then runs (sends kind rank chunk) else Cle.reset) []
/-- An event of a member in which nothing has been refused, before and after its run on the channel is noted. -/
def tries (s : State) : State := { s with attempt := some ⟨[], [], none⟩ }
def served (s : State) (die : Nat) : State := { tries s with fabric := { s.fabric with served := Sp.put 63 s.fabric.served (die * 16 + cVc (s.comm die 0).entry) 0 } }
/-- The same, waiting for an access that is parked. -/
def waitsFor (s : State) (i : Instr) (l : List Nat) : State := { s with delayed := [⟨i, l, none, [], some (0, 0, 0), []⟩] }
/-- A reduction whose next member is near, and its last member; a copy; a switch reduction. -/
theorem witness_TransfersOfCollectives : (∀ e ∈ [(0, 0, 1), (0, 1, 1), (1, 0, 1), (2, 0, 0)], (sending e.1 e.2.1 e.2.2).sendDue e.2.1 0 = true ∧
      ((sending e.1 e.2.1 e.2.2).cle e.2.1 0).cur = some (sends e.1 e.2.1 e.2.2) ∧
      (sending e.1 e.2.1 e.2.2).eventWaits (.chunkSendStart e.2.1 0) [] = false ∧ (sends e.1 e.2.1 e.2.2).todo = [⟨e.2.2, 1⟩]) ∧
    (sends 0 0 1).chain 1 = [0, 1] ∧ (sends 0 0 1).pos 1 = 0 ∧ (sending 0 0 1).near (sends 0 0 1) 1 = true ∧ (sends 0 1 1).pos 1 = 1 ∧ (sends 0 1 1).chain 1 = [0, 1] ∧
    Machine.redirect 2 1 [] = 1 ∧ (sends 0 0 1).sends = true ∧ (sends 0 1 1).sends = false ∧ (sends 1 0 1).sends = true ∧
    (waitsFor (sending 0 0 1) (.chunkSendStart 0 0) []).eventWaits (.chunkSendStart 0 0) [] = true := by decide +kernel
theorem witness_TransfersOfCollectives_data : (∃ v own, (served (sending 0 0 1) 0).ownChunk (sends 0 0 1) 1 = (v, some own)) ∧
    (∃ v own, (tries (sending 0 1 1)).ownChunk (sends 0 1 1) 1 = (v, some own) ∧ (v.writeRun (submission 0 false).who (desc 3) 1 (pairOut .f32 (chainStep false own [0]))).2 = true) ∧
    ∃ v vs, (served (sending 1 0 1) 0).readRun (submission 1 false).who (desc 3) 1 1 = (v, some vs) := by
  refine ⟨some_of _ (by decide +kernel), ?_, some_of _ (by decide +kernel)⟩
  have h : ((tries (sending 0 1 1)).ownChunk (sends 0 1 1) 1).2.isSome = true := by decide +kernel
  have k : ((((tries (sending 0 1 1)).ownChunk (sends 0 1 1) 1).1).writeRun (submission 0 false).who (desc 3) 1
      (pairOut .f32 (chainStep false ((((tries (sending 0 1 1)).ownChunk (sends 0 1 1) 1).2).getD []) [0]))).2 = true := by decide +kernel
  obtain ⟨v, o, e⟩ := some_of _ h
  rw [e] at k
  exact ⟨v, o, e, k⟩
/-- A send whose source is parked, as stage two maps nothing; a next rank on a chip that no port reaches. -/
theorem witness_TransfersOfCollectives_parked : ∃ v, State.sendChunk 0 0 (tries { sending 0 0 1 with mem := State.reset.mem }) = .next v ∧ v.stalled = true ∧
    ({ sending 0 0 1 with mem := State.reset.mem } : State).eventWaits (.chunkSendStart 0 0) [] = false :=
  ⟨_, next_got _ (by decide +kernel), by decide +kernel, by decide +kernel⟩
theorem witness_TransfersOfCollectives_cutOff : let c := { sends 0 0 1 with live := [(0, 0, 0), (1, 5, 1)] }
    let s := sending 0 0 1
    ({ s with control := { s.control with fencedPorts := List.range 18 } } : State).cutOff c 1 = true ∧ s.near c 1 = false ∧ (c.chain 1)[c.pos 1 + 1]? = some 1 := by decide +kernel
/-- A chunk whose write is refused: the destination's tile has another role. -/
theorem witness_TransfersOfCollectives_refusal : let b := { submission 0 false with tdd := some (desc 0) }
    let c := { coll 0 false 0 [0, 1] (some []) with sub := b }
    let s := together (runs c) Cle.reset [.chunk 0 0 0 0 2 0 [7]]
    let w := ((tries s).unpost 0).writeRun c.sub.who (desc 0) (kDbase c.sub.record + 0 * kE c.sub.record) [7]
    (s.cle 0 0).cur = some c ∧ c.code = 0 ∧ c.sub.tdd = some (desc 0) ∧ w.2 = false ∧ w.1.stalled = false := by decide +kernel
theorem witness_TransfersOfCollectives_arrivals : (let s := together (runs (coll 0 false 0 [0, 1] (some []))) Cle.reset [.pair 0 0 0 0 2 0 1 [7], .chunk 0 0 0 0 2 0 [7]]
     cEpoch (s.comm 0 0).entry ≤ 0 ∧ (s.cle 0 0).cur = some (coll 0 false 0 [0, 1] (some [])) ∧ s.packet 0 = some (.pair 0 0 0 0 2 0 1 [7]) ∧
     s.packet 1 = some (.chunk 0 0 0 0 2 0 [7]) ∧ s.eventWaits (.copyChunkArrival 1) [] = false ∧ 0 ∉ (coll 0 false 0 [0, 1] (some [])).arrived ∧ (((tries s).unpost 1).writeRun (submission 0 false).who (desc 3) 0 [7]).2 = true) ∧
    0 ∈ ({ coll 0 false 0 [0, 1] (some []) with arrived := [0] } : Coll).arrived := by decide +kernel
theorem inl_of {α β γ : Type} (x : α × (β ⊕ γ)) (h : x.2.isLeft = true) : ∃ v b, x = (v, .inl b) := by
  obtain ⟨v, o⟩ := x
  cases o with
  | inl b => exact ⟨v, b, rfl⟩
  | inr c => cases h
/-- A member of a switch reduction, with tensors of its own. -/
def own (rank : Nat) : Coll := { coll 2 false rank [0, 1] (some []) with sub := { submission 2 false with tds := some (source (rank + 1)), tdd := some (source (rank + 3)) } }
/-- Chunk 64 has been joined; its elements do not meet the tile's table. Then the joins taken. -/
def switching : State := { together (runs (own 0)) (runs (own 1)) [] with subject := [0] }
def joining : State :=
  let g := Sp.get SwitchGroup.reset switching.fabric.switch 5
  { switching with attempt := some ⟨[], [], none⟩, fabric := { switching.fabric with switch := Sp.put SwitchGroup.reset switching.fabric.switch 5 { g with joins := g.joins.filter fun k => !(k.1 = 64 && k.2.2 = 0) } } }
theorem witness_TransfersOfCollectives_switch : ∃ c j v ws, let s := switching
    let g := Sp.get SwitchGroup.reset s.fabric.switch 5
    s.subject = [0] ∧ g.joins.find? (fun k => k.1 = 64 && k.2.2 = 0) = some j ∧ (s.cle j.2.1 0).cur = some c ∧ c.code = 0 ∧ s.switchFull 5 64 0 c = true ∧
    State.switchSum 0 64 c (chainOf c.p 64 []) [] { s with attempt := some ⟨[], [], none⟩, fabric := { s.fabric with switch := Sp.put SwitchGroup.reset s.fabric.switch 5 { g with joins := g.joins.filter fun k => !(k.1 = 64 && k.2.2 = 0) } } } =
      (v, .inl ws) ∧ s.eventWaits (.switchReduce 5 64) [0] = false ∧ (State.multicast 0 64 ws ((c.rank :: s.mates c).map c.dieOf) v).stalled = false := by
  obtain ⟨v, ws, e⟩ := inl_of (State.switchSum 0 64 (own 0) (chainOf (own 0).p 64 []) [] joining) (by decide +kernel)
  have k : (match State.switchSum 0 64 (own 0) (chainOf (own 0).p 64 []) [] joining with
      | (v, .inl ws) => (State.multicast 0 64 ws [0, 1] v).stalled
      | _ => true) = false := by decide +kernel
  rw [e] at k
  exact ⟨own 0, (64, 0, 0), v, ws, rfl, by decide +kernel, by decide +kernel, rfl, by decide +kernel, e, by decide +kernel, k⟩
theorem witness_TransfersOfCollectives_ends : let c := { coll 0 false 0 [0, 1] (some []) with waitSince := some 4 }
    (({ together (runs c) Cle.reset [] with subject := [0, 4] } : State).cle 0 0).cur = some c ∧ c.code = 0 ∧ c.began = 0 ∧
    ({ coll 0 false 0 [0, 1] (some []) with waitSince := none } : Coll).began = 0 := by decide +kernel
/-- A row sent to rank 1, from a member and from a die that is none; a row that arrives for an armed collective. -/
theorem witness_TransfersOfCollectives_rows : let row (stage core dst : Nat) : Packet := .routed 0 1 false core 0 0 0 0 7 0 stage dst 0 0
    let b := { submission 0 false with need := 1 }
    let s := together Cle.reset { Cle.reset with subs := [b] } [row 0 0 0, row 0 1200 0, row 2 0 1]
    s.packet 0 = some (row 0 0 0) ∧ rankOf s.control.chip (coreDie 0) (s.liveSlots commEntry) = some 0 ∧ (s.liveSlots commEntry)[1]? = some (1, 0, 1) ∧
    s.packet 1 = some (row 0 1200 0) ∧ rankOf s.control.chip (coreDie 1200) (s.liveSlots commEntry) = none ∧
    s.packet 2 = some (row 2 0 1) ∧ cEpoch (s.comm 1 0).entry = 0 ∧ s.turnOf 1 0 = some b ∧ b.count < b.need ∧ s.subRefused 1 0 b = false ∧
    s.eventWaits (.routedRowArrival 2) [] = false ∧ b.tds = some (desc 3) ∧
    (State.writeRun (tries (s.taking 2)) b.who (desc 3) (kSbase b.record + 0 + 32 * 0) ((List.range 32).map (laneN (7 : Row) (dFmt (desc 3)).width))).1.stalled = false ∧
    (0 : Nat) < cEpoch (({ s with fabric := { s.fabric with comms := [(64, { Comm.reset with entry := commEntry ||| BitVec.ofNat 128 (packN [(100, 1)]) })] } } : State).comm 1 0).entry := by decide +kernel
/-- A row for a member of another chip: slot 1 holds die 1 of chip 1. -/
theorem witness_TransfersOfCollectives_abroad : let s := together Cle.reset Cle.reset [.routed 0 1 false 0 0 0 0 0 7 0 0 0 0 0]
    let t : State := { State.reset.placeWords [entry true, 0, 0, 0, 0, 0, 0, 0, 0x8000000580000000] with fabric := s.fabric }
    rankOf t.control.chip 0 (t.routedLive 0 0) = some 0 ∧ (t.routedLive 0 0)[1]? = some (1, 1, 1) ∧ t.control.chip = 0 := by decide +kernel
/-- A routed row that waits for a credit, and a member that ends after it has waited for another chip. -/
theorem witness_TransfersOfCollectives_credit : let s := together Cle.reset Cle.reset [.routed 0 1 false 0 0 0 0 0 7 0 1 0 0 0]
    s.packet 0 = some (.routed 0 1 false 0 0 0 0 0 7 0 1 0 0 0) ∧ s.turnOf 1 0 = none ∧
    ∃ r, ({ coll 0 false 0 [0, 1] (some []) with todo := [⟨0, 1⟩], live := [(0, 0, 0), (1, 5, 1)] } : Coll).awaited = some r ∧
      s.near { coll 0 false 0 [0, 1] (some []) with todo := [⟨0, 1⟩], live := [(0, 0, 0), (1, 5, 1)] } r = false :=
  ⟨by decide +kernel, by decide +kernel, 1, by decide +kernel, by decide +kernel⟩
/-- A collective that ends with success, with X and with an error. -/
theorem witness_CollectivesEndAndMembersChange : ∀ e ∈ [(0, some []), (0, some [1]), (5, none)], let c := { coll 1 true 0 [0, 1] e.2 with code := e.1, arrived := [0, 1], written := [] }
    (together (runs c) Cle.reset []).collEnds 0 0 = true ∧ ((together (runs c) Cle.reset []).cle 0 0).cur = some c ∧ ((together (runs c) Cle.reset []).cmd c.sub.cmd).isSome = true ∧ ((together (runs c) Cle.reset []).cmd c.sub.cmd).map Cmd.dest = some [8] := by decide +kernel
def change (delete : Bool) : Cle := { Cle.reset with change := [⟨1, 0, 1, delete⟩] }
/-- A change is looked at when its event does not wait; the table is mapped. -/
theorem witness_CollectivesEndAndMembersChange_table : let s := together (change false) Cle.reset []
    let e := (s.comm 0 0).entry
    s.eventWaits (.membershipApply 0 0) s.subject = false ∧ ∀ n, n < 4 * max 1 (cSlots e) → (s.s2 (cPart e) ((cMtab e + n) / 65536)).isSome = true := by decide +kernel
theorem witness_CollectivesEndAndMembersChange_members : (∀ d ∈ [false, true], ((together (change d) Cle.reset []).cle 0 0).cur = none ∧ ((together (change d) Cle.reset []).cle 0 0).change = [⟨1, 0, 1, d⟩]) ∧
    (∀ d ∈ [false, true], (together (change d) Cle.reset []).memberHere 0 0 = true) ∧
    (let s := together { runs (coll 0 false 0 [] none) with change := [⟨1, 0, 1, false⟩] } Cle.reset []
     (s.cle 0 0).cur ≠ none ∧ (s.cle 0 0).change = [⟨1, 0, 1, false⟩]) ∧
    (1 : Nat) < cSlots commEntry ∧ ((together Cle.reset Cle.reset []).phys (cPart commEntry) (cMtab commEntry + 4 * 1)).isSome = true ∧ cV commEntry = true ∧
    bit ((State.reset.placeWords [0]).slotWord (cPart commEntry) (cMtab commEntry) 1) 31 = false ∧
    (Sp.get SwitchGroup.reset (together Cle.reset Cle.reset []).fabric.switch 5).members ≠ [] ∧ (Sp.get SwitchGroup.reset (together Cle.reset Cle.reset []).fabric.switch 5).epoch < 1 ∧
    (Sp.get SwitchGroup.reset (together Cle.reset Cle.reset []).fabric.switch 6).members = [] := by decide +kernel
/-- A spare at slot 1 of the communicator, the member of slot 0 its neighbour, with a replay that has gone as far as entry 5, and a subject. -/
def sparing (slot0 : Nat) (r : Replay) (splice : List (List Word64)) (seq : Nat) (subject : List Nat) : State :=
  let s := together Cle.reset Cle.reset []
  { State.reset.placeWords [entry true, 0, 0, 0, 0, 0, 0, 0, BitVec.ofNat 64 slot0] with subject, fabric := { s.fabric with replays := [r], splice, seq } }
def replays (held : Bool) (bad : Nat) : Replay := ⟨0, 0, 1, 1, held, 5, 5, bad⟩
/-- The neighbour on this chip, on another, and none: what the spare has of it and what it has still to take. -/
theorem witness_CollectivesEndAndMembersChange_spare : ∀ e ∈ [(0x80000000, some 0), (0x80000004, some 1), (0, none)],
    let s := sparing e.1 (replays true 0) [] 6 []
    let c := (s.comm 0 0).entry
    cV c = true ∧ (1 : Nat) < cSlots c ∧ bit (s.slotWord (cPart c) (cMtab c) 1) 31 = false ∧ (s.neighbour 0 0 1).map (fun m => m.2.1) = e.2 ∧ s.control.chip = 0 ∧
    s.replayOf 0 0 1 = some (replays true 0) := by decide +kernel
/-- Entries: of another chip's neighbour, before, at and past 64 completions after the snapshot; of this chip's, none, one, and a log that has gone too far. -/
theorem witness_CollectivesEndAndMembersChange_entries : let x : List Word64 := [pack [(16, 6)], 0, 0, 0, 0, 0, 0, 0]
    let m : Nat × Nat × Nat := (0, 0, 0)
    let near (l : List (List Word64)) (seq : Nat) : State := sparing 0x80000000 (replays true 0) l seq [2, 6, 0, (desc 3).toNat, (desc 3).toNat, 0, 7]
    (∀ q ∈ [5, 6, 69, 70], (sparing 0 (replays true 0) [] 6 [2, q, 0, 0, 0]).eventWaits (.spareJoin 0 0 1) [2, q, 0, 0, 0] = false) ∧
    (near [] 6).entriesAfter 0 0 5 m = [] ∧ (near [x] 7).entriesAfter 0 0 5 m = [x] ∧ 5 + 64 < (near [] 71).fabric.seq - 1 ∧ (near [] 70).fabric.seq - 1 ≤ 5 + 64 ∧
    dCmp (desc 3) = false ∧ dCmp packed = true ∧ (near [] 6).caughtUp 0 0 1 = true ∧ (near [x] 7).caughtUp 0 0 1 = false ∧
    (sparing 0x80000000 (replays false 0) [] 6 []).caughtUp 0 0 1 = false ∧ (sparing 0x80000000 (replays true 1) [] 6 []).caughtUp 0 0 1 = false := by decide +kernel
theorem witness_CollectivesEndAndMembersChange_written : let s := sparing 0x80000000 (replays true 0) [] 7 [2, 6, 0, (source 1).toNat, (source 2).toNat, 64, 7]
    let e := (s.comm 0 0).entry
    let w : Who := ⟨3, 0, 0, 0, cPart e, 0, cOwner e % 16, s.now, s.control.chip⟩
    let a := tries (s.validateRange (cPart e) (cMtab e) (4 * max 1 (cSlots e)))
    (State.writePairs w (source 1) [(64, 7)] a).stalled = false ∧ (State.writePairs w (source 1) (State.readPairs w (source 2) [64] a).2 (State.readPairs w (source 2) [64] a).1).stalled = false := by decide +kernel
/-- An entry of a neighbour's log: two elements are written and their digest, from FIPS 180-4's SHA-256 of eight zero bytes, agrees (R264, R265). -/
theorem test_spare_digest : digestOf 32 [0, 0] = 0x0f660ac74baf8cf77a0b81a1f57055af := by decide +kernel


/-! Hypotheses that can be met: host, scheduler, firmware. -/

/-- Partition 0 of die 0 in service, with queue 0 and the event ring as given. -/
def hosted (q : Queue) (ring : EventRing) : State :=
  let s := State.reset.placeWords [0]
  s.setPart 0 { s.part 0 with queues := Sp.put Queue.reset [] 0 q, ring }
/-- `qcfg` of the least and the greatest sizes, enabled. -/
def qon (c q : Nat) : Queue := { Queue.reset with qcfg := pack [(63, 1), (16, c), (0, q)] }
theorem witness_HostWritesAndConfigurations : (hosted (qon 4 0) EventRing.reset).pageServes 0 = true ∧ ((hosted (qon 4 0) EventRing.reset).queue 0 0).enabled = true ∧
    (∀ e ∈ [(0, 1, true), (0, 2, false), (1, 1, true), (1, 0, false)], let q := { qon 4 0 with qtail := BitVec.ofNat 64 e.1 }
      let v : Word64 := BitVec.ofNat 64 e.2.1
      (decide (sub48 v q.qhead ≤ 2 ^ fldN q.qcfg 0 5) && decide (sub48 q.qtail q.qhead ≤ sub48 v q.qhead)) = e.2.2 ∧ q.head = none ∧ decide (q.qtail = q.qhead) = decide (e.1 = 0)) ∧
    qcfgTaken (qon 20 16).qcfg = true ∧ bit (qon 20 16).qcfg 63 = true ∧
    Queue.reset.enabled = false ∧ Queue.reset.grps = [] ∧ qcfgTaken (pack [(16, 4), (0, 16)]) = true ∧ bit (pack [(16, 4), (0, 16)] : Word64) 63 = false ∧ (4 : Nat) ≠ 8 ∧ (15 : Nat) < 16 ∧
    ecfgTaken (pack [(63, 1), (0, 16)]) = true ∧ bit EventRing.reset.ecfg 63 = false ∧ ecfgTaken (pack [(0, 4)]) = true ∧ bit (pack [(0, 4)] : Word64) 63 = false := by decide +kernel
/-- R314, R341: the host's access to a frame whose entry is invalid is parked as S2FAULT, unit 5, with the frame as its information. -/
theorem test_host_access_parks :
    ((((hosted Queue.reset EventRing.reset).hostPark 0 2 (.hostCxlMemAccess 0 0x20000 true [1])).die 0).faults.map fun r =>
      (fldN (r.words.getD 0 0) 56 8, fldN (r.words.getD 0 0) 4 4, r.words.getD 3 0, r.parked)) = [(0x12, 5, 2, true)] := by decide +kernel
/-- A context frozen on an event, with its gang, at a partition. -/
def frozen (code : Nat) (inGroup : Bool) (regs : Regs) : State :=
  let ring : EventRing := { EventRing.reset with ecfg := pack [(63, 1), (0, 4)], brks := [(6, 0, 0)], waiting := [([1], some (0, 0))] }
  (withCtx { placed with regs, iss := { placed.iss with freeze := some ⟨code, 0, inGroup, 0⟩ } }).setPart 0
    { Part.reset with cfg := { PartCfg.reset with dies := [0] }, gangs := [(0, gang Knot.reset false false none)], ring }
theorem witness_HostWritesAndConfigurations_brk : (frozen 8 false Regs.reset).brkOf 0 6 = some (0, 0) ∧ ((frozen 8 false Regs.reset).ctx 0).iss.after = [] ∧
    ((frozen 8 false Regs.reset).ctx 0).iss.routineEvent = none := by decide +kernel
theorem witness_HostWritesAndConfigurations_memory : ((hosted Queue.reset EventRing.reset).part 0).configured = true ∧ (0x1ffff : Nat) < 2 ^ 44 ∧
    (hosted Queue.reset EventRing.reset).s2 0 (0x1ffff / 65536) = some 1 ∧ 0x1ffff % 65536 + [(1 : Byte)].length ≤ 65536 ∧
    (hosted Queue.reset EventRing.reset).s2 0 (0x20000 / 65536) = none ∧ ((hosted Queue.reset EventRing.reset).die 0).faults = [] := by decide +kernel
/-- The host's port with room, with a full park, and with an access that is replayed into the full park. -/
theorem witness_HostWritesAndConfigurations_port : let s := hosted Queue.reset EventRing.reset
    let i : Instr := .hostCxlMemAccess 0 0x1ffff true [1]
    let full : State := { s with accesses := List.replicate 256 { reaching .read none with lu := 40, parked := some 0 } }
    s.parkFull 40 = false ∧ full.parkFull 40 = true ∧ (full.hostReplay i).isSome = false ∧
    (({ full with delayed := [⟨i, [], some 0, [], none, []⟩] } : State).hostReplay i).isSome = true := by decide +kernel
theorem witness_HostWritesAndConfigurations_partition : ∀ e ∈ [([0, 1], 2), ([0], 0)], let cfg : PartCfg := { PartCfg.reset with first := 0, dies := e.1 }
    let s : State := { State.reset with control := { Control.reset with svc := e.2 } }
    cfgOk cfg = true ∧ (∀ d ∈ cfg.dies, d ∉ s.control.fencedDies) ∧ (s.control.svc ≠ 2 → cfg.dies.length = 1) ∧ ∀ n, n < 4 → (s.part n).idle = true := by decide +kernel
/-- A head whose groups take one core with a window of two rows, with one argument row at an address. -/
def head (refused : Bool) (args groups next : Nat) : Head :=
  { words := [0, pack [(32, groups), (12, 1)], 0, pack [(44, 1), (0, args)], 0, 0, 0, 0, 0, 0, 0, 0, 0, 0, 0, 0], image := [0, 0, 0, 0, 0, 0, 0, 0, pack [(32, 2)], 0, 0, 0, 0, 0, 0, 0], routines := [], since := 0, next, refused }
/-- What a read of the scheduler meets: 0 words, 1 a refusal, 2 a deferred frame. -/
def met {α : Type} : Got α → Nat
  | .read _ => 0
  | .refused => 1
  | .waits .. => 2
/-- A head whose frames firmware has been asked to make valid; a refused head with groups left and with none. -/
theorem witness_SchedulerPlacesAndReports_heads : (let q := { qon 4 0 with qtail := 1, asked := some (0x10000, 128) }
    q.enabled = true ∧ q.head = none ∧ q.qhead ≠ q.qtail ∧ q.readAt ≤ 0) ∧
    (head true 0 2 1).next < max 1 (rGroups (head true 0 2 1).words) ∧ max 1 (rGroups (head true 0 2 2).words) ≤ (head true 0 2 2).next ∧ (head false 0 2 0).refused = false := by decide +kernel
/-- A record at a mapped address, and one in a deferred frame; a refused head, with groups left and without. -/
theorem witness_SchedulerPlacesAndReports : (∀ e ∈ [(0x10000, 0), (0, 2)], let q := { qon 4 0 with qtail := 1, qbase := BitVec.ofNat 64 e.1 }
      q.enabled = true ∧ q.head = none ∧ q.qhead ≠ q.qtail ∧ q.readAt ≤ 0 ∧ met (State.readHead { hosted q EventRing.reset with mem := (hosted q EventRing.reset).mem.writeN 0x10000 (bytesLE 8 0x20000) } 0 q) = e.2) ∧
    (head true 0 2 0).refused = true ∧ (qon 4 0).grps.length < 256 ∧ (head true 0 2 1).next + 1 = max 1 (rGroups (head true 0 2 1).words) ∧
    (head true 0 2 0).next + 1 ≠ max 1 (rGroups (head true 0 2 0).words) ∧ sub48 (qon 4 0).ctail (qon 4 0).chead < 2 ^ fldN (qon 4 0).qcfg 16 5 ∧
    ((frozen 8 false Regs.reset).part 0).gangs.map Prod.fst = [0] := by decide +kernel
/-- Completion records at a mapped address, in a deferred frame whose validation has been asked for or not, in a frame that is not mapped; the last of a
refused head's, and another's. -/
theorem witness_SchedulerPlacesAndReports_records : ∀ asked : Bool, ∀ e ∈ [(0x10000, false, true), (0, true, false), (0x20000, false, false)],
    let q := { qon 4 0 with cbase := BitVec.ofNat 64 e.1, recordAsked := asked, head := if asked then some (head true 0 1 1) else none, grps := [⟨0, 0, true, 1, 3, some 0x8b, none, 0, asked⟩] }
    let at_ := q.cbase.toNat + 16 * (q.ctail.toNat % 2 ^ fldN q.qcfg 16 5)
    let s := hosted q EventRing.reset
    q.recordAt ≤ s.now ∧ s.s2deferred 0 (at_ / 65536) = e.2.1 ∧ (s.s2 0 (at_ / 65536)).isSome = e.2.2 := by decide +kernel
/-- Decisions: none and none to make, one to begin, one under way, one with nothing to place. -/
theorem witness_SchedulerPlacesAndReports_decisions : ∀ e ∈ [(none, false), (none, true), (some 5, true), (some 0, false)],
    let s := hosted { qon 4 0 with head := if e.2 then some (head false 0x10000 1 0) else none } EventRing.reset
    let s := s.setPart 0 { s.part 0 with deciding := e.1 }
    (s.part 0).deciding = e.1 ∧ (if s.places then s.choosePlace 0 ((s.part 0).heads s.now) else none).isSome = e.2 := by decide +kernel
/-- Arguments at a mapped and at an unmapped address, and in a deferred frame. -/
theorem witness_SchedulerPlacesAndReports_placement : ∀ e ∈ [(0x10000, 0), (0x20000, 1), (0, 2)],
    let h := head false e.1 1 0
    let s := hosted { qon 4 0 with head := some h } EventRing.reset
    let s := s.setPart 0 { s.part 0 with deciding := some 0 }
    s.places = true ∧ (s.part 0).deciding = some 0 ∧ s.choosePlace 0 ((s.part 0).heads s.now) = some (0, h, ⟨[(0, [])], 1, [(0, 0)], 0⟩) ∧ s.gangAt 0 0 = none ∧ [(0 : Nat)].Nodup ∧
      met (s.schedRead 0 (rArgs h.words) (16 * rArows h.words)) = e.2 := by decide +kernel
theorem witness_FirmwareServes : (∀ b ∈ [false, true], ((frozen 2 b Regs.reset).ctx (Machine.ck 0 0)).iss.freeze = some ⟨2, 0, b, 0⟩ ∧ (frozen 2 b Regs.reset).live 0 0 = true ∧ ((frozen 2 b Regs.reset).ctx 0).iss.after = [] ∧
      ((frozen 2 b Regs.reset).ctx 0).iss.halted = false) ∧
    (let s := frozen 2 false Regs.reset
     let c := s.ctx 0
     let t := s.setCtx 0 { c with iss := { c.iss with halted := true, routineEvent := some (1, 9, 2047) } }
     t.live 0 0 = true ∧ (t.ctx 0).iss.after = [] ∧ (t.ctx 0).grp = none) ∧ 0x8000 ≤ ({ frozen 7 false Regs.reset with subject := [0, 0, 0x8000] } : State).subj 2 ∧
    ((frozen 7 false Regs.reset).ctx 0).frozenOn = some 7 ∧ ({ frozen 7 false Regs.reset with subject := [0, 0, 0] } : State).subj 2 = 0 ∧
    0 < ({ frozen 7 false Regs.reset with subject := [0, 0, 0x7fff] } : State).subj 2 ∧ ({ frozen 7 false Regs.reset with subject := [0, 0, 0x7fff] } : State).subj 2 < 0x8000 ∧
    (withCtx placed).me.iss.placed = true ∧ (withCtx placed).me.iss.freeze = none ∧ (withCtx placed).me.iss.halted = false ∧ (withCtx placed).me.grp = none ∧
    (withCtx { placed with grp := some (oneOp addBundle) }).me.grp.isSome = true := by decide +kernel
/-- A context that retries once firmware has made a frame valid. -/
theorem witness_FirmwareServes_frame : let s : State := { frozen 1 true Regs.reset with subject := [0, 0, 2 + 1] }
    s.subject = [0, 0, 2 + 1] ∧ (s.ctx (Machine.ck 0 0)).iss.freeze = some ⟨1, 0, true, 0⟩ ∧ s.live 0 0 = true := by decide +kernel
/-- s2 names die 0, a communicator that is free, one that the gang owns, and no communicator. -/
theorem witness_FirmwareServes_services : (0 ∈ ((frozen 7 false Regs.reset).part 0).cfg.dies ∧ 1 ∉ ((frozen 7 false Regs.reset).part 0).cfg.dies) ∧
    (63 < 64 ∧ (∀ d, d < 4 → cV ((frozen 7 false Regs.reset).comm d 63).entry = false ∧ ((frozen 7 false Regs.reset).cle d 63).change = []) ∧ cOwner (setFld ((0 : Word64) ++ (0 : Word64)) 100 16 0) = 0 * 16 + 0) ∧ ¬ (64 : Nat) < 64 ∧
    cSgv (setFld ((0 : Word64) ++ (0 : Word64)) 43 1 1) = true ∧ (0 < 64 ∧ cV commEntry = true ∧ cOwner commEntry = 0 * 16 + 0) := by decide +kernel
/-- A BRK record that waits: the ring full, its frame not mapped, and free. -/
theorem witness_FirmwareServes_brk : ∀ e ∈ [(0, 0x10000, true), (16, 0x10000, false), (0, 0x20000, false)],
    let ring : EventRing := { EventRing.reset with ecfg := pack [(63, 1), (0, 4)], etail := BitVec.ofNat 64 e.1, ebase := BitVec.ofNat 64 e.2.1, waiting := [([1], some (0, 0)), ([2], none)] }
    let s := hosted Queue.reset ring
    let frame := (ring.ebase.toNat + 256 * (ring.etail.toNat % 2 ^ fldN ring.ecfg 0 5)) / 65536
    (s.part 0).ring.waiting = ([1], some (0, 0)) :: [([2], none)] ∧ bit ring.ecfg 63 = true ∧ ring.brkAt ≤ s.now ∧ s.now < ({ ring with brkAt := 1 } : EventRing).brkAt ∧
      (decide (sub48 ring.etail ring.ehead < 2 ^ fldN ring.ecfg 0 5) && ((s.s2 0 frame).isSome || s.s2deferred 0 frame)) = e.2.2 := by decide +kernel
/-- A fault record of an invalid entry that now is valid, of an access parked under it, and a record that parks nothing. -/
def fault (parked : Bool) : FaultRec := { id := 3, part := 0, words := [pack [(56, 0x11)], pack [(24, 0)], 0, 0x10000, 0, 0, 0, 0], parked, keep := [2], host := [(.hostCxlMemAccess 0 0x1ffff true [1], [])], frame := 0 }
def faulted (e : Word64) (parked : Bool) : State :=
  let s := tiled e .write none
  s.setDie 0 { s.die 0 with faults := [fault parked] }
theorem witness_FirmwareServes_faults : ∀ p ∈ [false, true], ((faulted (entry true) p).die 0).faults.find? (fun g => g.id = 3) = some (fault p) ∧ (fault p).parked = p ∧ (fault p).keep = [2] ∧
    (faulted (entry true) p).accesses.find? (fun b => b.id = 2) = some (reaching .write none) ∧ ((faulted (entry true) p).settles (fault p)).isSome = true ∧
    (faulted (entry true) p).settles { fault p with words := [pack [(56, 0x12)], 0, 0, 0, 0, 0, 0, 0], frame := 5 } = none ∧ ((faulted (entry true) p).die 0).backlog = [] ∧
    fldN ((fault p).words.getD 0 0) 48 16 ≠ 0x1201 ∧ (fault p).ofHost = true ∧ ({ fault p with host := [] } : FaultRec).ofHost = false := by decide +kernel
/-- A host read parked on a frame that is not mapped. -/
theorem witness_FirmwareServes_hostRead : let f : FaultRec := { id := 0, part := 0, words := [pack [(56, 0x12), (48, 1)], 0, 0, 2, 0, 0, 0, 0], parked := true, keep := [], host := [(.hostCxlMemAccess 0 0x20000 false [0], [])], frame := 2 }
    let s := hosted Queue.reset EventRing.reset
    (s.setDie 0 { s.die 0 with faults := [f] }).settles f = none ∧ 0x20000 / 65536 = f.frame ∧ fldN (f.words.getD 0 0) 48 16 = 0x1201 := by decide +kernel
/-- An access to another frame than the record's is no access of its frame. -/
theorem witness_FirmwareServes_elsewhere : ∀ p a w d, Instr.hostCxlMemAccess 0 0x1ffff true [1] = .hostCxlMemAccess p a w d → p ≠ 0 ∨ a / 65536 ≠ 2 := by
  rintro p a w d ⟨⟩
  decide
/-- A marker whose command is still in flight, and one whose commands are done. -/
def marked (frz : Option Freeze) (done : Bool) : State :=
  let s := frozen 10 true Regs.reset
  { s.setCtx 0 { s.ctx 0 with markers := [5], iss := { (s.ctx 0).iss with freeze := frz } } with cmds := [{ command .snop with done }], subject := [5] }
theorem witness_FirmwareServes_markers : 5 ∈ ((marked none false).ctx 0).markers ∧ (marked none false).live 0 0 = true ∧ ((marked none false).ctx 0).iss.after = [] ∧ ((marked none false).ctx 0).iss.placed = true ∧
    ((marked none false).ctx 0).iss.freeze = none ∧ (marked none false).fabric.cache = [] ∧
    (({ marked none false with fabric := { Fabric.reset with unmaps := [⟨3, 0, [⟨0, 0, 3, 0, 1, some 0⟩], [], [(0, 0)]⟩] } } : State).fabric.unmaps.reverse.find? (fun u => u.handle = 3 && u.tile = 0 && u.due.contains (0, 0))).isSome = true ∧
    (marked none false).fabric.unmaps = [] ∧ ({ marked none false with subject := [2] } : State).subj 0 = 2 ∧ (marked none false).subj 0 ≠ 2 ∧ ((marked none false).ctx 0).iss.halted = false ∧ ((marked (some ⟨10, 0, true, 0⟩) false).ctx 0).frozenOn = some 0x0a ∧
    (∃ d ∈ (marked (some ⟨10, 0, true, 0⟩) false).cmds, d.core = 0 ∧ d.slot = 0 ∧ d.id < 5 ∧ d.done = false) ∧
    (∀ d ∈ (marked (some ⟨10, 0, true, 0⟩) true).cmds, d.core = 0 → d.slot = 0 → d.id < 5 → d.done = true) := by decide +kernel
/-- A marker of an unmapping whose old entry firmware names, which goes to slot 1 of core 0 as well. -/
theorem witness_FirmwareServes_unmapping : ∀ frame ∈ [0, 2], let s : State := { (marked none false).setCtx 1 placed with subject := [1, 0, 5, frame, 1] }
    s.subject = 1 :: 0 :: 5 :: frame :: [1] ∧ s.subject.drop 4 = [1] ∧ (1 / 4, 1 % 4) ≠ ((0 : Nat), (0 : Nat)) ∧ (s.ctx (Machine.ck (1 / 4) (1 % 4))).iss.placed = true := by decide +kernel

/-! Hypotheses that can be met: fabric, storage, other chips, power, bring-up. -/

/-- Partition 0 of die 0 with a gang whose end has begun, and a command of it in flight. -/
def ending : State := { ganged (gang Knot.reset false false (some (0x82, 0))) id with cmds := [command .snop] }
theorem witness_FabricAndStorageReports : (ending.part 0).cfg.dies ≠ [] ∧
    (ending.gangAt 0 0).isSome = true ∧ (gang Knot.reset false false (some (0x82, 0))).ending = some (0x82, 0) ∧ ending.cmdsLeft (gang Knot.reset false false (some (0x82, 0))) = true := by decide +kernel
theorem witness_FabricAndStorageReports_router : 7 ∉ ({ State.reset with now := 256 } : State).fabric.routerOff ∧
    (∀ d ∈ ({ State.reset with now := 256 } : State).pending, d.work = .event .routerWakeNotice → ({ State.reset with now := 256 } : State).now < d.at_) ∧
    Sp.get 0 ({ State.reset with now := 256 } : State).fabric.routerWoke 7 + 256 ≤ ({ State.reset with now := 256 } : State).now := by decide +kernel
/-- A boundary failure between dies 0 and 1, which share a partition, and between dies 2 and 3. -/
theorem witness_FabricAndStorageReports_boundary : (∀ b ∈ [0, 2], b < 3 ∧ bootIndex 6 b < Control.reset.boot.length) ∧
    (let s := State.reset.setPart 0 { Part.reset with cfg := { PartCfg.reset with dies := [0, 1] } }
     (0 ∈ (s.part 0).cfg.dies ∧ 0 + 1 ∈ (s.part 0).cfg.dies) ∧ ¬(2 ∈ (s.part 0).cfg.dies ∧ 2 + 1 ∈ (s.part 0).cfg.dies)) := by decide +kernel
/-- Lost rows of one stripe, data and check rows: those that can be rebuilt and those that cannot; a gang whose window holds them. -/
theorem witness_FabricAndStorageReports_rows : (∀ e ∈ [([0, 1], true), ([0, 2561], true), ([2559], true), ([2879], true), ([0, 1, 2], false), ([0, 2560], false), ([0, 1, 2561], false)],
      let stripe (r : Nat) : Nat := if r < 2560 then r / 16 else (r - 2560) / 2
      let rows : List Nat := e.1
      let n := stripe (rows.headD 0)
      let data := rows.filter fun r => r < 2560
      rows ≠ [] ∧ rows.Nodup ∧ (∀ r ∈ rows, r < 2880 ∧ stripe r = n) ∧
      decide (2560 + 2 * n ∉ rows ∧ (data.length ≤ 1 ∨ data.length = 2 ∧ (ending.core 0).retired = none ∧ 2561 + 2 * n ∉ rows)) = e.2) ∧
    (ending.ctx (Machine.ck 0 0)).iss.placed = true ∧ (ending.ctx (Machine.ck 0 0)).inWindow 2 = true ∧
    (ending.gangAt (ending.ctx (Machine.ck 0 0)).place.part (ending.ctx (Machine.ck 0 0)).place.tree).isSome = true := by decide +kernel
/-- A port whose count of errors passes its limit, whatever it is, and one whose count stays within it. -/
def erring (n : Nat) : State := { State.reset with fabric := { Fabric.reset with ports := Sp.put Port.reset [] 17 { Port.reset with errors := List.replicate n 0 } }, subject := [17, 2] }
theorem witness_FabricAndStorageReports_port : (17 < 18 ∧ 17 ∉ (erring 0).control.fencedPorts) ∧
    (Config.portLimit 17 < (0 :: (Sp.get Port.reset (erring (Config.portLimit 17)).fabric.ports 17).errors.filter fun n => 0 < n + 2700000).length) ∧
    (1 ≤ Config.portLimit 17 → (0 :: (Sp.get Port.reset (erring 0).fabric.ports 17).errors.filter fun n => 0 < n + 2700000).length ≤ Config.portLimit 17) := by
  refine ⟨by decide, ?_, fun h => h⟩
  have g : ∀ n, Sp.get Port.reset (erring n).fabric.ports 17 = { Port.reset with errors := List.replicate n 0 } := fun n => Sp.get_put_same Port.reset [] _ _
  rw [g]
  simp
/-- A microword of a routine that runs, and the transform core at work. -/
theorem witness_FabricAndStorageReports_storage : ∃ r c, ((withCtx (running [] [] [] [])).ctx (Machine.ck 0 0)).matrix.run = some r ∧ ((withCtx (running [] [] [] [])).core 0).covers r 0 = true ∧
    ((commands (command (.cpXf ⟨0, 1, 0, 0, 1, 0, 0, 0, 0⟩))).core 0).xforms = 1 :: [] ∧ (commands (command (.cpXf ⟨0, 1, 0, 0, 1, 0, 0, 0, 0⟩))).cmd 1 = some c ∧ c.slot = 0 :=
  ⟨_, _, rfl, by decide +kernel, rfl, rfl, rfl⟩
/-- A transform core whose head runs routine 1, over word 5, and not over word 0, which is another routine's. -/
theorem witness_FabricAndStorageReports_transform : let x : Control := { Control.reset with xtable := [0, 32] }
    x.runsOver (.cpXf ⟨0, 1, 0, 0, 1, 0, 0, 0, 0⟩) 5 = true ∧ x.runsOver (.cpXf ⟨0, 1, 0, 0, 1, 0, 0, 0, 0⟩) 0 = false ∧
    (({ Core.reset with rv := some (Rv.call [] 0 0 [] 0 0) } : Core).rv).isSome = true := by decide +kernel
/-- A port is fenced, and a copy's next rank lies on a chip that no port reaches any more. -/
theorem witness_FabricAndStorageReports_peers : let c := { sends 1 0 1 with live := [(0, 0, 0), (1, 5, 1)] }
    let s : State := { sending 1 0 1 with control := { Control.reset with fencedPorts := List.range 18 } }
    c.code = 0 ∧ c.x.isSome = true ∧ 1 ∈ c.needs ∧ s.cutOff c 1 = true ∧ 17 ∉ State.reset.control.fencedPorts ∧ 17 ∈ s.control.fencedPorts := by decide +kernel
/-- A word of a tile, with its entry, in a table of this chip or at a place that firmware gave a tile that came here. -/
theorem witness_FabricAndStorageReports_memory : let s := State.reset.placeWords [entry true]
    s.fabric.guests = [] ∧ (({ s with fabric := { s.fabric with guests := [⟨4194304, 0, 0, 0x10000⟩] } } : State).fabric.guests.map fun g => (g.part, g.at_)) = [(0, 0x10000)] ∧ s.readPart 0 0x10000 = some (entry true) ∧ eV (entry true) = true ∧ eRem (entry true) = false ∧ s.s2 0 (eFrame (entry true)) = some 1 := by decide +kernel
/-- A tile with stubs as given. -/
def stubbed (l : List Stub) : State := { State.reset.placeWords [entry true] with fabric := { Fabric.reset with stubs := l } }
def moving (m r : Bool) : Stub := { handle := 0, tile := 0, owner := 9, moving := m, queue := [(3, 1)], told := [(4, 1)], born := 0, reclaim := r }
theorem witness_TilesOfOtherChips : (stubbed []).readPart 0 0x10000 = some (entry true) ∧ eV (entry true) = true ∧ eRem (entry true) = false ∧ (stubbed []).fabric.recasts = [] ∧ (stubbed []).parkedOn 0 0 = false ∧
    ({ stubbed [] with accesses := [{ reaching .write none with parked := some 1 }] } : State).parkedOn 0 0 = true ∧ (stubbed [moving true false]).stub 0 0 = some (moving true false) ∧
    (moving true false).moving = true ∧ (moving false true).moving = false ∧ (moving false true).reclaim = true ∧ (1 : Nat) < 2 ∧ (2 : Nat) ≤ 2 ∧ (moving false false).born + 43200000 ≤ 43200000 ∧
    (stubbed [moving true false]).busyOn 0 0 = false ∧ ({ stubbed [moving true false] with accesses := [{ reaching .write none with accepted := true }] } : State).busyOn 0 0 = true ∧
    (stubbed []).s2 0 (eFrame (setFld (BitVec.ofNat 64 (entry true).toNat) 60 1 0)) = some 1 := by decide +kernel
/-- A request that has left for another chip. -/
def sent (n : Nat) : State := { State.reset with accesses := [{ reaching .read none with sentAt := some n }], subject := [2, 7] }
theorem witness_TilesOfOtherChips_requests : ((sent 7).accesses.map Access.id).Nodup ∧ (sent 7).accesses.find? (fun b => b.id = (sent 7).subj 0) = some { reaching .read none with sentAt := some 7 } ∧
    ((sent 7).accesses.filter fun a => dHandle a.td = 0 && a.tile = 0 && a.sentAt.isSome) ≠ [] ∧ ((sent 7).accesses.filter fun a => dHandle a.td = 1 && a.tile = 0 && a.sentAt.isSome) = [] ∧
    ((sent 7).die 3).faults.length < 1024 ∧ ({ reaching .read none with sentAt := some 7 } : Access).sentAt = some 7 ∧ ({ reaching .read none with sentAt := some 6 } : Access).sentAt ≠ some 7 := by decide +kernel
/-- A request of chip 5 for element 3 of a tile of this chip's home: the tile is here, or gone; what the directory knows of it. -/
def abroad (e : Word64) (homes : List HomeTile) : State :=
  { State.reset.placeWords [e] with fabric := { Fabric.reset with homes }, subject := [dHandle (desc 3), 0, 5, 0, 0, 0, (desc 3).toNat, 0, 3, 0] }
theorem witness_TilesOfOtherChips_abroad : ∀ e ∈ [(entry true, true), (setFld (entry true) 60 1 1, false)], let s := abroad e.1 []
    ∃ a, s.stub (s.subj 0) (s.subj 1) = none ∧ s.fromAbroad (s.subj 0) (s.subj 1) (s.subj 2) = some a ∧ s.liveHere a = e.2 := by
  intro e h
  simp only [List.mem_cons, List.not_mem_nil, or_false] at h
  rcases h with rfl | rfl <;> exact ⟨Option.get _ (by decide +kernel), by decide +kernel, (Option.some_get _).symm, by decide +kernel⟩
theorem witness_TilesOfOtherChips_directory : ∀ e ∈ [(([] : List HomeTile), true, some (some 0)), ([], false, some none), ([⟨dHandle (desc 3), 0, none⟩], true, none), ([⟨dHandle (desc 3), 0, some 9⟩], true, some (some 9))],
    let s := abroad (entry e.2.1) e.1
    dHome (desc 3) = s.control.chip ∧ s.homeOwner 0 (desc 3) 0 = e.2.2 := by decide +kernel
/-- Widths of whole bytes and of nibbles; a request that a port still carries, if one reaches the owner (`witness_noPath`), and one that none does. -/
theorem witness_TilesOfOtherChips_far : (32 % 8 = 0 ∨ (32 : Nat) = 4) ∧ (4 % 8 = 0 ∨ (4 : Nat) = 4) ∧ ({ State.reset with control := { Control.reset with fencedPorts := List.range 18 } } : State).noPath 5 = true ∧
    (let d : Desc := desc 3 ||| BitVec.ofNat 512 (2 ^ 46)
     let a : Access := { accessTo d .read ⟨0, 0, 0, 5⟩ with sentAt := some 7 }
     dHome a.td = 1 ∧ a.parked = none ∧ a.sentAt.isSome = true ∧ (tabled [] a).accesses.find? (fun b => b.id = a.id) = some a) := by decide +kernel
/-- A choice of the model's that falls this way or that. -/
theorem witness_choice : (∀ s : State, s.chooses = true ∨ s.chooses = false) := fun s => by cases s.chooses <;> simp
theorem witness_PowerBringUpAndAttestation_requests : (({ State.reset with control := { Control.reset with request := [0x12, 0xe0, 1, 1] } } : State).reqByte 2) % 2 = 1 ∧
    (({ State.reset with control := { Control.reset with request := [0x12, 0xe0, 0, 0xff] } } : State).reqByte 2) % 2 = 0 := by decide +kernel
theorem witness_PowerBringUpAndAttestation : State.reset.clockRises = false ∧ ({ State.reset with control := { Control.reset with clock := 7 } } : State).control.clock < State.reset.topClock ∧
    0 ∉ ending.control.fencedDies ∧ (∀ p, p < 4 → ((ending.part p).gangs.map Prod.fst).Nodup) ∧ (∀ e ∈ ending.gangsOn 0, e.2.2.prio < 4) ∧ Control.reset.hssLeaf = 32768 ∧ Control.reset.hssTop < 2 ^ 20 ∧
    State.reset.stopped = false ∧ ({ State.reset with control := { Control.reset with svc := 3 } } : State).stopped = true := by decide +kernel
/-- The first and the last instance of the boot. -/
theorem witness_PowerBringUpAndAttestation_boot : ∀ e ∈ [(0, 0), (8, 0)], let s : State := { State.reset with control := { Control.reset with bootAt := some e }, subject := [e.1, e.2] }
    s.subject = [e.1, e.2] ∧ s.control.bootAt = some e ∧ s.control.absent e.1 e.2 = false ∧ bootIndex e.1 e.2 < s.control.boot.length ∧ (∀ p, p < 4 → (s.part p).gangs = [] ∧ (s.part p).saved = []) ∧
      fldN (s.control.boot.getD (bootIndex e.1 e.2) 0) 32 4 = 0 := by decide +kernel
/-- A step of the machine from a canonical memory. -/
theorem witness_MemoryStaysCanonical : (fetches 0xf800000000000080).Inv ∧ ∃ t, step (fetches 0xf800000000000080) = .next t :=
  ⟨by show (fetches 0xf800000000000080).mem.wf = true; decide +kernel, _, next_got _ (by decide +kernel)⟩

/-- Requests that name Prieri's registry, whatever its number, and any one that does not. -/
theorem witness_PowerBringUpAndAttestation_vendor : ({ State.reset with control := { Control.reset with request := List.replicate 7 0 ++ Config.registryId } } : State).namesPrieri = true ∧
    (Config.registryId ≠ [] → ({ State.reset with control := { Control.reset with request := [] } } : State).namesPrieri = false) := by
  refine ⟨by simp [State.namesPrieri], fun h => ?_⟩
  cases k : Config.registryId with
  | nil => exact absurd k h
  | cons a l => simp [State.namesPrieri, k]

/-! Single steps and operations, with results that the manual prints or that follow from its tables by hand. -/

/-- The last result in flight of the context of core 0, slot 0: its tick and value. -/
def last (r : Res) : Option (Nat × Nat) := ((got r).ctx 0).landing.getLast?.map fun x => (x.due, x.val.toNat)
/-- s1 and s2 hold two values, at tick 0. -/
def scalars (a b : Word64) : State := withCtx { placed with regs := { Regs.reset with s := [(1, a), (2, b)] } }
/-- R129, R133: `sli s5, 7` placed at the first pc lands 7 at tick 1. -/
theorem test_step_sli : (match step (State.reset.withFetchWord 128 (0x1a00a00000000007 * 2 ^ 64 + 0x81)) with
    | .next s => ((s.ctx 0).landing.map fun r => (r.due, r.dest, r.val.toNat)) == [(1, .s 5, 7)] && (s.ctx 0).iss.pc == 0x10010 && (s.ctx 0).iss.tick == 1
    | _ => false) = true := by decide +kernel
/-- R112, R231: a `tsys` ends its group and freezes the context on event 7, which is recorded with the code. -/
theorem test_step_tsys : (match step (fetches 0xf000000000010080) with
    | .next s => (s.ctx 0).iss.freeze == some ⟨7, 0, false, 0⟩ && (s.die 0).events.length == 1 && (s.die 0).events.all (fun r => r.getD 4 0 == 1)
    | _ => false) = true := by decide +kernel
/-- R332: an unassigned sync opcode is an ILLEGAL event, sub-code 2, and the context retries. -/
theorem test_step_illegal : (match step (fetches 0x1c00000000000080) with
    | .next s => (s.ctx 0).iss.freeze == some ⟨2, 2, true, 0⟩ && (s.ctx 0).iss.pc == 0x10000
    | _ => false) = true := by decide +kernel
/-- R130: addition wraps. -/
theorem test_sadd_wraps : last (exec (.sadd ⟨3, 1, true, 0, 5⟩) (scalars (-2) 0)) = some (1, 3) := by decide +kernel
/-- R130: the high half of a signed and of an unsigned product. -/
theorem test_smulh : last (exec (.smulh ⟨3, 1, false, 2, 0⟩) (scalars (-1) 2)) = some (3, 2 ^ 64 - 1) ∧ last (exec (.smulhn ⟨3, 1, false, 2, 0⟩) (scalars (-1) 2)) = some (3, 1) := by decide +kernel
/-- R131, R145: the least number by -1, and divisor 0. -/
theorem test_sdiv_corners : last (exec (.sdiv ⟨3, 1, false, 2, 0⟩) (scalars (2 ^ 63) (-1))) = some (12, 2 ^ 63) ∧ last (exec (.srem ⟨3, 1, false, 2, 0⟩) (scalars (2 ^ 63) (-1))) = some (12, 0) ∧
    last (exec (.sdiv ⟨3, 1, false, 2, 0⟩) (scalars 7 0)) = some (12, 2 ^ 64 - 1) ∧ last (exec (.srem ⟨3, 1, false, 2, 0⟩) (scalars (-7) 2)) = some (12, 2 ^ 64 - 1) := by decide +kernel
/-- R132: amounts of 64 and more. -/
theorem test_shifts : last (exec (.ssra ⟨3, 1, false, 2, 0⟩) (scalars (2 ^ 63) 64)) = some (1, 2 ^ 64 - 1) ∧ last (exec (.sshl ⟨3, 1, false, 2, 0⟩) (scalars 1 64)) = some (1, 0) ∧
    last (exec (.srot ⟨3, 1, false, 2, 0⟩) (scalars (2 ^ 63) 65)) = some (1, 1) := by decide +kernel
/-- R145: leading and trailing zeros of 0. -/
theorem test_counts : last (exec (.sclz ⟨3, 1, false, 0, 0⟩) (scalars 0 0)) = some (1, 64) ∧ last (exec (.sctz ⟨3, 1, false, 0, 0⟩) (scalars 8 0)) = some (1, 3) := by decide +kernel
/-- R137: the call of the example at 0x1000 goes to 0x2000 and lands 0x1030 at tick 1. -/
theorem test_call : (((got (exec (.call 62 512) { withCtx placed with cur := { Cur.reset with pc := 0x1000, link := 0x1030 } })).ctx 0).iss.target = some 0x2000) ∧
    last (exec (.call 62 512) { withCtx placed with cur := { Cur.reset with pc := 0x1000, link := 0x1030 } }) = some (1, 0x1030) := by decide +kernel
/-- R142: the first rotating register by base 0, 1 and 127; others do not rotate. -/
theorem test_rotation : physical 0 384 = 384 ∧ physical 1 384 = 511 ∧ physical 127 385 = 386 ∧ physical 9 383 = 383 ∧ physical 9 512 = 512 := by decide
/-- R98: the table of products quantised to f4 (the flags of the first two as R90 defines uf, log 80). -/
theorem test_quantise_f4 : [0x3e800000, 0x3f400000, 0x40200000, 0x40600000, 0x40a00000, 0x40b00000, 0x40e00000, 0xc0200000].map (fun x => convert .f4 true false (decodeNum .f32 x)) =
    [(0x0, flUf ||| flIx), (0x2, flUf ||| flIx), (0x4, flIx), (0x6, flIx), (0x6, flIx), (0x7, flIx), (0x7, flSat ||| flIx), (0xc, flIx)] := by decide +kernel
/-- R99, R100: what lo keeps: after four beats, the readout to f32 and to bf16. -/
theorem test_lo_keeps : [1, 2, 3, 4].foldl (fun p _ => addTo p 0x3f800000) (0x4b800000, 0) = (0x4b800000, 0x40800000) ∧ readoutPair .f32 none (0x4b800000, 0x40800000) = 0x4b800002 ∧
    readoutPair .bf16 none (0x4b800000, 0x40800000) = 0x4b80 := by decide +kernel
/-- R90, R150: exact and special values of the functions: 1/4, the root of 1/4, 2^3, log2 of 8, of -1 and of +0. -/
theorem test_functions : fRcp .f32 0x40800000 = (0x3e800000, 0) ∧ fRsqrt .f32 0x40800000 = (0x3f000000, 0) ∧ fExp2 .f32 0x40400000 = (0x41000000, 0) ∧ fLog2 .f32 0x41000000 = (0x40400000, 0) ∧
    fLog2 .f32 0xbf800000 = (0x7fc00000, flIv) ∧ fLog2 .f32 0 = (0xff800000, flDz) := by decide +kernel
/-- R89, R166: beyond the largest number of f8e4, and -0. -/
theorem test_f8e4 : convert .f8e4 false false (decodeNum .f32 0x44000000) = (0x7e, flSat ||| flIx) ∧ convert .f8e4 false false (decodeNum .f32 0x80000000) = (0x80, 0) := by decide +kernel
/-- R160, R161: the sum, the greatest and the ranking of lanes 1, 2, 0, ... -/
theorem test_reductions : last (exec (.vredsum ⟨2, 0, 0, 0, 0, false, 6, 0⟩) lanes) = some (6, 3) ∧ last (exec (.vredmax ⟨2, 0, 0, 0, 0, false, 6, 0⟩) lanes) = some (6, 2) ∧
    last (exec (.vtopk ⟨2, 0, 0, 3, 0, false, 6, 0⟩) lanes) = some (8, 2 * 2 ^ 64 + 1) := by decide +kernel
/-- R62: the element (700, 260) of the example: tile 13, offset 572. -/
theorem test_locate : locate (BitVec.ofNat 512 (packN [(17, 1), (21, 2), (64, 1000), (96, 300), (128, 1), (160, 1), (192, 1), (224, 1), (256, 7), (261, 8), (289, 1), (292, 2), (295, 3), (298, 4), (301, 5),
    (323, 0x800000)])) [700, 260, 0, 0, 0, 0] = (13, 572) := by decide +kernel
/-- R65: the entry of the example: valid, role O, owner 3, frame 0x1a2, floor 0. -/
theorem test_entry : eV 0xe000c00006880000 = true ∧ eRole 0xe000c00006880000 = 3 ∧ eOwner 0xe000c00006880000 = 3 ∧ eFrame 0xe000c00006880000 = 0x1a2 ∧ eFloor 0xe000c00006880000 = 0 := by decide
/-- R239: three arrivals at a barrier of two in phase 5. -/
theorem test_barrier : let b (p a v : Nat) : BitVec 128 := BitVec.ofNat 128 (packN [(96, 2), (64, a), (16, v), (0, p)])
    (barrier (b 5 0 0) 5).1 = b 5 1 0 ∧ (barrier (b 5 0 0) 5).2.1 = 0x100050000 ∧ (barrier (b 5 1 0) 5).1 = b 6 0 0 ∧ (barrier (b 5 1 0) 5).2.1 = 0x60001 ∧
    (barrier (b 6 0 0) 5).1 = b 6 0 1 ∧ (barrier (b 6 0 0) 5).2.1 = 0x60002 := by decide +kernel
/-- R118, R170: the example of a shared row: a store at tick 0 is not seen at ticks 0 and 1, and is from tick 2 on. -/
theorem test_own_store : let c : Core := { Core.reset with rows := [(300, 10)], log := [⟨0, 0, 300, 11, allOnes, 0, .store⟩] }
    c.seen 0 0 0 300 = 10 ∧ c.seen 0 1 0 300 = 10 ∧ c.seen 0 2 1 300 = 11 ∧ c.seen 1 9 8 300 = 10 := by decide +kernel
/-- R181, R200: a `wsend` of one row writes its 32 elements of 32 bits, each read out from its pair. -/
theorem test_wsend : (let r := { MRun.idle with ma := [(0, 40)] }
    let s := withCtx { placed with matrix := { tile := [(5 * 32 + 31, 0x4b80000040800000)], queue := [{ MEntry.idle with op := .mcall 7 false false none }], run := some r } }
    laneN ((got (exec (.wsend false 0 false 0 5 0) s)).here.row 40) 32 31) = 0x4b800002 := by decide +kernel
/-- R139: a word that the loop buffer holds is taken from there, whatever memory holds. -/
theorem test_loop_buffer : (fetches 0x0400000000000080).fetchGroup 0 [(0x10000, 0x0800000000000080)] 0 8 0x10000 = ([⟨0x10000, 0x0800000000000080, []⟩], none) ∧
    (fetches 0x0400000000000080).fetchGroup 0 [] 0 8 0x10000 = ([⟨0x10000, 0x0400000000000080, []⟩], none) := by decide +kernel
/-- R264, FIPS 180-4: the digest of "abc". -/
theorem test_sha256 : sha256 [0x61, 0x62, 0x63] = (bytesLE 32 0xad1500f261ff10b49c7a1796a36103b02322ae5dde404141eacf018fbf1678ba) := by decide +kernel
/-- R323, FIPS 180-4: the first bytes of the digest of "abc". -/
theorem test_sha384 : (sha384 [0x61, 0x62, 0x63]).take 8 = [0xcb, 0x00, 0x75, 0x3f, 0x45, 0xa3, 0x5e, 0x8b] := by decide +kernel
/-- R53: a row of a fill after an `lfence` is visible together with the stores from before it. -/
theorem test_fill_order : let c : Core := { Core.reset with log := [⟨0, 0, 300, 11, allOnes, 0, .store⟩], epoch := [(0, 1)] }
    let d := c.landRow ⟨0, 5, 301, 12, allOnes, 1, .fill⟩
    d.row 300 = 11 ∧ d.row 301 = 12 := by decide +kernel
end Sys2Proof.Machine
end

namespace Sys2Proof.Machine
open Sys2Proof

/-! `vtsum` (R10, R99, R151). -/

/-- Two vector results of one operation are two results that land together. -/
theorem State.resultV_resultV (s : State) (n m L M : Nat) (v w a b : Row) (f g : BitVec 6) :
    (s.resultV n L v a f).resultV m M w b g =
      s.lands [s.lander (vLat n L) (s.vDest n) v a f, s.lander (vLat m M) (s.vDest m) w b g] := by
  rw [State.resultV_eq, State.resultV_eq, State.lands_lands]
  simp [State.lander, State.vDest]
/-- R99: whether an accumulation step adds to hi alone. -/
def accStops (hi x : Nat) : Bool :=
  (decodeNum .f32 x).isNan || (decodeNum .f32 hi).isNan || !(decodeNum .f32 (fAdd .f32 hi x).1).isFin
/-- R10, R99: an accumulation step rounds the sum into hi; lo is cleared, or gathers the error of `twosum`. -/
theorem accStep_eq (hi lo x : Nat) : accStep hi lo x = ((fAdd .f32 hi x).1,
    if accStops hi x then (0, (fAdd .f32 hi x).2) else ((twosum hi lo x).2.1, (twosum hi lo x).2.2 &&& (flIx ||| flUf))) := by
  cases h : accStops hi x
  · exact if_neg (ne_true_of_eq_false h)
  · exact if_pos h
theorem accStep_hi (hi lo x : Nat) : (accStep hi lo x).1 = (fAdd .f32 hi x).1 := by rw [accStep_eq]
theorem accStep_lo (hi lo x : Nat) : (accStep hi lo x).2.1 = if accStops hi x then 0 else (twosum hi lo x).2.1 := by
  rw [accStep_eq, apply_ite Prod.fst]
theorem accStep_flags (hi lo x : Nat) : (accStep hi lo x).2.2 =
    if accStops hi x then (fAdd .f32 hi x).2 else (twosum hi lo x).2.2 &&& (flIx ||| flUf) := by
  rw [accStep_eq, apply_ite Prod.snd]
/-- Lanes without flags have none together. -/
theorem flagsOver_zero (act : Nat → Bool) (f : Nat → Nat) (n : Nat) : flagsOver act (fun j => (f j, 0)) n = 0 := by
  unfold flagsOver
  induction n with
  | zero => rfl
  | succ n ih => rw [List.range_succ, List.foldl_append, ih]; simp
/-- The flags of lanes do not depend on their values. -/
theorem flagsOver_congr {act : Nat → Bool} {f g : Nat → Nat × FFlags} (n : Nat) (h : ∀ j, (f j).2 = (g j).2) :
    flagsOver act f n = flagsOver act g n := by
  simp only [flagsOver, h]
/-- What lanes hold does not depend on their flags. -/
theorem LaneResult.congr {r : Result} {w n : Nat} {act : Nat → Bool} {f g : Nat → Nat × FFlags} (h : LaneResult r w n act f)
    (hfg : ∀ j, (f j).1 = (g j).1) : LaneResult r w n act g := by
  simpa only [LaneResult, hfg] using h
/-- The result of a lane map of f32 lanes. -/
def State.lander32 (s : State) (d : BitVec 10) (act : Nat → Bool) (g : Nat → Nat × FFlags) : Result :=
  let r := mapLanes 32 (fun j => if act j then some (g j) else none) 32 0
  s.lander (vLat d.toNat 5) (s.vDest d.toNat) (BitVec.ofNat 1024 r.val) (BitVec.ofNat 1024 r.mask) r.flags
theorem State.lander32_lanes (s : State) (d : BitVec 10) (act : Nat → Bool) (g : Nat → Nat × FFlags) :
    LaneResult (s.lander32 d act g) 32 32 act g := mapLanes_result _ 32 32 act g (by decide) rfl rfl
theorem State.lander32_flags (s : State) (d : BitVec 10) (act : Nat → Bool) (g : Nat → Nat × FFlags) :
    (s.lander32 d act g).flags = flagsOver act g 32 := mapLanes_flagsOver 32 act g 32
/-- `vtsum` lands the two halves of an accumulation step of every active lane. -/
theorem exec_vtsum (s : State) (o : VecOp) :
    let act := active o.ke (s.k o.km) 32
    let step (j : Nat) := accStep (laneN (s.v o.d) 32 j) (laneN (s.v (o.d + 1)) 32 j) (laneN (s.v o.a) 32 j)
    exec (.vtsum o) s = .next (s.lands [s.lander32 o.d act fun j => ((step j).1, (step j).2.2),
      s.lander32 (o.d + 1) act fun j => ((step j).2.1, 0)]) :=
  congrArg Host.Outcome.next (State.resultV_resultV ..)

/-- Settles O26: `vtsum` lands the two halves of an accumulation step. -/
theorem pairSums : Obligations.PairSums := by
  intro s o
  refine ⟨_, _, exec_vtsum s o, rfl, rfl, rfl, rfl, ?_, ?_, ?_, ?_⟩
  · rw [State.lander32_flags, flagsOver_zero]
  · exact LaneResult.congr (State.lander32_lanes _ _ _ _) fun j => accStep_hi ..
  · exact LaneResult.congr (State.lander32_lanes _ _ _ _) fun j => accStep_lo ..
  · exact (State.lander32_flags ..).trans (flagsOver_congr 32 fun j => accStep_flags ..)
end Sys2Proof.Machine

namespace Sys2Proof.Machine
open Sys2Proof

/-! Exact values as rationals (R84, R88, R101). -/

/-- The integer of a sign and a magnitude. -/
def signedNat (s : Bool) (m : Nat) : Int := if s then -m else m
/-- The rational power of two of an exponent. -/
def twoTo (e : Int) : Rat := 2 ^ e
/-- The rational that a finite number stands for. -/
def Num.rat : Num → Rat
  | .fin s m e => (signedNat s m : Rat) * twoTo e
  | _ => 0

theorem signedNat_mul (s t : Bool) (m n : Nat) : signedNat s m * signedNat t n = signedNat (s != t) (m * n) := by
  cases s <;> cases t <;> simp [signedNat, Int.neg_mul, Int.mul_neg]
theorem signedNat_mul_nat (s : Bool) (m n : Nat) : signedNat s (m * n) = signedNat s m * n := by
  cases s <;> simp [signedNat, Int.neg_mul]
theorem signedNat_natAbs (v : Int) : signedNat (v < 0) v.natAbs = v := by
  by_cases h : v < 0
  · rw [decide_eq_true h, signedNat, if_pos rfl]; omega
  · rw [decide_eq_false h, signedNat, if_neg Bool.false_ne_true]; omega
theorem dvd_signedNat {s : Bool} {m n : Nat} : (n : Int) ∣ signedNat s m ↔ n ∣ m := by
  cases s <;> simp [signedNat, Int.natCast_dvd_natCast]

theorem twoTo_pos (e : Int) : 0 < twoTo e := Rat.zpow_pos (by decide)
theorem twoTo_add (e g : Int) : twoTo (e + g) = twoTo e * twoTo g := Rat.zpow_add (by decide) e g
theorem twoTo_natCast (n : Nat) : twoTo n = (((2 ^ n : Nat) : Int) : Rat) := by
  rw [twoTo, Rat.zpow_natCast, Rat.intCast_natCast, Rat.natCast_pow]
  rfl
/-- A power of two splits at a lower exponent. -/
theorem twoTo_of_le {e g : Int} (h : e ≤ g) : twoTo g = (((2 ^ (g - e).toNat : Nat) : Int) : Rat) * twoTo e := by
  rw [← twoTo_natCast, ← twoTo_add]
  congr 1
  omega
theorem mul_twoTo_inj {a b : Rat} {e : Int} : a * twoTo e = b * twoTo e ↔ a = b := by
  have h : twoTo e ≠ 0 := Rat.ne_of_gt (twoTo_pos e)
  refine ⟨fun hab => ?_, fun hab => by rw [hab]⟩
  rw [← Rat.mul_div_cancel (a := a) h, hab, Rat.mul_div_cancel h]
theorem intCast_mul_twoTo_eq_zero {i e : Int} : (i : Rat) * twoTo e = 0 ↔ i = 0 := by
  rw [← Rat.zero_mul (twoTo e), mul_twoTo_inj, Rat.intCast_eq_zero_iff]
theorem intCast_mul_twoTo_neg {i e : Int} : (i : Rat) * twoTo e < 0 ↔ i < 0 := by
  rw [Rat.mul_neg_iff_of_pos_right (twoTo_pos e), Rat.intCast_neg_iff]
theorem intCast_mul_twoTo_pos {i e : Int} : 0 < (i : Rat) * twoTo e ↔ 0 < i := by
  rw [Rat.mul_pos_iff_of_pos_right (twoTo_pos e), Rat.intCast_pos]
theorem intCast_mul_twoTo_mul (i j e g : Int) : ((i * j : Int) : Rat) * twoTo (e + g) = (i * twoTo e) * (j * twoTo g) := by
  rw [Rat.intCast_mul, twoTo_add, Rat.mul_assoc, Rat.mul_assoc, ← Rat.mul_assoc _ (twoTo e), Rat.mul_comm _ (twoTo e), Rat.mul_assoc (twoTo e)]
/-- A finite number's rational has the sign of the number. -/
theorem Num.rat_sign (x : Num) : (x.isNeg = true → x.rat ≤ 0) ∧ (x.isNeg = false → 0 ≤ x.rat) := by
  cases x with
  | nan => exact ⟨fun _ => Rat.le_refl, fun _ => Rat.le_refl⟩
  | inf s => exact ⟨fun _ => Rat.le_refl, fun _ => Rat.le_refl⟩
  | fin s m e =>
    constructor
    · rintro (rfl : s = true)
      refine Rat.not_lt.mp fun h => ?_
      have : 0 < signedNat true m := intCast_mul_twoTo_pos.mp h
      rw [signedNat, if_pos rfl] at this
      omega
    · rintro (rfl : s = false)
      refine Rat.not_lt.mp fun h => ?_
      have : signedNat false m < 0 := intCast_mul_twoTo_neg.mp h
      rw [signedNat, if_neg Bool.false_ne_true] at this
      omega

/-- The units of a magnitude that n divides, and of one that it does not. -/
theorem signedNat_div_eq {s : Bool} {m n : Nat} {i : Int} (hn : 0 < n) :
    (if m % n = 0 then some (signedNat s (m / n)) else none) = some i ↔ signedNat s m = i * n := by
  have hn' : (n : Int) ≠ 0 := by omega
  split
  · next h =>
    obtain ⟨q, rfl⟩ := Nat.dvd_of_mod_eq_zero h
    rw [Nat.mul_div_cancel_left q hn, Nat.mul_comm, signedNat_mul_nat, Option.some_inj, Int.mul_eq_mul_right_iff hn']
  · next h =>
    exact ⟨nofun, fun e => absurd (Nat.mod_eq_zero_of_dvd (dvd_signedNat.mp ⟨i, e.trans (Int.mul_comm ..)⟩)) h⟩
/-- A number is i units of 2^e when it is finite and its rational is i x 2^e. -/
theorem Num.units_eq_some {z : Num} {e i : Int} : z.units e = some i ↔ z.isFin = true ∧ z.rat = i * twoTo e := by
  cases z with
  | nan => exact ⟨nofun, fun h => nomatch h.1⟩
  | inf s => exact ⟨nofun, fun h => nomatch h.1⟩
  | fin s m g =>
    rw [show (Num.fin s m g).isFin = true ↔ True from ⟨fun _ => trivial, fun _ => rfl⟩, true_and, Num.rat]
    by_cases h : e ≤ g
    · have key : (Num.fin s m g).units e = some (signedNat s (m * 2 ^ (g - e).toNat)) := if_pos h
      rw [key, signedNat_mul_nat, Option.some_inj, twoTo_of_le h, ← Rat.mul_assoc, mul_twoTo_inj, ← Rat.intCast_mul, Rat.intCast_inj]
    · have key : (Num.fin s m g).units e = if m % 2 ^ (e - g).toNat = 0 then some (signedNat s (m / 2 ^ (e - g).toNat)) else none := if_neg h
      rw [key, signedNat_div_eq (Nat.two_pow_pos _), twoTo_of_le (show g ≤ e by omega), ← Rat.mul_assoc, mul_twoTo_inj, ← Rat.intCast_mul,
        Rat.intCast_inj]

/-- A finite number is written with a sign, a magnitude and an exponent. -/
theorem Num.exists_fin {x : Num} (h : x.isFin = true) : ∃ s m e, x = .fin s m e := by
  cases x with
  | fin s m e => exact ⟨s, m, e, rfl⟩
  | _ => cases h
theorem Num.mul_fin {x y : Num} (hx : x.isFin = true) (hy : y.isFin = true) :
    (x.mul y).isFin = true ∧ (x.mul y).rat = x.rat * y.rat ∧ (x.mul y).isNeg = (x.isNeg != y.isNeg) := by
  obtain ⟨s, m, e, rfl⟩ := Num.exists_fin hx
  obtain ⟨t, n, f, rfl⟩ := Num.exists_fin hy
  refine ⟨rfl, ?_, rfl⟩
  rw [Num.mul, Num.rat, Num.rat, Num.rat, ← signedNat_mul, intCast_mul_twoTo_mul]
/-- A number at a lower exponent stands for the same rational. -/
theorem Num.scaled_rat (s : Bool) (m : Nat) {e e0 : Int} (h : e0 ≤ e) : (Num.scaled s m e e0 : Rat) * twoTo e0 = (Num.fin s m e).rat := by
  have : Num.scaled s m e e0 = signedNat s m * (2 ^ (e - e0).toNat : Nat) := by
    rw [← signedNat_mul_nat, ← Nat.shiftLeft_eq]
    rfl
  rw [this, Num.rat, twoTo_of_le h, Rat.intCast_mul, Rat.mul_assoc]
/-- v units of 2^e0, where a zero has a given sign: what an exact sum answers. -/
def Num.ofUnits (zeroNeg : Bool) (v e0 : Int) : Num := if v = 0 then .fin zeroNeg 0 0 else .fin (v < 0) v.natAbs e0
theorem Num.ofUnits_fin (zeroNeg : Bool) (v e0 : Int) : (Num.ofUnits zeroNeg v e0).isFin = true := by
  unfold Num.ofUnits
  split <;> rfl
theorem Num.ofUnits_rat (zeroNeg : Bool) (v e0 : Int) : (Num.ofUnits zeroNeg v e0).rat = v * twoTo e0 := by
  unfold Num.ofUnits
  split
  · next h => rw [h, Rat.intCast_zero, Rat.zero_mul, Num.rat]; cases zeroNeg <;> exact Rat.zero_mul _
  · rw [Num.rat, signedNat_natAbs]
theorem Num.ofUnits_isNeg (zeroNeg : Bool) (v e0 : Int) :
    (Num.ofUnits zeroNeg v e0).isNeg = if v = 0 then zeroNeg else decide (v < 0) := by
  unfold Num.ofUnits
  split <;> rfl
/-- The exact sum of two finite numbers: a zero is negative when both are, another sum has its own sign (R101). -/
theorem Num.add_fin {x y : Num} (hx : x.isFin = true) (hy : y.isFin = true) :
    (x.add y).isFin = true ∧ (x.add y).rat = x.rat + y.rat ∧
      (x.add y).isNeg = if (x.add y).rat = 0 then x.isNeg && y.isNeg else decide ((x.add y).rat < 0) := by
  obtain ⟨s, m, e, rfl⟩ := Num.exists_fin hx
  obtain ⟨t, n, f, rfl⟩ := Num.exists_fin hy
  have sum : (Num.fin s m e).add (.fin t n f) =
    .ofUnits (s && t) (Num.scaled s m e (min e f) + Num.scaled t n f (min e f)) (min e f) := rfl
  rw [sum, Num.ofUnits_rat, Num.ofUnits_isNeg]
  refine ⟨Num.ofUnits_fin .., ?_, ?_⟩
  · rw [← Num.scaled_rat s m (Int.min_le_left e f), ← Num.scaled_rat t n (Int.min_le_right e f)]
    rw [Rat.intCast_add, Rat.add_mul]
  · simp only [intCast_mul_twoTo_eq_zero, intCast_mul_twoTo_neg, Num.isNeg]
/-- A sum of numbers with a negative sign is not positive. -/
theorem sum_rat_nonpos {l : List Num} (h : ∀ y ∈ l, y.isNeg = true) : (l.map Num.rat).sum ≤ 0 := by
  induction l with
  | nil => exact Rat.le_refl
  | cons y l ih =>
    rw [List.map_cons, List.sum_cons]
    exact Rat.le_trans (Rat.add_le_add_left.mpr (ih fun z hz => h z (List.mem_cons_of_mem y hz)))
      ((Rat.add_zero _).symm ▸ (y.rat_sign.1 (h y List.mem_cons_self)))
/-- Finite terms added one after another: the sum of their rationals; a zero is negative when every term is (R101). -/
theorem foldl_add_fin (l : List Num) : ∀ x : Num, x.isFin = true → (∀ y ∈ l, y.isFin = true) →
    (l.foldl Num.add x).isFin = true ∧ (l.foldl Num.add x).rat = x.rat + (l.map Num.rat).sum ∧
      ((l.foldl Num.add x).rat = 0 → (l.foldl Num.add x).isNeg = (x.isNeg && l.all Num.isNeg)) := by
  induction l with
  | nil => exact fun x hx _ => ⟨hx, (Rat.add_zero _).symm, fun _ => (Bool.and_true _).symm⟩
  | cons y l ih =>
    intro x hx hl
    obtain ⟨af, ar, an⟩ := Num.add_fin hx (hl y (by simp))
    obtain ⟨h1, h2, h3⟩ := ih (x.add y) af fun z hz => hl z (by simp [hz])
    simp only [List.foldl_cons, List.map_cons, List.sum_cons, List.all_cons]
    refine ⟨h1, by rw [h2, ar, Rat.add_assoc], fun h0 => ?_⟩
    rw [h3 h0, ← Bool.and_assoc]
    cases hn : l.all Num.isNeg with
    | false => simp
    | true =>
      have low : (l.map Num.rat).sum ≤ 0 := sum_rat_nonpos fun z hz => List.all_eq_true.mp hn z hz
      have high : 0 ≤ (x.add y).rat := by
        have h := (Rat.add_le_add_left (c := (x.add y).rat)).mpr low
        rwa [← h2, h0, Rat.add_zero] at h
      rw [an]
      split
      · rfl
      · next hne =>
        have both : (x.isNeg && y.isNeg) = false := Bool.eq_false_iff.mpr fun h => hne <| Rat.le_antisymm (by
          rw [Bool.and_eq_true] at h
          rw [ar, ← Rat.add_zero y.rat]
          exact sum_rat_nonpos (l := [x, y]) (by simp [h])) high
        rw [decide_eq_false (Rat.not_lt.mpr high), both]
/-- R101: the exact sum of finite terms; it is -0 only when every term is. -/
theorem sumExact_fin {l : List Num} (hne : l ≠ []) (hl : ∀ y ∈ l, y.isFin = true) :
    (sumExact l).isFin = true ∧ (sumExact l).rat = (l.map Num.rat).sum ∧ ((sumExact l).rat = 0 → (sumExact l).isNeg = l.all Num.isNeg) := by
  cases l with
  | nil => exact absurd rfl hne
  | cons x r => simpa [sumExact] using foldl_add_fin r x (hl x (by simp)) fun z hz => hl z (by simp [hz])
end Sys2Proof.Machine

namespace Sys2Proof.Machine
open Sys2Proof

/-! What a beat adds (R97, R99, R181). -/

/-- Products of two operands that are known in units, over an index range: finite, with these rationals and signs. -/
theorem Num.mul_units {p q : Num} {e g x y : Int} (hp : p.units e = some x) (hq : q.units g = some y) :
    (p.mul q).units (e + g) = some (x * y) ∧ (p.mul q).isNeg = (p.isNeg != q.isNeg) := by
  obtain ⟨pf, pr⟩ := Num.units_eq_some.mp hp
  obtain ⟨qf, qr⟩ := Num.units_eq_some.mp hq
  obtain ⟨mf, mr, mn⟩ := Num.mul_fin pf qf
  refine ⟨Num.units_eq_some.mpr ⟨mf, ?_⟩, mn⟩
  rw [mr, pr, qr, intCast_mul_twoTo_mul]
/-- A sum of multiples of a rational is the multiple by the sum. -/
theorem sum_intCast_mul (l : List Nat) (x : Nat → Int) (c : Rat) : (l.map fun k => (x k : Rat) * c).sum = ((l.map x).sum : Int) * c := by
  induction l with
  | nil => exact (Rat.zero_mul c).symm
  | cons k l ih => rw [List.map_cons, List.sum_cons, ih, List.map_cons, List.sum_cons, Rat.intCast_add, Rat.add_mul]
/-- The exact sum of terms in units of 2^e; it is -0 only when every term is (R101). -/
theorem sumExact_units {n : Nat} {t : Nat → Num} {x : Nat → Int} {e : Int} (hn : 0 < n) (h : ∀ k, k < n → (t k).units e = some (x k)) :
    (sumExact ((List.range n).map t)).units e = some ((List.range n).map x).sum ∧
      (((List.range n).map x).sum = 0 → (sumExact ((List.range n).map t)).isNeg = (List.range n).all fun k => (t k).isNeg) := by
  have hk (k : Nat) (hk : k ∈ List.range n) := Num.units_eq_some.mp (h k (List.mem_range.mp hk))
  obtain ⟨sf, sr, sn⟩ := sumExact_fin (l := (List.range n).map t) (by simp; omega) fun y hy => by
    obtain ⟨k, hm, rfl⟩ := List.mem_map.mp hy
    exact (hk k hm).1
  have rat : (sumExact ((List.range n).map t)).rat = (((List.range n).map x).sum : Int) * twoTo e := by
    rw [sr, List.map_map, ← sum_intCast_mul]
    exact congrArg List.sum (List.map_congr_left fun k hm => (hk k hm).2)
  refine ⟨Num.units_eq_some.mpr ⟨sf, rat⟩, fun h0 => ?_⟩
  rw [sn (by rw [rat, h0]; exact Rat.zero_mul _), List.all_map]
  rfl

/-- R99: a beat of products adds their exact sum, rounded once. -/
theorem beatValue_products (a b : Operand) (per gsz m n j : Nat) (h : (a.grouped && b.grouped) = false) :
    beatValue a b per gsz m n j = some (roundTo .f32 false
      (sumExact ((List.range per).map fun i => (a.val m (j * per + i)).mul (b.val n (j * per + i))))).1 := by
  simp [beatValue, h]
/-- R97: a beat that does not complete a group adds nothing. -/
theorem beatValue_within_group (a b : Operand) (per gsz m n j : Nat) (h : (a.grouped && b.grouped) = true) (hj : (j + 1) * per % gsz ≠ 0) :
    beatValue a b per gsz m n j = none := by
  simp [beatValue, h, hj]
/-- R97: the beat that completes a group adds its sum of integer products, times both scales, rounded once. -/
theorem beatValue_group (a b : Operand) (per gsz m n j : Nat) (h : (a.grouped && b.grouped) = true) (hj : (j + 1) * per % gsz = 0) :
    beatValue a b per gsz m n j = some (roundTo .f32 false (((Num.ofInt (groupSum a b m n gsz ((j + 1) * per - gsz))).mul
      (a.scale m ((j + 1) * per - gsz))).mul (b.scale n ((j + 1) * per - gsz)))).1 := by
  simp [beatValue, h, hj]
theorem groupSum_eq (a b : Operand) (m n c k : Nat) :
    groupSum a b m n c k = ((List.range c).map fun i => a.int m (k + i) * b.int n (k + i)).sum := by
  induction c generalizing k with
  | zero => rfl
  | succ c ih =>
    rw [groupSum, ih, List.range_succ_eq_map, List.map_cons, List.sum_cons, List.map_map]
    simp [Function.comp_def, Nat.add_assoc, Nat.add_comm 1]
theorem Num.ofInt_units (i : Int) : (Num.ofInt i).units 0 = some i :=
  Num.units_eq_some.mpr ⟨rfl, by rw [Num.ofInt, Num.rat, signedNat_natAbs]⟩
/-- What beat j leaves in a cell. -/
def addBeat (a b : Operand) (per gsz m n : Nat) (q : Nat × Nat) (j : Nat) : Nat × Nat :=
  match beatValue a b per gsz m n j with
  | some x => addTo q x
  | none => q
/-- R181: the beats of a cell from beat j on are taken one after another. -/
theorem cellBeats_eq_foldl (a b : Operand) (per gsz m n c j : Nat) (p : Nat × Nat) :
    cellBeats a b per gsz m n c j p = (List.range' j c).foldl (addBeat a b per gsz m n) p := by
  induction c generalizing j p with
  | zero => rfl
  | succ c ih => exact ih (j + 1) (addBeat a b per gsz m n p j)

/-! Adding to a pair (R10, R99). -/

theorem Num.isNan_iff (x : Num) : x.isNan = true ↔ x = .nan := by cases x <;> simp [Num.isNan]
theorem fAdd_fst (x y : Nat) : (fAdd .f32 x y).1 = (roundTo .f32 false ((decodeNum .f32 x).add (decodeNum .f32 y))).1 := by
  simp only [fAdd, result]
  split
  · next h => rw [h]; rfl
  · rfl
theorem fSub_fst (x y : Nat) : (fSub .f32 x y).1 = (roundTo .f32 false ((decodeNum .f32 x).add (decodeNum .f32 y).neg)).1 := by
  simp only [fSub, result, Num.sub]
  split
  · next h => rw [h]; rfl
  · rfl
/-- R99: a value is added to hi alone exactly when one of them is NaN or hi becomes infinite. -/
theorem accStops_iff (hi x : Nat) : accStops hi x = true ↔
    decodeNum .f32 x = .nan ∨ decodeNum .f32 hi = .nan ∨ (decodeNum .f32 (fAdd .f32 hi x).1).isFin = false := by
  simp [accStops, Num.isNan_iff, or_assoc]
theorem addTo_eq (hi lo x : Nat) : addTo (hi, lo) x = ((fAdd .f32 hi x).1, if accStops hi x then 0 else (twosum hi lo x).2.1) := by
  rw [← accStep_lo, ← accStep_hi]
  rfl

end Sys2Proof.Machine

namespace Sys2Proof.Machine
open Sys2Proof

/-! Fields of a word (R3). -/

theorem testBit_fldN {n : Nat} (w : BitVec n) (off len i : Nat) : (fldN w off len).testBit i = (decide (i < len) && w.getLsbD (off + i)) := by
  simp [fldN, Nat.testBit_mod_two_pow, Nat.testBit_shiftRight, BitVec.getLsbD]
theorem getLsbD_setFld {n : Nat} (w : BitVec n) (off len v i : Nat) (h : off + len ≤ n) : (setFld w off len v).getLsbD i =
    if off ≤ i ∧ i < off + len then v.testBit (i - off) else w.getLsbD i := by
  simp only [setFld, BitVec.getLsbD_or, BitVec.getLsbD_and, BitVec.getLsbD_not, BitVec.getLsbD_ofNat, Nat.testBit_shiftLeft,
    Nat.testBit_two_pow_sub_one, Nat.testBit_mod_two_pow]
  by_cases hi : i < n
  · by_cases h1 : off ≤ i
    · by_cases h2 : i < off + len
      · simp [hi, h1, h2, show i - off < len by omega]
      · simp [hi, h1, h2, show ¬i - off < len by omega]
    · simp [hi, h1]
  · have : w.getLsbD i = false := BitVec.getLsbD_of_ge w i (by omega)
    simp [hi, this, show ¬i < off + len by omega]
/-- A field reads as what was written to it. -/
theorem fldN_setFld_same {n : Nat} (w : BitVec n) (off len v : Nat) (h : off + len ≤ n) : fldN (setFld w off len v) off len = v % 2 ^ len := by
  apply Nat.eq_of_testBit_eq
  intro i
  rw [testBit_fldN, getLsbD_setFld _ _ _ _ _ h, Nat.testBit_mod_two_pow]
  by_cases hi : i < len <;> simp [hi]
/-- Writing a field leaves every other one. -/
theorem fldN_setFld_other {n : Nat} (w : BitVec n) (off len v off' len' : Nat) (h : off + len ≤ n) (d : off' + len' ≤ off ∨ off + len ≤ off') :
    fldN (setFld w off len v) off' len' = fldN w off' len' := by
  apply Nat.eq_of_testBit_eq
  intro i
  rw [testBit_fldN, testBit_fldN, getLsbD_setFld _ _ _ _ _ h]
  by_cases hi : i < len'
  · rw [if_neg (by omega)]
  · simp [hi]
theorem fldN_lt {n : Nat} (w : BitVec n) (off len : Nat) : fldN w off len < 2 ^ len := Nat.mod_lt _ (Nat.two_pow_pos _)

/-! Rings (R56). -/

theorem Regs.ringOf_setRing (g : Regs) (b n : Nat) (r : Word64) : (g.setRing b r).ringOf n = if n = b then r else g.ringOf n :=
  Sp.get_put 0 g.ring b n r
/-- The rows by which a pop of the oldest block of a list advances a ring. -/
def poppedRows (on : Bool) (l : List Block) (n : Nat) : Nat :=
  match on, l with
  | true, b :: _ => if b.ring = n then b.rows else 0
  | _, _ => 0
/-- What a pop of the oldest block leaves of a ring: its head advances by the block's rows, tail and reservation stay. -/
theorem popBlock_spec (on : Bool) (l : List Block) (g : Regs) :
    (popBlock on l g).1 = (if on then l.drop 1 else l) ∧ (popBlock on l g).2 = { g with ring := (popBlock on l g).2.ring } ∧
      (on = false → (popBlock on l g).2 = g) ∧ ∀ n, let r := (popBlock on l g).2.ringOf n
        ringHead r = (ringHead (g.ringOf n) + poppedRows on l n) % 4096 ∧ ringTail r = ringTail (g.ringOf n) ∧ ringResv r = ringResv (g.ringOf n) := by
  have stay (n : Nat) : ringHead (g.ringOf n) = ringHead (g.ringOf n) % 4096 := (Nat.mod_eq_of_lt (fldN_lt (g.ringOf n) 12 12)).symm
  cases on with
  | false => exact ⟨by simp [popBlock], rfl, fun _ => rfl, fun n => ⟨stay n, rfl, rfl⟩⟩
  | true =>
    cases l with
    | nil => exact ⟨rfl, rfl, nofun, fun n => ⟨stay n, rfl, rfl⟩⟩
    | cons b l =>
      refine ⟨rfl, rfl, nofun, fun n => ?_⟩
      simp only [popBlock, poppedRows, Regs.ringOf_setRing]
      by_cases h : n = b.ring
      · subst h
        simp only [if_true, ringHead, ringTail, ringResv]
        rw [fldN_setFld_same _ _ _ _ (by decide), fldN_setFld_other _ _ _ _ _ _ (by decide) (by decide),
          fldN_setFld_other _ _ _ _ _ _ (by decide) (by decide)]
        exact ⟨Nat.mod_mod _ _, rfl, rfl⟩
      · rw [if_neg h, if_neg (Ne.symm h)]
        exact ⟨stay n, rfl, rfl⟩

/-! Rounded f32 codes (R83, R88). -/

theorem roundMag_f32_lt (neg : Bool) (m : Nat) (e : Int) (st : Bool) : (roundMag .f32 false neg m e st).1 < 2 ^ 32 := by
  have sgn : (if neg then 1 <<< 31 else 0) ≤ 2 ^ 31 := by cases neg <;> decide
  have key (mag : Nat) (fl fl' : FFlags) : (if decide (Fmt.f32.maxCode < mag) then ((if neg then 1 <<< 31 else 0) + Fmt.f32.infCode, fl)
      else ((if neg then 1 <<< 31 else 0) + mag, fl')).1 < 2 ^ 32 := by
    by_cases h : Fmt.f32.maxCode < mag
    · rw [if_pos (decide_eq_true h)]
      exact Nat.lt_of_le_of_lt (Nat.add_le_add_right sgn _) (by decide)
    · rw [if_neg (mt of_decide_eq_true h)]
      exact Nat.lt_of_le_of_lt (Nat.add_le_add sgn (Nat.not_lt.mp h)) (by decide)
  exact key ..
theorem roundTo_f32_lt (x : Num) : (roundTo .f32 false x).1 < 2 ^ 32 := by
  cases x with
  | nan => decide
  | inf s => cases s <;> decide
  | fin s m e =>
    simp only [roundTo]
    split
    · cases s <;> decide
    · exact roundMag_f32_lt s m e false

/-! Tiles. -/

/-- A pair holds f32 codes. -/
def IsPair (p : Nat × Nat) : Prop := p.1 < 2 ^ 32 ∧ p.2 < 2 ^ 32

theorem Matrix.isPair_pair (m : Matrix) (acc : Bool) (r c : Nat) : IsPair (m.pair acc r c) := ⟨fldN_lt _ 32 32, fldN_lt _ 0 32⟩
theorem fAdd_fst_lt (x y : Nat) : (fAdd .f32 x y).1 < 2 ^ 32 := by
  rw [fAdd_fst]
  exact roundTo_f32_lt _
theorem isPair_addTo (p : Nat × Nat) (x : Nat) : IsPair (addTo p x) := by
  rw [← Prod.eta p, addTo_eq]
  refine ⟨fAdd_fst_lt .., ?_⟩
  dsimp only
  split
  · decide
  · exact fAdd_fst_lt ..
theorem isPair_cellBeats (a b : Operand) (per gsz m n c j : Nat) (p : Nat × Nat) (h : IsPair p) : IsPair (cellBeats a b per gsz m n c j p) := by
  induction c generalizing j p with
  | zero => exact h
  | succ c ih =>
    rw [cellBeats]
    apply ih
    split
    · exact isPair_addTo ..
    · exact h
theorem tileKey_eq_iff {acc : Bool} {r c r' c' : Nat} : tileKey acc r c = tileKey acc r' c' ↔ r * 32 + c = r' * 32 + c' := by
  unfold tileKey
  omega
theorem tileKey_ne_not {acc : Bool} {r c r' c' : Nat} (hr : r < 32) (hr' : r' < 32) (hc : c < 32) (hc' : c' < 32) :
    tileKey (!acc) r c ≠ tileKey acc r' c' := by
  cases acc <;> simp [tileKey, b2n] <;> omega
theorem Matrix.pair_setPair_same (m : Matrix) (acc : Bool) (r c : Nat) (p : Nat × Nat) (h : IsPair p) : (m.setPair acc r c p.1 p.2).pair acc r c = p := by
  obtain ⟨h1, h2⟩ := h
  simp only [Matrix.pair, Matrix.setPair, Sp.get_put_same, fldN, pack, packN, BitVec.toNat_ofNat, Nat.shiftRight_eq_div_pow]
  ext <;> dsimp only <;> omega
theorem Matrix.pair_setPair_other (m : Matrix) {acc acc' : Bool} {r c r' c' : Nat} (hi lo : Nat) (h : tileKey acc' r' c' ≠ tileKey acc r c) :
    (m.setPair acc r c hi lo).pair acc' r' c' = m.pair acc' r' c' := by
  simp only [Matrix.pair, Matrix.setPair, Sp.get_put_other _ _ _ h]
/-- The recursion of a tile map. The definition is unfolded by hand: the kernel, given both calls, would compare their matrices first. -/
theorem Matrix.mapTile_succ (acc : Bool) (f : Nat → Nat → Nat × Nat → Nat × Nat) (n i : Nat) (m : Matrix) :
    let p := f (i / 32) (i % 32) (m.pair acc (i / 32) (i % 32))
    Matrix.mapTile acc f (n + 1) i m = Matrix.mapTile acc f n (i + 1) (m.setPair acc (i / 32) (i % 32) p.1 p.2) := by
  delta Matrix.mapTile
  rfl
/-- A tile map changes the elements in its range, each by the function. -/
theorem Matrix.pair_mapTile (acc : Bool) (f : Nat → Nat → Nat × Nat → Nat × Nat) (hf : ∀ r c p, IsPair p → IsPair (f r c p)) (n i : Nat) (m : Matrix)
    (hn : i + n ≤ 1024) (r c : Nat) (hr : r < 32) (hc : c < 32) :
    (Matrix.mapTile acc f n i m).pair acc r c = (if i ≤ r * 32 + c ∧ r * 32 + c < i + n then f r c (m.pair acc r c) else m.pair acc r c) ∧
      (Matrix.mapTile acc f n i m).pair (!acc) r c = m.pair (!acc) r c := by
  induction n generalizing i m with
  | zero => exact ⟨(if_neg (by omega)).symm, rfl⟩
  | succ n ih =>
    rw [Matrix.mapTile_succ]
    obtain ⟨h1, h2⟩ := ih (i + 1) (m.setPair acc (i / 32) (i % 32) (f (i / 32) (i % 32) (m.pair acc (i / 32) (i % 32))).1
      (f (i / 32) (i % 32) (m.pair acc (i / 32) (i % 32))).2) (by omega)
    refine ⟨h1.trans ?_, h2.trans (Matrix.pair_setPair_other _ _ _ (tileKey_ne_not hr (by omega) hc (by omega)))⟩
    by_cases hi : r * 32 + c = i
    · have er : i / 32 = r := by omega
      have ec : i % 32 = c := by omega
      rw [if_neg (by omega), if_pos (by omega), er, ec, Matrix.pair_setPair_same _ _ _ _ _ (hf _ _ _ (Matrix.isPair_pair ..))]
    · rw [Matrix.pair_setPair_other _ _ _ fun e => hi ((tileKey_eq_iff.mp e).trans (by omega))]
      exact ite_congr (propext (by omega)) (fun _ => rfl) fun _ => rfl
/-- A map over the whole tile. -/
theorem Matrix.pair_mapTile_whole (m : Matrix) (acc : Bool) (f : Nat → Nat → Nat × Nat → Nat × Nat) (hf : ∀ r c p, IsPair p → IsPair (f r c p)) :
    (∀ r c, r < 32 → c < 32 → (Matrix.mapTile acc f 1024 0 m).pair acc r c = f r c (m.pair acc r c)) ∧
      KeepsTile (!acc) m (Matrix.mapTile acc f 1024 0 m) := by
  have h := fun r c hr hc => Matrix.pair_mapTile acc f hf 1024 0 m (by omega) r c hr hc
  exact ⟨fun r c hr hc => (h r c hr hc).1.trans (if_pos (by omega)), fun r c hr hc => (h r c hr hc).2⟩

end Sys2Proof.Machine

namespace Sys2Proof.Machine
open Sys2Proof

/-! Retirement of a K-block (R181, R196). -/

/-- R185, R199: a K-block's beats enter every element of its tile, and the other tile stays. -/
theorem Matrix.pair_addBlock (m : Matrix) (acc : Bool) (f : Feed) :
    (f.nan = false → ∀ i j, i < 32 → j < 32 → (m.addBlock acc f).pair acc i j =
      cellBeats (feedOperand f false) (feedOperand f true) (perBeat f.fmt) (gszOf f.fmt) i j 64 0 (m.pair acc i j)) ∧
    (f.nan = true → ∀ i j, i < 32 → j < 32 → (m.addBlock acc f).pair acc i j = addTo (m.pair acc i j) Fmt.f32.nan) ∧
    KeepsTile (!acc) m (m.addBlock acc f) := by
  unfold Matrix.addBlock
  cases hn : f.nan with
  | true =>
    obtain ⟨h1, h2⟩ := Matrix.pair_mapTile_whole m acc (fun _ _ p => nanBeats p) fun _ _ p _ => isPair_addTo p _
    rw [if_pos rfl]
    exact ⟨nofun, fun _ => h1, h2⟩
  | false =>
    obtain ⟨h1, h2⟩ := Matrix.pair_mapTile_whole m acc
      (fun r c p => cellBeats (feedOperand f false) (feedOperand f true) (perBeat f.fmt) (gszOf f.fmt) r c 64 0 p)
      fun _ _ p hp => isPair_cellBeats _ _ _ _ _ _ _ _ p hp
    rw [if_neg Bool.false_ne_true]
    exact ⟨fun _ => h1, nofun, h2⟩
/-- R196: each sampled row is as it was or as it is now. -/
theorem sampleRows_getElem? (n : Nat) (old new : List Row) (i : Nat) (ho : i < old.length) (hn : i < new.length) :
    (sampleRows n old new)[i]? = old[i]? ∨ (sampleRows n old new)[i]? = new[i]? := by
  induction old generalizing n new i with
  | nil => simp at ho
  | cons x xs ih =>
    cases new with
    | nil => simp at hn
    | cons y ys =>
      cases i with
      | zero => simp only [sampleRows, List.getElem?_cons_zero]; split <;> simp
      | succ i => simpa [sampleRows] using ih (n + 1) ys i (by simpa using ho) (by simpa using hn)
/-- The rows of a block as the array of a context reads them at a retirement. -/
def State.blockNow (s : State) (core slot : Nat) (b : Block) : List Row :=
  ({ s with cur := { s.cur with core, slot } } : State).ringRows b.ring b.first b.rows
/-- A feed with its rows as its retirement reads them. -/
def State.feedNow (s : State) (core slot : Nat) (f : Feed) : Feed :=
  { f with rowsA := sampleRows s.fresh f.rowsA (s.blockNow core slot f.a), rowsB := sampleRows (s.fresh + 256) f.rowsB (s.blockNow core slot f.b) }
/-- A context whose oldest K-block f has retired with those rows, the feeds fs left. -/
def Ctx.retire (c : Ctx) (r : MRun) (f : Feed) (fs : List Feed) : Ctx :=
  let a := popBlock f.popA r.blocksA c.regs
  let b := popBlock f.popB r.blocksB a.2
  { c with regs := b.2, matrix := { c.matrix.addBlock r.acc f with run := some { r with feeds := fs, blocksA := a.1, blocksB := b.1 } } }
/-- The state after a K-block has retired: its context's, and the counter of free values. -/
def State.kblockRetired (s : State) (core slot : Nat) (r : MRun) (f : Feed) (fs : List Feed) : State :=
  { s.setCtx (Machine.ck core slot) ((s.ctx (Machine.ck core slot)).retire r (s.feedNow core slot f) fs) with fresh := s.fresh + 512 }
theorem State.ctx_kblockRetired (s : State) (core slot : Nat) (r : MRun) (f : Feed) (fs : List Feed) :
    (s.kblockRetired core slot r f fs).ctx (Machine.ck core slot) = (s.ctx (Machine.ck core slot)).retire r (s.feedNow core slot f) fs :=
  State.ctx_setCtx_same ..
/-- A K-block that is due retires its context's oldest feed. -/
theorem exec_kblockRetire (s : State) (core slot : Nat) (r : MRun) (f : Feed) (fs : List Feed)
    (hr : (s.ctx (Machine.ck core slot)).matrix.run = some r) (hf : r.feeds = f :: fs) (hn : f.retire ≤ s.now) :
    exec (.kblockRetire core slot) s = .next (s.kblockRetired core slot r f fs) := by
  have hr' : ({ s with cur := { s.cur with core, slot } } : State).me.matrix.run = some r := hr
  show execKblockRetire core slot s = _
  simp only [execKblockRetire, hr', hf, hn, if_true]
  rfl
/-- R196: a row of a block that retires is as it was at its feed or as it is now. -/
theorem State.sampled_row (s : State) (core slot n : Nat) (old : List Row) (b : Block) (i : Nat) (ho : i < old.length) (hb : i < b.rows) :
    let c := s.ctx (Machine.ck core slot)
    (sampleRows n old (s.blockNow core slot b))[i]? = old[i]? ∨ (sampleRows n old (s.blockNow core slot b))[i]? =
      some ((s.core core).seen slot (c.iss.tick + 64) (c.iss.tick + 64) (ringRow (c.regs.ringOf b.ring) (b.first + i))) := by
  have hl : i < (s.blockNow core slot b).length := by simpa [State.blockNow, State.ringRows] using hb
  refine (sampleRows_getElem? n old _ i ho hl).imp id fun h => h.trans ?_
  simp only [State.blockNow, State.ringRows, List.getElem?_map, List.getElem?_range hb]
  rfl
/-- R56: the rings after a retirement: its pops advance heads only. -/
theorem Ctx.retire_rings (c : Ctx) (r : MRun) (f : Feed) (fs : List Feed) (n : Nat) :
    let g := (c.retire r f fs).regs.ringOf n
    ringHead g = (ringHead (c.regs.ringOf n) + poppedRows f.popA r.blocksA n + poppedRows f.popB r.blocksB n) % 4096 ∧
      ringTail g = ringTail (c.regs.ringOf n) ∧ ringResv g = ringResv (c.regs.ringOf n) := by
  obtain ⟨-, -, -, ha⟩ := popBlock_spec f.popA r.blocksA c.regs
  obtain ⟨-, -, -, hb⟩ := popBlock_spec f.popB r.blocksB (popBlock f.popA r.blocksA c.regs).2
  obtain ⟨h1, h2, h3⟩ := ha n
  obtain ⟨k1, k2, k3⟩ := hb n
  refine ⟨?_, k2.trans h2, k3.trans h3⟩
  rw [Ctx.retire, k1, h1, Nat.mod_add_mod]
theorem Ctx.retire_regs (c : Ctx) (r : MRun) (f : Feed) (fs : List Feed) :
    (f.popA = false → f.popB = false → (c.retire r f fs).regs = c.regs) ∧ (c.retire r f fs).regs = { c.regs with ring := (c.retire r f fs).regs.ring } := by
  obtain ⟨-, ea, sa, -⟩ := popBlock_spec f.popA r.blocksA c.regs
  obtain ⟨-, eb, sb, -⟩ := popBlock_spec f.popB r.blocksB (popBlock f.popA r.blocksA c.regs).2
  exact ⟨fun ha hb => (sb hb).trans (sa ha), by rw [Ctx.retire, eb, ea]⟩

/-- Settles O35, part by part: a beat's value, the beats of a cell, the addition to a pair, and the retirement, whose tile map runs over all 1024 elements. -/
theorem kBlocksRetireIntoTheTile : Obligations.KBlocksRetireIntoTheTile := by
  refine ⟨?products, ?groups, ?beats, ?pairs, ?retirement⟩
  case products =>
    intro a b per gsz m n j e g x y hxy hper hgr
    have term (k : Nat) (hk : k < per) := Num.mul_units (hxy k hk).1 (hxy k hk).2
    obtain ⟨hu, hs⟩ := sumExact_units hper fun k hk => (term k hk).1
    refine ⟨_, hu, fun h0 => (hs h0).trans ?_, beatValue_products a b per gsz m n j hgr⟩
    rw [Bool.eq_iff_iff, List.all_eq_true, List.all_eq_true]
    exact forall₂_congr fun k hk => by rw [(term k (List.mem_range.mp hk)).2]
  case groups =>
    intro a b per gsz m n j hgr
    refine ⟨beatValue_within_group a b per gsz m n j hgr, fun e g x y hj ha hb => ⟨_, ?_, beatValue_group a b per gsz m n j hgr hj⟩⟩
    have h := (Num.mul_units (Num.mul_units (Num.ofInt_units (groupSum a b m n gsz ((j + 1) * per - gsz))) ha).1 hb).1
    rw [Int.zero_add] at h
    rwa [← groupSum_eq]
  case beats =>
    intro a b per gsz m n c p
    rw [List.range_eq_range']
    exact cellBeats_eq_foldl a b per gsz m n c 0 p
  case pairs =>
    intro hi lo x
    simp only [← fAdd_fst, ← fSub_fst, ← accStops_iff, addTo_eq, twosum]
    exact ⟨fun h => by rw [if_pos h], fun h => by rw [if_neg h]⟩
  case retirement =>
    intro s core slot r f fs c rowsNow mixed popped hr hf hn
    obtain ⟨beats, nans, other⟩ := c.matrix.pair_addBlock r.acc (s.feedNow core slot f)
    obtain ⟨regs, ring⟩ := c.retire_regs r (s.feedNow core slot f) fs
    refine ⟨s.kblockRetired core slot r f fs, (s.feedNow core slot f).rowsA, (s.feedNow core slot f).rowsB, exec_kblockRetire s core slot r f fs hr hf hn,
      fun i ho hb => s.sampled_row core slot _ f.rowsA f.a i ho hb, fun i ho hb => s.sampled_row core slot _ f.rowsB f.b i ho hb, ?_⟩
    intro d g
    rw [show d = _ from s.ctx_kblockRetired core slot r f fs]
    exact ⟨beats, nans, other, ⟨_, rfl, rfl, (popBlock_spec ..).1, (popBlock_spec ..).1⟩, c.retire_rings r (s.feedNow core slot f) fs, regs,
      by rw [ring], by rw [ring], fun _ => rfl, fun _ => rfl⟩

end Sys2Proof.Machine

namespace Sys2Proof.Machine
open Sys2Proof

/-! The arithmetic clock (R316, R319). -/

/-- R316: a sag takes the clock one step down, not below 1.35 GHz, and a step up follows unless one is under way. -/
theorem exec_supplySag (s : State) : ∃ t, exec .supplySag s = .next t ∧ t.control.clock = max 4 (s.control.clock - 1) ∧ KeepsContexts s t ∧
    t.mem = s.mem ∧ (s.clockRises = false → t.pending = s.pending ++ [⟨s.now + 2700, .event .clockStepUp, []⟩]) := by
  refine ⟨_, rfl, ?_⟩
  cases h : s.clockRises with
  | true => exact ⟨rfl, fun _ => rfl, rfl, nofun⟩
  | false => exact ⟨rfl, fun _ => rfl, rfl, fun _ => rfl⟩
/-- R316: below the fastest clock a step up happens, and the next one follows a microsecond later. -/
theorem exec_clockStepUp (s : State) (h : s.control.clock < s.topClock) : ∃ t, exec .clockStepUp s = .next t ∧
    t.control.clock = s.control.clock + 1 ∧ KeepsContexts s t ∧ (t.control.clock < s.topClock → ⟨s.now + 2700, .event .clockStepUp, []⟩ ∈ t.pending) := by
  refine ⟨_, if_pos h, ?_⟩
  split
  · exact ⟨rfl, fun _ => rfl, fun _ => List.mem_append_right _ (List.mem_singleton_self _)⟩
  · next hn => exact ⟨rfl, fun _ => rfl, fun hc => absurd hc hn⟩

/-! Duties (R317). -/

/-- A gang's number tells whose value a write gives. -/
theorem State.gangAt_setGang (s : State) (p tree q v : Nat) (g : Gang) :
    (s.setGang p tree g).gangAt q v = if q = p ∧ v = tree then (s.gangAt p tree).map fun _ => g else s.gangAt q v := by
  unfold State.gangAt State.setGang
  by_cases hq : q = p
  · subst hq
    simp only [State.part_setPart_same, List.find?_map, true_and]
    have key : ((fun e : Nat × Gang => Decidable.decide (e.1 = v)) ∘ fun e => if e.1 = tree then (tree, g) else e) =
        fun e => Decidable.decide (e.1 = v) := by
      funext e
      simp only [Function.comp_apply]
      split
      · next he => rw [he]
      · rfl
    rw [key]
    cases hf : (s.part q).gangs.find? fun e => Decidable.decide (e.1 = v) with
    | none =>
      split
      · next h => rw [← h, hf]; rfl
      · rfl
    | some e =>
      have hv : e.1 = v := by simpa using List.find?_some hf
      split
      · next h => rw [← h, hf]; simp [hv]
      · next h => simp [hv, h]
  · simp only [hq, false_and, if_false, State.part_setPart_other _ _ hq]
/-- Each gang of a list takes the value that a function of it gives. -/
def State.setGangs (s : State) (f : Nat × Nat × Gang → Gang) (l : List (Nat × Nat × Gang)) : State :=
  l.foldl (fun t e => t.setGang e.1 e.2.1 (f e)) s
theorem State.setGangs_cons (s : State) (f : Nat × Nat × Gang → Gang) (e : Nat × Nat × Gang) (l : List (Nat × Nat × Gang)) :
    s.setGangs f (e :: l) = (s.setGang e.1 e.2.1 (f e)).setGangs f l := rfl
theorem State.setGangs_keeps (f : Nat × Nat × Gang → Gang) (l : List (Nat × Nat × Gang)) (s : State) :
    (s.setGangs f l).ctxs = s.ctxs ∧ (s.setGangs f l).mem = s.mem ∧ (s.setGangs f l).pending = s.pending ∧ (s.setGangs f l).now = s.now := by
  induction l generalizing s with
  | nil => exact ⟨rfl, rfl, rfl, rfl⟩
  | cons e l ih => exact ih (s.setGang e.1 e.2.1 (f e))
theorem State.gangAt_setGangs_other (f : Nat × Nat × Gang → Gang) (l : List (Nat × Nat × Gang)) (s : State) (p tree : Nat)
    (h : (p, tree) ∉ l.map fun e => (e.1, e.2.1)) : (s.setGangs f l).gangAt p tree = s.gangAt p tree := by
  induction l generalizing s with
  | nil => rfl
  | cons e l ih =>
    simp only [List.map_cons, List.mem_cons, not_or, Prod.mk.injEq] at h
    rw [State.setGangs_cons, ih _ h.2, State.gangAt_setGang, if_neg h.1]
/-- Gangs with different places that are there take their own values. -/
theorem State.gangAt_setGangs (f : Nat × Nat × Gang → Gang) (l : List (Nat × Nat × Gang)) (s : State)
    (hn : (l.map fun e => (e.1, e.2.1)).Nodup) (hs : ∀ e ∈ l, (s.gangAt e.1 e.2.1).isSome = true) :
    ∀ e ∈ l, (s.setGangs f l).gangAt e.1 e.2.1 = some (f e) := by
  induction l generalizing s with
  | nil => simp
  | cons x l ih =>
    rw [List.map_cons, List.nodup_cons] at hn
    have some_ (e) (he : e ∈ x :: l) : ((s.setGang x.1 x.2.1 (f x)).gangAt e.1 e.2.1).isSome = true := by
      rw [State.gangAt_setGang]
      split
      · simpa using hs x (by simp)
      · exact hs e he
    intro e he
    rw [State.setGangs_cons]
    rcases List.mem_cons.mp he with rfl | he
    · rw [State.gangAt_setGangs_other f l _ _ _ hn.1, State.gangAt_setGang, if_pos ⟨rfl, rfl⟩]
      obtain ⟨g, hg⟩ := Option.isSome_iff_exists.mp (hs e (by simp))
      rw [hg]; rfl
    · exact ih _ hn.2 (fun e he => some_ e (by simp [he])) e he
/-- A gang on a die is one of its partition's. -/
theorem State.mem_gangsOn {s : State} {die : Nat} {e : Nat × Nat × Gang} (h : e ∈ s.gangsOn die) : e.1 < 4 ∧ e.2 ∈ (s.part e.1).gangs := by
  obtain ⟨p, hp, h⟩ := List.mem_flatMap.mp h
  obtain ⟨x, hx, rfl⟩ := List.mem_map.mp h
  exact ⟨by simp only [List.mem_cons, List.not_mem_nil, or_false] at hp; omega, (List.mem_filter.mp hx).1⟩
theorem State.gangAt_of_mem {s : State} {p : Nat} {e : Nat × Gang} (h : e ∈ (s.part p).gangs) : (s.gangAt p e.1).isSome = true := by
  simp only [State.gangAt, Option.isSome_map, List.find?_isSome, decide_eq_true_eq]
  exact ⟨e, h, rfl⟩
/-- Gangs on a die have different places when no partition has two gangs of one number. -/
theorem State.gangsOn_nodup (s : State) (die : Nat) (h : ∀ p, p < 4 → ((s.part p).gangs.map Prod.fst).Nodup) :
    ((s.gangsOn die).map fun e => (e.1, e.2.1)).Nodup := by
  rw [State.gangsOn, List.map_flatMap, List.Nodup, List.pairwise_flatMap]
  simp only [List.map_map, Function.comp_def]
  constructor
  · intro p hp
    have hp4 : p < 4 := by simp only [List.mem_cons, List.not_mem_nil, or_false] at hp; omega
    rw [List.pairwise_map]
    exact ((List.pairwise_map.mp (h p hp4)).filter _).imp fun hne heq => hne (Prod.mk.inj heq).2
  · refine List.Pairwise.imp (fun {a b} (hab : a ≠ b) => ?_) (by decide : [0, 1, 2, 3].Nodup)
    intro x hx y hy hxy
    obtain ⟨u, -, rfl⟩ := List.mem_map.mp hx
    obtain ⟨v, -, rfl⟩ := List.mem_map.mp hy
    exact hab (Prod.mk.inj hxy).1

/-- More priorities are below a higher one than below a lower one that is there. -/
theorem length_filter_below {prios : List Nat} {a b : Nat} (ha : a ∈ prios) (hab : a < b) :
    (prios.filter fun q => q < a).length < (prios.filter fun q => q < b).length := by
  have le (l : List Nat) : (l.filter fun q => q < a).length ≤ (l.filter fun q => q < b).length := by
    rw [← List.countP_eq_length_filter, ← List.countP_eq_length_filter]
    refine List.countP_mono_left fun q _ h => ?_
    rw [decide_eq_true_eq] at h ⊢
    omega
  obtain ⟨l, r, rfl⟩ := List.append_of_mem ha
  rw [List.filter_append, List.filter_append, List.filter_cons_of_neg (by simp), List.filter_cons_of_pos (by simpa using hab)]
  have hl := le l
  have hr := le r
  simp only [List.length_append, List.length_cons]
  omega
/-- R317: the gangs of a lower priority that is there give up their duty before those of a higher one do. -/
theorem dutyCut_lower {prios : List Nat} (total : Nat) {a b : Nat} (ha : a ∈ prios) (hab : a < b) (hb : 0 < dutyCut prios total b) :
    dutyCut prios total a = 15 := by
  have below := length_filter_below ha hab
  simp only [dutyCut] at *
  omega
/-- The duty of each priority after an update. -/
theorem exec_dutyUpdate (s : State) (die : Nat) (hs : s.subject = [die]) (hd : die ∉ s.control.fencedDies) : ∃ total,
    let prios := [0, 1, 2, 3].filter fun q => (s.gangsOn die).any fun g => g.2.2.prio = q
    exec .dutyUpdate s = .next ((s.setGangs (fun g => { g.2.2 with duty := 16 - dutyCut prios total g.2.2.prio }) (s.gangsOn die)).bump.later
      27000 .dutyUpdate [die]) := by
  have h0 : s.subj 0 = die := by simp [State.subj, hs]
  show ∃ total, execDutyUpdate s = _
  simp only [execDutyUpdate, h0, List.contains_iff_mem, hd, if_false]
  exact ⟨_, rfl⟩
/-- R317: the gangs on a die take duties of 1 to 16 sixteenths by their priorities, the lowest first. -/
theorem exec_dutyUpdate_spec (s : State) (die : Nat) (hs : s.subject = [die]) (hd : die ∉ s.control.fencedDies)
    (hn : ∀ p, p < 4 → ((s.part p).gangs.map Prod.fst).Nodup) (hp : ∀ e ∈ s.gangsOn die, e.2.2.prio < 4) :
    ∃ t, exec .dutyUpdate s = .next t ∧ ⟨s.now + 27000, .event .dutyUpdate, [die]⟩ ∈ t.pending ∧ t.mem = s.mem ∧ KeepsContexts s t ∧
      ∃ d : Nat → Nat, (∀ n, 1 ≤ d n ∧ d n ≤ 16) ∧ (∀ e ∈ s.gangsOn die, t.gangAt e.1 e.2.1 = some { e.2.2 with duty := d e.2.2.prio }) ∧
        ∀ e ∈ s.gangsOn die, ∀ f ∈ s.gangsOn die, e.2.2.prio < f.2.2.prio → d f.2.2.prio < 16 → d e.2.2.prio = 1 := by
  obtain ⟨total, h⟩ := exec_dutyUpdate s die hs hd
  generalize hpr : ([0, 1, 2, 3].filter fun q => (s.gangsOn die).any fun g => g.2.2.prio = q) = prios at h
  obtain ⟨hc, hm, hpe, hnow⟩ := State.setGangs_keeps (fun g => { g.2.2 with duty := 16 - dutyCut prios total g.2.2.prio }) (s.gangsOn die) s
  have cut (n : Nat) : dutyCut prios total n ≤ 15 := Nat.min_le_left ..
  refine ⟨_, h, ?_, hm, fun k => congrArg (fun c => Sp.get Ctx.reset c k) hc, fun n => 16 - dutyCut prios total n, fun n => ?_, ?_, ?_⟩
  · rw [← hnow]
    exact List.mem_append_right _ (List.mem_singleton_self _)
  · have := cut n
    dsimp only
    omega
  · exact State.gangAt_setGangs _ _ s (s.gangsOn_nodup die hn) fun e he => State.gangAt_of_mem (State.mem_gangsOn he).2
  · intro e he f _ hef hf
    have mem : e.2.2.prio ∈ prios := by
      have := hp e he
      rw [← hpr, List.mem_filter, List.any_eq_true]
      exact ⟨by simp only [List.mem_cons, List.not_mem_nil, or_false]; omega, e, he, by simp⟩
    dsimp only at hf ⊢
    have := dutyCut_lower total mem hef (by omega)
    omega

end Sys2Proof.Machine

namespace Sys2Proof.Machine
open Sys2Proof

/-! Device reset and attestation (R8, R323, R324). -/

/-- R8, R321: a device reset leaves every field at its reset value but memory, the boot-step record, its counts and what the stores keep. -/
theorem exec_deviceReset (s : State) : ∃ t, exec .deviceReset s = .next t ∧ t.mem = s.mem ∧ (∀ k, t.ctx k = Ctx.reset) ∧ (∀ n, t.core n = Core.reset) ∧
    t.control.svc = 0 ∧ t.control.boot = s.control.boot ∧ t.control.bootCount = s.control.bootCount + 1 ∧ t.control.bootAt = some (0, 0) ∧
    t.control.clock = 8 ∧ t.cmds = [] ∧ t.accesses = [] ∧ t.control.transcript = [] ∧ t.control.rollback = s.control.rollback ∧
    t.control.hssTop = s.control.hssTop ∧ Scheduled t .bootStep [0, 0] :=
  ⟨_, rfl, rfl, fun _ => rfl, fun _ => rfl, rfl, rfl, rfl, rfl, rfl, rfl, rfl, rfl, rfl, rfl, s.now, List.mem_singleton_self _⟩

/-- The SPDM version that answers a request: 1.3 to one of 1.3, else 1.2. -/
def State.version (s : State) : Byte := if s.control.request.head? = some 0x13 then 0x13 else 0x12
theorem State.reqByte_zero (s : State) : s.reqByte 0 = 0x13 ↔ s.control.request.head? = some 0x13 := by
  unfold State.reqByte
  cases s.control.request with
  | nil => decide
  | cons b l => simpa using (BitVec.toNat_inj (x := b) (y := 0x13))
theorem State.spdmHead_eq (s : State) (code p1 p2 : Nat) :
    s.spdmHead code p1 p2 = [s.version, BitVec.ofNat 8 code, BitVec.ofNat 8 p1, BitVec.ofNat 8 p2] := by
  unfold State.spdmHead State.version
  exact congrArg (· :: _) (ite_congr (propext s.reqByte_zero) (fun _ => rfl) fun _ => rfl)
/-- Bits of a sum of different powers of two, those of the numbers below n with a property. -/
theorem testBit_sum_two_pow (p : Nat → Bool) (n i : Nat) :
    ((((List.range n).filter p).map fun k => 2 ^ k).foldl (· + ·) 0).testBit i = (Decidable.decide (i < n) && p i) ∧
      (((List.range n).filter p).map fun k => 2 ^ k).foldl (· + ·) 0 < 2 ^ n := by
  induction n with
  | zero => simp
  | succ n ih =>
    obtain ⟨ih, lt⟩ := ih
    rw [List.range_succ, List.filter_append, List.map_append, List.foldl_append]
    generalize (((List.range n).filter p).map fun k => 2 ^ k).foldl (· + ·) 0 = x at ih lt
    have double : 2 ^ (n + 1) = 2 ^ n + 2 ^ n := by omega
    cases hp : p n with
    | false =>
      have : [n].filter p = [] := by simp [hp]
      rw [this]
      refine ⟨ih.trans ?_, by simp only [List.map_nil, List.foldl_nil]; omega⟩
      by_cases hi : i = n
      · simp [hi, hp]
      · simp [show i < n + 1 ↔ i < n by omega]
    | true =>
      have : [n].filter p = [n] := by simp [hp]
      rw [this]
      simp only [List.map_cons, List.map_nil, List.foldl_cons, List.foldl_nil]
      refine ⟨?_, by omega⟩
      rw [Nat.add_comm]
      rcases Nat.lt_trichotomy i n with hi | rfl | hi
      · rw [Nat.testBit_two_pow_add_gt hi, ih]
        simp [hi, show i < n + 1 by omega]
      · rw [Nat.testBit_two_pow_add_eq, ih]
        simp [hp]
      · rw [Nat.testBit_lt_two_pow (Nat.lt_of_lt_of_le (by omega : 2 ^ n + x < 2 ^ (n + 1)) (Nat.pow_le_pow_right (by omega) hi))]
        simp [show ¬i < n + 1 by omega]
/-- R324: the mask names slot 0 and the slots with a provisioned chain. -/
theorem State.slotMask_bit (s : State) (i : Nat) (hi : i < 8) : (BitVec.ofNat 8 s.slotMask).getLsbD i = true ↔ i = 0 ∨ s.chain i ≠ [] := by
  have mask : s.slotMask = (((List.range 8).filter fun k => k = 0 || !(s.chain k).isEmpty).map fun k => 2 ^ k).foldl (· + ·) 0 := by
    simp only [State.slotMask, State.chains, List.filter_map, List.map_map]
    rfl
  rw [BitVec.getLsbD_ofNat, mask, (testBit_sum_two_pow _ 8 i).1]
  simp [hi]

/-- R323: measurements that a request asks for. -/
def askedMeasurements (n : Nat) : List Nat := if n = 0 then [] else if n = 0xff then [1, 2, 3, 4, 5] else [1, 2, 3, 4, 5].filter (· = n)
theorem mem_askedMeasurements {n k : Nat} (h1 : 1 ≤ k) (h5 : k ≤ 5) (h : n = k ∨ n = 0xff) : k ∈ askedMeasurements n := by
  have : k ∈ [1, 2, 3, 4, 5] := by simp only [List.mem_cons, List.not_mem_nil, or_false]; omega
  unfold askedMeasurements
  rcases h with rfl | rfl
  · rw [if_neg (by omega), if_neg (by omega)]
    exact List.mem_filter.mpr ⟨this, by simp⟩
  · exact this
/-- The answer to GET MEASUREMENTS up to its signature. -/
def State.measurements (s : State) : List Byte :=
  let l := askedMeasurements (s.reqByte 3)
  s.spdmHead 0x60 (if s.reqByte 3 = 0 then 5 else 0) (if s.reqByte 2 % 2 = 1 then s.reqByte 36 % 16 else 0) ++
    BitVec.ofNat 8 l.length :: bytesLE 3 (l.flatMap s.block_).length ++ l.flatMap s.block_ ++ Config.spdmBody 0x60 s.fresh
theorem State.measurements_head (s : State) : s.measurements.take 2 = [s.version, 0x60] := by
  simp [State.measurements, State.spdmHead_eq]
/-- The answer contains the digest of every measurement asked for. -/
theorem State.measurements_digest (s : State) (n : Nat) (h : n ∈ askedMeasurements (s.reqByte 3)) :
    ∃ x y, s.measurements = x ++ sha384 (s.measured n) ++ y := by
  obtain ⟨a, b, hab⟩ := List.append_of_mem h
  have digest : sha384 (s.measured n) <:+: s.block_ n := (List.suffix_append _ _).isInfix
  have block : s.block_ n <:+: (askedMeasurements (s.reqByte 3)).flatMap s.block_ :=
    ⟨a.flatMap s.block_, b.flatMap s.block_, by rw [hab, List.flatMap_append, List.flatMap_cons, List.append_assoc]⟩
  obtain ⟨x, y, hxy⟩ := (digest.trans block).trans (List.infix_append _ _ _ : _ <:+: s.measurements)
  exact ⟨x, y, hxy.symm⟩

/-- R323: a request is answered, and taken; a run of measurements ends. -/
theorem State.responds_answers (s : State) (r : List Byte) : Responds s (s.answers r) r := ⟨rfl, rfl, fun _ => rfl, rfl⟩
/-- R323: what GET VERSION, GET CAPABILITIES and NEGOTIATE ALGORITHMS leave of the transcripts. -/
theorem exec_getVersion (s : State) : ∃ t, exec .getVersion s = .next t ∧ Responds s t [0x10, 0x04, 0, 0, 0, 2, 0x00, 0x12, 0x00, 0x13] ∧
    t.control.transcript = s.control.request ++ [0x10, 0x04, 0, 0, 0, 2, 0x00, 0x12, 0x00, 0x13] ∧ t.control.transcriptB = [] ∧
    t.control.transcriptL = [] :=
  ⟨_, rfl, ⟨rfl, rfl, fun _ => rfl, rfl⟩, rfl, rfl, rfl⟩
/-- An answer of the negotiation joins message A with its request. -/
def Negotiates (i : Instr) (s : State) (code : Byte) (p : List Byte → Prop) : Prop :=
  ∃ t r, exec i s = .next t ∧ Responds s t r ∧ r.take 2 = [s.version, code] ∧ p r ∧
    t.control.transcript = s.control.transcript ++ s.control.request ++ r ∧ t.control.transcriptB = s.control.transcriptB ∧ t.control.transcriptL = []
theorem negotiates_getCapabilities (s : State) : Negotiates .getCapabilities s 0x61 fun _ => True :=
  ⟨_, _, rfl, s.responds_answers _, by rw [State.spdmHead_eq]; rfl, trivial, rfl, rfl, rfl⟩
theorem negotiates_negotiateAlgorithms (s : State) : Negotiates .negotiateAlgorithms s 0x63 fun r =>
    (r.drop 8).take 12 = bytesLE 4 4 ++ bytesLE 4 0x80 ++ bytesLE 4 2 :=
  ⟨_, _, rfl, s.responds_answers _, by rw [State.spdmHead_eq]; rfl, by rw [State.spdmHead_eq]; rfl, rfl, rfl, rfl⟩
/-- An answer about certificates joins message B with its request. -/
def Certifies (i : Instr) (s : State) (r : List Byte) : Prop :=
  ∃ t, exec i s = .next t ∧ Responds s t r ∧ t.control.transcript = s.control.transcript ∧
    t.control.transcriptB = s.control.transcriptB ++ s.control.request ++ r ∧ t.control.transcriptL = []
theorem certifies_getDigests (s : State) :
    Certifies .getDigests s ([s.version, 0x01, 0, BitVec.ofNat 8 s.slotMask] ++ s.chains.flatMap fun e => sha384 e.2) := by
  rw [show [s.version, 0x01, 0, BitVec.ofNat 8 s.slotMask] = _ from (s.spdmHead_eq 1 0 s.slotMask).symm]
  exact ⟨_, rfl, s.responds_answers _, rfl, rfl, rfl⟩
theorem certifies_getCertificate (s : State) :
    let slot := s.reqByte 2 % 16
    let chain := s.chain slot
    let off := s.reqByte 4 + 256 * s.reqByte 5
    let portion := (chain.drop off).take (s.reqByte 6 + 256 * s.reqByte 7)
    Certifies .getCertificate s ([s.version, 0x02, BitVec.ofNat 8 slot, 0] ++ bytesLE 2 portion.length ++
      bytesLE 2 (chain.length - off - portion.length) ++ portion) := by
  intro slot chain off portion
  rw [show [s.version, 0x02, BitVec.ofNat 8 slot, 0] = _ from (s.spdmHead_eq 2 slot 0).symm]
  exact ⟨_, rfl, s.responds_answers _, rfl, rfl, rfl⟩
/-- An answer that is signed, over message A, what else it covers, the request and itself. -/
def Signs (i : Instr) (s : State) (more : List Byte) (p : List Byte → Prop) : Prop :=
  ∃ t body, exec i s = .next t ∧ p body ∧
    Responds s t (body ++ Config.signature 0 s.control.alias_ (sha384 (s.control.transcript ++ more ++ s.control.request ++ body))) ∧
    t.control.signedOver = s.control.transcript ++ more ++ s.control.request ++ body ∧ t.control.transcript = s.control.transcript ∧
    t.control.transcriptB = [] ∧ t.control.transcriptL = []
theorem signs_of_respondSigned {i : Instr} {s : State} {more body : List Byte} {p : List Byte → Prop}
    (h : exec i s = .next (s.respondSigned more body)) (hp : p body) : Signs i s more p :=
  ⟨_, body, h, hp, ⟨rfl, rfl, fun _ => rfl, rfl⟩, rfl, rfl, rfl, rfl⟩
theorem signs_challenge (s : State) : Signs .challenge s s.control.transcriptB fun body =>
    body.take 4 = [s.version, 0x03, BitVec.ofNat 8 (s.reqByte 2 % 16), BitVec.ofNat 8 s.slotMask] ∧
      (body.drop 4).take (sha384 (s.chain (s.reqByte 2 % 16))).length = sha384 (s.chain (s.reqByte 2 % 16)) := by
  refine signs_of_respondSigned rfl ?_
  rw [State.spdmHead_eq]
  exact ⟨rfl, by simp⟩
/-- R323: with bit 0 of its attributes the answer is signed, another one joins the run of measurements. -/
theorem exec_getMeasurements (s : State) : exec .getMeasurements s = if s.reqByte 2 % 2 = 1 then .next (s.respondSigned s.control.transcriptL s.measurements)
    else .next ({ s.answers s.measurements with control := { (s.answers s.measurements).control with
      transcriptB := [], transcriptL := s.control.transcriptL ++ s.control.request ++ s.measurements } } : State).bump := rfl
/-- R323, R324: a vendor-defined request of another registry is answered by an error. -/
theorem exec_vendorDefinedRequest_other (s : State) (h : s.namesPrieri = false) :
    exec .vendorDefinedRequest s = .next (s.answers (s.spdmHead 0x7f 1 0)) := by
  show execVendorDefinedRequest s = _
  simp only [execVendorDefinedRequest, h, Bool.not_false, if_true]
/-- R324: the state in which a request of Prieri's registry takes a leaf: an exhausted lower tree is followed by a new one. -/
def State.freshTree (s : State) : State := if s.control.hssLeaf < 32768 then s else { s with control := s.control.newTree }
theorem exec_vendorDefinedRequest (s : State) (h : s.namesPrieri = true) : exec .vendorDefinedRequest s =
    let u := s.freshTree
    if u.control.hssLeaf < 32768 then
      .next (({ u with control := { u.control with hssLeaf := u.control.hssLeaf + 1 } } : State).answers
        (u.spdmHead 0x7e 0 0 ++ Config.signature u.control.hssTop u.control.hssLeaf (sha384 u.control.signedOver)))
    else .next (u.answers (u.spdmHead 0x7f 1 0)) := by
  show execVendorDefinedRequest s = _
  simp only [execVendorDefinedRequest, h, Bool.not_true, Bool.false_eq_true, if_false]
  rfl

theorem State.freshTree_spec (s : State) :
    (s.control.hssLeaf < 32768 → s.freshTree = s) ∧
    (32768 ≤ s.control.hssLeaf → s.control.hssTop < 2 ^ 20 →
      s.freshTree = { s with control := { s.control with hssTop := s.control.hssTop + 1, hssLeaf := 0 } }) ∧
    (32768 ≤ s.control.hssLeaf → 2 ^ 20 ≤ s.control.hssTop → s.freshTree = s) := by
  refine ⟨fun h => if_pos h, fun h ht => ?_, fun h ht => ?_⟩
  · rw [State.freshTree, if_neg (by omega), Control.newTree, if_pos ht]
  · rw [State.freshTree, if_neg (by omega), Control.newTree, if_neg (by omega)]
/-- R323, R324: what a vendor-defined request leaves: a signature with the next leaf of the lower tree, or an error. -/
theorem exec_vendorDefinedRequest_spec (s : State) : ∃ t r, exec .vendorDefinedRequest s = .next t ∧ Responds s t r ∧
    t.control.signedOver = s.control.signedOver ∧
    (s.namesPrieri = false → r.take 2 = [s.version, 0x7f] ∧ t.control.hssLeaf = s.control.hssLeaf ∧ t.control.hssTop = s.control.hssTop) ∧
    (s.namesPrieri = true →
      (s.control.hssLeaf < 32768 → t.control.hssLeaf = s.control.hssLeaf + 1 ∧ t.control.hssTop = s.control.hssTop ∧
        r = [s.version, 0x7e, 0, 0] ++ Config.signature s.control.hssTop s.control.hssLeaf (sha384 s.control.signedOver)) ∧
      (32768 ≤ s.control.hssLeaf → s.control.hssTop < 2 ^ 20 → t.control.hssTop = s.control.hssTop + 1 ∧ t.control.hssLeaf = 1) ∧
      (32768 ≤ s.control.hssLeaf → 2 ^ 20 ≤ s.control.hssTop → t.control.hssTop = s.control.hssTop ∧ r.take 2 = [s.version, 0x7f])) := by
  have error : (s.spdmHead 0x7f 1 0).take 2 = [s.version, 0x7f] := by rw [State.spdmHead_eq]; rfl
  cases hn : s.namesPrieri with
  | false => exact ⟨_, _, exec_vendorDefinedRequest_other s hn, s.responds_answers _, rfl, fun _ => ⟨error, rfl, rfl⟩, nofun⟩
  | true =>
    have run := exec_vendorDefinedRequest s hn
    obtain ⟨same, new, spent⟩ := s.freshTree_spec
    dsimp only at run
    by_cases hl : s.control.hssLeaf < 32768
    · rw [same hl, if_pos hl] at run
      exact ⟨_, _, run, ⟨rfl, rfl, fun _ => rfl, rfl⟩, rfl, nofun, fun _ => ⟨fun _ => ⟨rfl, rfl, by rw [State.spdmHead_eq]; rfl⟩, by omega, by omega⟩⟩
    · by_cases ht : s.control.hssTop < 2 ^ 20
      · rw [new (by omega) ht, if_pos (by simp)] at run
        exact ⟨_, _, run, ⟨rfl, rfl, fun _ => rfl, rfl⟩, rfl, nofun, fun _ => ⟨fun h => absurd h hl, fun _ _ => ⟨rfl, rfl⟩, fun _ h => absurd ht (by omega)⟩⟩
      · rw [spent (by omega) (by omega), if_neg hl] at run
        exact ⟨_, _, run, s.responds_answers _, rfl, nofun, fun _ => ⟨fun h => absurd h hl, fun _ h => absurd h ht, fun _ _ => ⟨rfl, error⟩⟩⟩

end Sys2Proof.Machine

namespace Sys2Proof.Machine
open Sys2Proof

/-! A record of die 0 stays in its log while the boot goes on (R361: the log holds 256). -/

/-- A log names a record behind which at most n others stand. -/
def logsWithin (l : List (List Word64)) (w : List Word64) (n : Nat) : Prop := ∃ a b, l = a ++ w :: b ∧ b.length ≤ n
/-- Every entry for die 0 logs a record so, and there is one. -/
def State.logs0 (s : State) (w : List Word64) (n : Nat) : Prop :=
  (∃ e ∈ s.dies, e.1 = 0) ∧ ∀ e ∈ s.dies, e.1 = 0 → logsWithin e.2.fabric w n

theorem logsWithin.mono {l : List (List Word64)} {w : List Word64} {m n : Nat} (h : logsWithin l w m) (hmn : m ≤ n) : logsWithin l w n := by
  obtain ⟨a, b, hl, hb⟩ := h
  exact ⟨a, b, hl, Nat.le_trans hb hmn⟩
/-- A further record keeps one that is near the end. -/
theorem logsWithin.push {l : List (List Word64)} {w : List Word64} {n : Nat} (h : logsWithin l w n) (hn : n < 255) (r : List Word64) :
    logsWithin (if l.length < 256 then l ++ [r] else l.drop 1 ++ [r]) w (n + 1) := by
  obtain ⟨a, b, rfl, hb⟩ := h
  split
  · exact ⟨a, b ++ [r], by simp, by simpa using hb⟩
  · next hl =>
    cases a with
    | nil => simp at hl; omega
    | cons x a => exact ⟨a, b ++ [r], by simp, by simpa using hb⟩
theorem logsWithin_push_self (l : List (List Word64)) (r : List Word64) : logsWithin (if l.length < 256 then l ++ [r] else l.drop 1 ++ [r]) r 0 := by
  split
  · exact ⟨l, [], rfl, Nat.le_refl 0⟩
  · exact ⟨l.drop 1, [], rfl, Nat.le_refl 0⟩
theorem Sp.mem_ins {α : Type} (m : Sp α) (i : Nat) (x : α) (e : Nat × α) : e ∈ Sp.ins m i x ↔ e = (i, x) ∨ e ∈ m := by
  induction m with
  | nil => simp [Sp.ins]
  | cons a r ih =>
    unfold Sp.ins
    split
    · simp
    · rw [List.mem_cons, ih, List.mem_cons]
      exact or_left_comm
/-- What is listed under a key is read under it. -/
theorem Sp.get_mem {α : Type} (d : α) (m : Sp α) (i : Nat) (h : ∃ e ∈ m, e.1 = i) : (i, Sp.get d m i) ∈ m := by
  induction m with
  | nil => simp at h
  | cons a r ih =>
    by_cases ha : a.1 = i
    · subst ha
      simp [Sp.get]
    · have : ∃ e ∈ r, e.1 = i := by simpa [ha] using h
      simpa [Sp.get, ha] using Or.inr (ih this)
/-- After a write of something else than the default its key lists that alone. -/
theorem Sp.mem_put_same {α : Type} [DecidableEq α] (d : α) (m : Sp α) (i : Nat) (x : α) (hx : x ≠ d) :
    (i, x) ∈ Sp.put d m i x ∧ ∀ e ∈ Sp.put d m i x, e.1 = i → e.2 = x := by
  rw [Sp.put, if_neg hx]
  refine ⟨(Sp.mem_ins ..).mpr (.inl rfl), fun e he hi => ?_⟩
  rcases (Sp.mem_ins ..).mp he with rfl | he
  · rfl
  · exact absurd hi (Sp.not_mem_del m i e he)
theorem State.logs0.die {s : State} {w : List Word64} {n : Nat} (h : s.logs0 w n) : logsWithin (s.die 0).fabric w n :=
  h.2 _ (Sp.get_mem Die.reset s.dies 0 h.1) rfl
/-- Whatever changes the entries of dies but not their logs, and drops only empty ones, keeps a record. -/
theorem State.logs0.map_filter {s t : State} {w : List Word64} {n : Nat} (h : s.logs0 w n) (f : Nat × Die → Nat × Die)
    (hf : ∀ e, (f e).1 = e.1 ∧ (f e).2.fabric = e.2.fabric) (ht : t.dies = (s.dies.map f).filter fun e => e.2 ≠ Die.reset) : t.logs0 w n := by
  obtain ⟨⟨x, hx, hx0⟩, hall⟩ := h
  have keep (e : Nat × Die) (he : e ∈ s.dies) (he0 : e.1 = 0) : (f e).2 ≠ Die.reset := by
    obtain ⟨a, b, hl, -⟩ := hall e he he0
    intro hr
    have := (hf e).2
    rw [hr, hl] at this
    cases a <;> cases this
  refine ⟨⟨f x, ?_, (hf x).1.trans hx0⟩, fun e he he0 => ?_⟩
  · rw [ht]
    exact List.mem_filter.mpr ⟨List.mem_map_of_mem hx, by simpa using keep x hx hx0⟩
  · rw [ht] at he
    obtain ⟨y, hy, rfl⟩ := List.mem_map.mp (List.mem_filter.mp he).1
    rw [(hf y).2]
    exact hall y hy ((hf y).1.symm.trans he0)
theorem State.logs0_setDie (s : State) (d : Die) (w : List Word64) (n : Nat) (h : logsWithin d.fabric w n) : (s.setDie 0 d).logs0 w n := by
  have hd : d ≠ Die.reset := by
    rintro rfl
    obtain ⟨a, b, hl, -⟩ := h
    cases a <;> cases hl
  obtain ⟨h1, h2⟩ := Sp.mem_put_same Die.reset s.dies 0 d hd
  exact ⟨⟨_, h1, rfl⟩, fun e he h0 => by rw [h2 e he h0]; exact h⟩

/-! Boot records (R361, R362). -/

/-- A BOOT record of a sub-code. -/
def bootWords (now sub step inst : Nat) : List Word64 :=
  [pack [(56, 0x2a), (48, sub), (46, 0), (44, 0), (32, 0), (26, 0), (22, 0), (18, 0), (0, 0)], pack [(8, step), (0, inst)], 0, BitVec.ofNat 64 now, 0, 0, 0, 0]
theorem reports_of_logs0 {s : State} {now sub step inst n : Nat} (h : s.logs0 (bootWords now sub step inst) n) :
    Reports s 0 0x2a sub 0 0 0 0 0 0 (pack [(8, step), (0, inst)]) 0 := by
  obtain ⟨a, b, hl, -⟩ := h.die
  exact ⟨bootWords now sub step inst, by rw [hl]; simp, rfl⟩
/-- A record for a host event ring leaves the configurations of partitions. -/
theorem State.cfg_hostEvent (s : State) (q kind : Nat) (r : List Word64) (p : Nat) : ((s.hostEvent q kind r).part p).cfg = (s.part p).cfg := by
  by_cases h : p = q
  · subst h
    exact (congrArg Part.cfg (State.part_setPart_same s p _)).trans rfl
  · rw [(State.hostEvent_keeps s q kind r).2.2.2.2 p h]
/-- A BOOT record joins the log of die 0; the control side, contexts, memory and configurations stay. -/
theorem State.bootRecord_spec (s : State) (sub step inst : Nat) :
    let t := s.bootRecord sub step inst
    t.logs0 (bootWords s.now sub step inst) 0 ∧ (∀ w n, n < 255 → s.logs0 w n → t.logs0 w (n + 1)) ∧ t.control = s.control ∧ t.now = s.now ∧
      (∀ p, (t.part p).cfg = (s.part p).cfg) := by
  let r := s.fabricRecord 0 0 0x2a sub 0 0 0 0 0 (pack [(8, step), (0, inst)]) 0
  have base : r.logs0 (bootWords s.now sub step inst) 0 ∧ (∀ w n, n < 255 → s.logs0 w n → r.logs0 w (n + 1)) :=
    ⟨State.logs0_setDie _ _ _ _ (logsWithin_push_self _ _), fun w n hn h => State.logs0_setDie _ _ _ _ (h.die.push hn _)⟩
  unfold State.bootRecord State.dieEvent
  dsimp only
  split
  · exact ⟨base.1, base.2, rfl, rfl, fun p => State.cfg_hostEvent ..⟩
  · exact ⟨base.1, base.2, rfl, rfl, fun _ => rfl⟩

/-! Partitions that lose a die (R320). -/

theorem State.leaveSwitches_keeps (s : State) (dies : List Nat) : (s.leaveSwitches dies).dies = s.dies ∧ (s.leaveSwitches dies).parts = s.parts ∧
    (s.leaveSwitches dies).control = s.control := by
  unfold State.leaveSwitches
  generalize s.fabric.cles.filter _ = l
  induction l generalizing s with
  | nil => exact ⟨rfl, rfl, rfl⟩
  | cons e l ih =>
    have one : (s.leaveSwitch (e.1 / 64) (e.1 % 64)).dies = s.dies ∧ (s.leaveSwitch (e.1 / 64) (e.1 % 64)).parts = s.parts ∧
        (s.leaveSwitch (e.1 / 64) (e.1 % 64)).control = s.control := by
      unfold State.leaveSwitch
      dsimp only
      split <;> exact ⟨rfl, rfl, rfl⟩
    obtain ⟨h1, h2, h3⟩ := ih (s.leaveSwitch (e.1 / 64) (e.1 % 64))
    exact ⟨h1.trans one.1, h2.trans one.2.1, h3.trans one.2.2⟩
/-- What the reset of a partition makes of a die's entry (R368). -/
def cleanDie (dies : List Nat) (e : Nat × Die) : Nat × Die :=
  if dies.contains e.1 then (e.1, { e.2 with se := Se.reset, faults := [], backlog := [], ple := [] }) else e
theorem State.dies_unconfigure (s : State) (p : Nat) :
    (s.unconfigure p).dies = (s.dies.map (cleanDie (s.part p).cfg.dies)).filter fun e => e.2 ≠ Die.reset :=
  congrArg (fun l => (l.map (cleanDie (s.part p).cfg.dies)).filter fun e => e.2 ≠ Die.reset) (State.leaveSwitches_keeps ..).1
/-- A partition that is no longer configured is as at reset; the other partitions, the control side and the logs stay. -/
theorem State.unconfigure_spec (s : State) (p : Nat) :
    (s.unconfigure p).control = s.control ∧ (∀ w n, s.logs0 w n → (s.unconfigure p).logs0 w n) ∧
      ∀ q, (s.unconfigure p).part q = if q = p then Part.reset else s.part q := by
  refine ⟨(State.leaveSwitches_keeps ..).2.2, fun w n h => h.map_filter _ (fun e => ?_) (s.dies_unconfigure p), fun q => ?_⟩
  · unfold cleanDie
    split <;> exact ⟨rfl, rfl⟩
  · split
    · next h => subst h; exact State.part_setPart_same ..
    · next h =>
      refine (State.part_setPart_other _ _ h).trans ?_
      show Sp.get Part.reset (State.leaveSwitches _ _).parts q = _
      rw [(State.leaveSwitches_keeps _ _).2.1]
      exact State.part_setPart_other _ _ h
/-- Whether a partition holds a fenced die. -/
def State.lame (s : State) (p : Nat) : Bool := (s.part p).cfg.dies.any s.control.fencedDies.contains
/-- The partitions of a list that hold a fenced die are as at reset. -/
theorem State.unconfigureFenced_fold (l : List Nat) (s : State) :
    let t := l.foldl (fun t (p : Nat) => if t.lame p then t.unconfigure p else t) s
    t.control = s.control ∧ (∀ w n, s.logs0 w n → t.logs0 w n) ∧ ∀ q, t.part q = if q ∈ l ∧ s.lame q = true then Part.reset else s.part q := by
  induction l generalizing s with
  | nil => simp
  | cons p l ih =>
    rw [List.foldl_cons]
    obtain ⟨u1, u2, u3⟩ := s.unconfigure_spec p
    cases hp : s.lame p with
    | false =>
      obtain ⟨h1, h2, h3⟩ := ih s
      refine ⟨h1, h2, fun q => (h3 q).trans (ite_congr (propext ?_) (fun _ => rfl) fun _ => rfl)⟩
      by_cases hq : q = p
      · subst hq; simp [hp]
      · simp [hq]
    | true =>
      rw [if_pos rfl]
      obtain ⟨h1, h2, h3⟩ := ih (s.unconfigure p)
      refine ⟨h1.trans u1, fun w n h => h2 w n (u2 w n h), fun q => (h3 q).trans ?_⟩
      simp only [State.lame, u1, u3]
      by_cases hq : q = p
      · subst hq
        have : s.lame q = true := hp
        simp only [State.lame] at this
        simp [this, Part.reset, PartCfg.reset]
      · simp [hq]
theorem State.unconfigureFenced_spec (s : State) : s.unconfigureFenced.control = s.control ∧ (∀ w n, s.logs0 w n → s.unconfigureFenced.logs0 w n) ∧
    ∀ q, q < 4 → s.lame q = true → s.unconfigureFenced.part q = Part.reset := by
  obtain ⟨h1, h2, h3⟩ := State.unconfigureFenced_fold [0, 1, 2, 3] s
  exact ⟨h1, h2, fun q hq hl => (h3 q).trans (if_pos ⟨by simp only [List.mem_cons, List.not_mem_nil, or_false]; omega, hl⟩)⟩

end Sys2Proof.Machine

namespace Sys2Proof.Machine
open Sys2Proof

/-! Boot steps (R318-R321, R380). -/

/-- R321: the count of failures in a boot-step entry. -/
theorem fldN_bootEntry_fails (step inst fails result next count : Nat) (hr : result < 16) (hn : next < 16) :
    fldN (bootEntry step inst fails result next count) 40 8 = min 255 fails := by
  simp only [fldN, bootEntry, pack, packN, BitVec.toNat_ofNat, Nat.shiftRight_eq_div_pow]
  omega
/-- Writing an entry of the boot-step record changes the record alone. -/
theorem State.boot_putBoot (s : State) (step inst fails result next : Nat) (h : bootIndex step inst < s.control.boot.length) :
    (s.putBoot step inst fails result next).control.boot.getD (bootIndex step inst) 0 = bootEntry step inst fails result next s.control.bootCount := by
  simp [State.putBoot, List.getD_eq_getElem?_getD, List.getElem?_set_self h]
theorem State.bootLength_putBoot (s : State) (step inst fails result next : Nat) :
    (s.putBoot step inst fails result next).control.boot.length = s.control.boot.length := List.length_set
theorem Control.newTree_keeps (c : Control) : c.newTree.boot = c.boot ∧ c.newTree.fencedDies = c.fencedDies ∧ c.newTree.svc = c.svc ∧
    (c.hssTop < 2 ^ 20 → c.newTree.hssTop = c.hssTop + 1 ∧ c.newTree.hssLeaf = 0) := by
  unfold Control.newTree
  split
  · exact ⟨rfl, rfl, rfl, fun _ => ⟨rfl, rfl⟩⟩
  · next h => exact ⟨rfl, rfl, rfl, fun h' => absurd h' h⟩
/-- What step 1 makes of the control side (R225, R324): a new tree, the routines, the derived key. -/
def State.bootLoads (s : State) : State := ({ s with control := s.control.newTree.loadTransform.loadMatrix } : State).deriveAlias
theorem State.bootLoads_keeps (s : State) : s.bootLoads.control.boot = s.control.newTree.boot ∧
    s.bootLoads.control.fencedDies = s.control.newTree.fencedDies ∧ s.bootLoads.control.svc = s.control.newTree.svc ∧
    s.bootLoads.control.hssTop = s.control.newTree.hssTop ∧ s.bootLoads.control.hssLeaf = s.control.newTree.hssLeaf := by
  unfold State.bootLoads
  generalize s.control.newTree = c
  exact ⟨rfl, rfl, rfl, rfl, rfl⟩
/-- What a step that has run brings about: the service that steps 4 and 8 start, the lower HSS tree of step 1. -/
theorem State.bootEffect_spec (s : State) (step inst : Nat) :
    let t := s.bootEffect step inst
    t.ctxs = s.ctxs ∧ t.mem = s.mem ∧ t.dies = s.dies ∧ t.control.boot = s.control.boot ∧ t.control.fencedDies = s.control.fencedDies ∧
      t.control.svc = (if step = 4 then 1 else if step = 8 then 2 else s.control.svc) ∧
      (step = 1 → inst = 0 → s.control.hssTop < 2 ^ 20 → t.control.hssTop = s.control.hssTop + 1 ∧ t.control.hssLeaf = 0) := by
  unfold State.bootEffect
  split
  · by_cases hi : inst = 0
    · obtain ⟨l1, l2, l3, l4, l5⟩ := s.bootLoads_keeps
      obtain ⟨t1, t2, t3, t4⟩ := s.control.newTree_keeps
      rw [if_pos hi]
      exact ⟨rfl, rfl, rfl, l1.trans t1, l2.trans t2, by rw [if_neg (by decide), if_neg (by decide)]; exact l3.trans t3,
        fun _ _ ht => ⟨l4.trans (t4 ht).1, l5.trans (t4 ht).2⟩⟩
    · rw [if_neg hi]
      exact ⟨rfl, rfl, rfl, rfl, rfl, rfl, fun _ h => absurd h hi⟩
  · exact ⟨rfl, rfl, rfl, rfl, rfl, rfl, nofun⟩
  · exact ⟨rfl, rfl, rfl, rfl, rfl, rfl, nofun⟩
  · next h1 h4 h8 => exact ⟨rfl, rfl, rfl, rfl, rfl, by rw [if_neg h4, if_neg h8], fun h => absurd h h1⟩
/-- On to the next unit: it is scheduled, and nothing else changes but the counter of free values. -/
theorem State.bootOn_spec (s : State) (step inst : Nat) :
    let t := s.bootOn step inst
    t.ctxs = s.ctxs ∧ t.mem = s.mem ∧ t.dies = s.dies ∧ t.parts = s.parts ∧ t.control = { s.control with bootAt := bootNext step inst } ∧
      ∀ a b, bootNext step inst = some (a, b) → Scheduled t .bootStep [a, b] := by
  unfold State.bootOn
  cases bootNext step inst with
  | none => exact ⟨rfl, rfl, rfl, rfl, rfl, nofun⟩
  | some e =>
    refine ⟨rfl, rfl, rfl, rfl, rfl, fun a b h => ?_⟩
    cases h
    exact ⟨_, List.mem_append_right _ (List.mem_singleton_self _)⟩

/-- A step has failed: its record stands in the log of die 0 with at most n others behind it, and its entry counts a failure. -/
def State.BootFailed (t : State) (now step inst n : Nat) : Prop :=
  t.logs0 (bootWords now 0 step inst) n ∧ fldN (t.control.boot.getD (bootIndex step inst) 0) 40 8 ≠ 0
theorem State.bootFailed_of {s t : State} {now step inst n : Nat} (h : s.BootFailed now step inst n) (hd : t.dies = s.dies)
    (hb : t.control.boot = s.control.boot) : t.BootFailed now step inst n := by
  unfold State.BootFailed State.logs0
  rw [hd, hb]
  exact h
theorem State.bootFailed_mono {s : State} {now step inst m n : Nat} (h : s.BootFailed now step inst m) (hmn : m ≤ n) : s.BootFailed now step inst n :=
  ⟨⟨h.1.1, fun e he h0 => (h.1.2 e he h0).mono hmn⟩, h.2⟩
theorem State.bootFailed_putBoot {s : State} {now step inst n : Nat} (fails result next : Nat) (hl : s.logs0 (bootWords now 0 step inst) n)
    (hi : bootIndex step inst < s.control.boot.length) (hr : result < 16) (hn : next < 16) :
    (s.putBoot step inst (fails + 1) result next).BootFailed now step inst n := by
  refine ⟨hl, ?_⟩
  rw [State.boot_putBoot s _ _ _ _ _ hi, fldN_bootEntry_fails _ _ _ _ _ _ hr hn]
  omega
/-- R380: the boot stops with a record. -/
theorem State.bootStops_spec (s : State) (step inst : Nat) :
    (s.bootStops step inst).control = { s.control with svc := 3, bootAt := none } ∧
      (s.bootStops step inst).logs0 (bootWords s.now 2 step inst) 0 ∧
      ∀ now n, n < 255 → s.BootFailed now step inst n → (s.bootStops step inst).BootFailed now step inst (n + 1) := by
  obtain ⟨h1, h2, h3, -, -⟩ := s.bootRecord_spec 2 step inst
  have hc : (s.bootStops step inst).control = { s.control with svc := 3, bootAt := none } :=
    congrArg (fun c : Control => { c with svc := 3, bootAt := none }) h3
  exact ⟨hc, h1, fun now n hn h => ⟨h2 _ n hn h.1, by rw [hc]; exact h.2⟩⟩
theorem Control.skipped_boot {c d : Control} {step inst : Nat} (h : c.skipped step inst = some d) : d.boot = c.boot := by
  unfold Control.skipped at h
  split at h
  · cases h; rfl
  · cases h; rfl
  · cases h; rfl
  · split at h
    · cases h
    · cases h; rfl
/-- R318: a unit that is skipped after a failure counts it; the boot goes on without what it fences, or stops. -/
theorem State.bootSkips_failed (s : State) {now step inst n : Nat} (fails result next : Nat) (hl : s.logs0 (bootWords now 0 step inst) n) (hn : n < 255)
    (hi : bootIndex step inst < s.control.boot.length) (hr : result < 16) (hx : next < 16) :
    (s.bootSkips step inst (fails + 1) result next).BootFailed now step inst (n + 1) := by
  unfold State.bootSkips
  split
  · next c hc =>
    have hb := Control.skipped_boot hc
    obtain ⟨u1, u2, -⟩ := ({ s with control := c } : State).unconfigureFenced_spec
    obtain ⟨-, -, o3, -, o5, -⟩ := ((({ s with control := c } : State).unconfigureFenced.putBoot step inst (fails + 1) result next).bootOn_spec step inst)
    refine State.bootFailed_of (State.bootFailed_mono (State.bootFailed_putBoot fails result next (u2 _ n hl) ?_ hr hx) (Nat.le_succ n)) o3 (by rw [o5])
    rw [u1]
    exact hb ▸ hi
  · exact (State.bootStops_spec _ step inst).2.2 now n hn (State.bootFailed_putBoot fails result next hl hi hr hx)
/-- R318, R380: the alternate of a unit that has failed runs, or fails as well. -/
theorem State.bootAlt_failed (s : State) {now step inst n : Nat} (fails : Nat) (hl : s.logs0 (bootWords now 0 step inst) n) (hn : n < 254)
    (hi : bootIndex step inst < s.control.boot.length) : (s.bootAlt step inst (fails + 1)).BootFailed now step inst (n + 2) := by
  have next : fldN (s.control.boot.getD (bootIndex step inst) 0) 32 4 < 16 := fldN_lt _ 32 4
  unfold State.bootAlt
  dsimp only
  split
  · obtain ⟨-, -, e3, e4, -⟩ := (s.putBoot step inst (fails + 1) 3 2).bootEffect_spec step inst
    obtain ⟨-, -, o3, -, o5, -⟩ := ((s.putBoot step inst (fails + 1) 3 2).bootEffect step inst).bootOn_spec step inst
    exact State.bootFailed_of (State.bootFailed_mono (State.bootFailed_putBoot fails 3 2 hl hi (by omega) (by omega)) (by omega)) (o3.trans e3)
      (by rw [o5, ← e4])
  · obtain ⟨-, r2, r3, -, -⟩ := s.bootRecord_spec 1 step inst
    have hl' := r2 _ n (by omega) hl
    have hi' : bootIndex step inst < (s.bootRecord 1 step inst).control.boot.length := by rwa [r3]
    split
    · exact State.bootSkips_failed _ _ _ _ hl' (by omega) hi' (by omega) next
    · exact (State.bootStops_spec _ step inst).2.2 now _ (by omega) (State.bootFailed_putBoot _ _ _ hl' hi' (by omega) next)

end Sys2Proof.Machine

namespace Sys2Proof.Machine
open Sys2Proof

/-- R320, R380: a die, and every die east of it, is fenced. -/
theorem Control.mem_fenceDie (c : Control) (d e : Nat) (he : e < 4) (hd : d ≤ e) : e ∈ (c.fenceDie d).fencedDies := by
  have : e ∈ [0, 1, 2, 3] := by simp only [List.mem_cons, List.not_mem_nil, or_false]; omega
  simp [Control.fenceDie, List.mem_eraseDups, this, hd]
/-- R318: a skip that fences something goes on without it. -/
theorem State.bootSkips_eq {s : State} {step inst : Nat} {c : Control} (h : s.control.skipped step inst = some c) (fails result next : Nat) :
    s.bootSkips step inst fails result next =
      (({ s with control := c } : State).unconfigureFenced.putBoot step inst fails result next).bootOn step inst := by
  rw [State.bootSkips, h]
/-- What a skip fences stays fenced; a partition that holds a fenced die is absent. -/
theorem State.bootSkips_fences {s : State} {step inst : Nat} {c : Control} (h : s.control.skipped step inst = some c) (fails result next : Nat) :
    let t := s.bootSkips step inst fails result next
    t.control.fencedDies = c.fencedDies ∧ t.control.fencedPorts = c.fencedPorts ∧
      ∀ p d, p < 4 → d ∈ (s.part p).cfg.dies → d ∈ c.fencedDies → t.part p = Part.reset := by
  rw [State.bootSkips_eq h]
  obtain ⟨u1, -, u3⟩ := ({ s with control := c } : State).unconfigureFenced_spec
  generalize ({ s with control := c } : State).unconfigureFenced = u at *
  obtain ⟨-, -, -, o4, o5, -⟩ := (u.putBoot step inst fails result next).bootOn_spec step inst
  refine ⟨?_, ?_, fun p d hp hd hc => ?_⟩
  · have : u.control.fencedDies = c.fencedDies := by rw [u1]
    rw [o5, ← this]
    rfl
  · have : u.control.fencedPorts = c.fencedPorts := by rw [u1]
    rw [o5, ← this]
    rfl
  · rw [State.part, o4]
    exact u3 p hp (List.any_eq_true.mpr ⟨d, hd, List.contains_iff_mem.mpr hc⟩)

/-- R318, R380: what follows the first failure of a unit: its alternate, its skip, or the end of the boot. -/
def State.bootRetries (s : State) (step inst fails : Nat) : State :=
  if bootAlternate step then s.bootAlt step inst fails else if bootSkip step then s.bootSkips step inst fails 1 0 else s.bootStops step inst
/-- A boot step whose unit is there and has no choice for its next boot runs it as it is; a unit that fails leaves its record. -/
theorem exec_bootStep (s : State) (step inst : Nat) (hs : s.subject = [step, inst]) (ha : s.control.bootAt = some (step, inst))
    (hp : s.control.absent step inst = false) (h8 : step = 8 → ∀ p, p < 4 → (s.part p).gangs = [] ∧ (s.part p).saved = [])
    (hn : fldN (s.control.boot.getD (bootIndex step inst) 0) 32 4 = 0) :
    let e := s.control.boot.getD (bootIndex step inst) 0
    exec .bootStep s = .next (if s.bootRuns step inst false then ((s.putBoot step inst (bootFails e) 0 0).bootEffect step inst).bootOn step inst
      else ((s.bootRecord 0 step inst).putBoot step inst (bootFails e + 1) 1 0).bootRetries step inst (bootFails e + 1)) := by
  have e0 : s.subj 0 = step := by simp [State.subj, hs]
  have e1 : s.subj 1 = inst := by simp [State.subj, hs]
  have idle : (Decidable.decide (step = 8) && [0, 1, 2, 3].any fun (p : Nat) => !((s.part p).gangs.isEmpty && (s.part p).saved.isEmpty)) = false := by
    by_cases h : step = 8
    · simp [h8 h]
    · simp [h]
  show execBootStep s = _
  simp only [execBootStep, e0, e1, ha, ne_eq, not_true, if_false, hp, Bool.false_eq_true, idle, hn, Nat.zero_ne_one, decide_false,
    Bool.false_and, Nat.reduceEqDiff, State.bootRetries]
  split <;> rfl
/-- R318, R322: whether a unit runs as it is. -/
theorem State.bootRuns_iff (s : State) (step inst : Nat) : s.bootRuns step inst false = true ↔
    Config.bootPasses step inst false s.control.bootCount = true ∧
      (step = 0 → Config.signatureValid (Config.firmwareImage 0) = true ∧ s.control.rollback ≤ Config.securityVersion (Config.firmwareImage 0)) := by
  simp only [State.bootRuns, State.imageTaken, Bool.and_eq_true, Bool.or_eq_true, decide_eq_true_eq, Nat.ble_eq, ne_eq,
    Bool.false_eq_true, if_false, Decidable.imp_iff_not_or]

end Sys2Proof.Machine

namespace Sys2Proof.Machine
open Sys2Proof

/-- R318, R319, R324: what a unit that runs as it is brings about. -/
theorem State.bootRan_spec (s : State) (step inst fails : Nat) (hi : bootIndex step inst < s.control.boot.length) :
    let t := ((s.putBoot step inst fails 0 0).bootEffect step inst).bootOn step inst
    KeepsContexts s t ∧ t.mem = s.mem ∧ t.control.boot.getD (bootIndex step inst) 0 = bootEntry step inst fails 0 0 s.control.bootCount ∧
      t.control.bootAt = bootNext step inst ∧ (∀ a b, bootNext step inst = some (a, b) → Scheduled t .bootStep [a, b]) ∧
      t.control.svc = (if step = 4 then 1 else if step = 8 then 2 else s.control.svc) ∧ t.control.fencedDies = s.control.fencedDies ∧
      (step = 1 → inst = 0 → s.control.hssTop < 2 ^ 20 → t.control.hssTop = s.control.hssTop + 1 ∧ t.control.hssLeaf = 0) := by
  obtain ⟨e1, e2, -, e4, e5, e6, e7⟩ := (s.putBoot step inst fails 0 0).bootEffect_spec step inst
  obtain ⟨o1, o2, -, -, o5, o6⟩ := ((s.putBoot step inst fails 0 0).bootEffect step inst).bootOn_spec step inst
  refine ⟨fun k => congrArg (fun c => Sp.get Ctx.reset c k) (o1.trans e1), o2.trans e2, ?_, by rw [o5], o6, ?_, ?_, fun h1 h0 ht => ?_⟩
  · rw [o5, ← State.boot_putBoot s step inst fails 0 0 hi, ← e4]
  · rw [o5]; exact e6
  · rw [o5]; exact e5
  · rw [o5]; exact e7 h1 h0 ht
/-- R321, R361, R380: a unit that fails leaves its record, and its entry counts the failure, whatever follows. -/
theorem State.bootRetries_failed (s : State) {now step inst : Nat} (fails : Nat) (h : s.BootFailed now step inst 0)
    (hi : bootIndex step inst < s.control.boot.length) : (s.bootRetries step inst (fails + 1)).BootFailed now step inst 2 := by
  unfold State.bootRetries
  split
  · exact s.bootAlt_failed fails h.1 (by omega) hi
  · split
    · exact State.bootFailed_mono (s.bootSkips_failed fails 1 0 h.1 (by omega) hi (by omega) (by omega)) (by omega)
    · exact State.bootFailed_mono ((s.bootStops_spec step inst).2.2 now 0 (by omega) h) (by omega)
/-- R318-R321, R380: what a unit that fails leaves. -/
theorem State.bootFailure_spec (s : State) (step inst fails : Nat) (hi : bootIndex step inst < s.control.boot.length) :
    let t := ((s.bootRecord 0 step inst).putBoot step inst (fails + 1) 1 0).bootRetries step inst (fails + 1)
    Reports t 0 0x2a 0 0 0 0 0 0 0 (pack [(8, step), (0, inst)]) 0 ∧ fldN (t.control.boot.getD (bootIndex step inst) 0) 40 8 ≠ 0 ∧
      (step = 4 ∨ step = 8 → t.control.svc = 3 ∧ Reports t 0 0x2a 2 0 0 0 0 0 0 (pack [(8, step), (0, inst)]) 0) ∧
      (step = 6 → ∀ d, d < 4 → inst < d → d ∈ t.control.fencedDies ∧ ∀ p, p < 4 → d ∈ (s.part p).cfg.dies → t.part p = Part.reset) ∧
      (step = 7 → inst ∈ t.control.fencedPorts) := by
  obtain ⟨r1, -, r3, -, r5⟩ := s.bootRecord_spec 0 step inst
  have hi' : bootIndex step inst < (s.bootRecord 0 step inst).control.boot.length := by rwa [r3]
  have cfg (p : Nat) : (((s.bootRecord 0 step inst).putBoot step inst (fails + 1) 1 0).part p).cfg = (s.part p).cfg := r5 p
  have hu := State.bootFailed_putBoot fails 1 0 r1 hi' (by omega) (by omega)
  have hl := (State.bootLength_putBoot (s.bootRecord 0 step inst) step inst (fails + 1) 1 0).symm ▸ hi'
  generalize (s.bootRecord 0 step inst).putBoot step inst (fails + 1) 1 0 = u at *
  obtain ⟨t1, t2⟩ := u.bootRetries_failed fails hu hl
  refine ⟨reports_of_logs0 t1, t2, fun h => ?_, fun h d hd hid => ?_, fun h => ?_⟩
  · have stops : u.bootRetries step inst (fails + 1) = u.bootStops step inst := by rcases h with rfl | rfl <;> rfl
    obtain ⟨c, l, -⟩ := u.bootStops_spec step inst
    rw [stops]
    exact ⟨by rw [c], reports_of_logs0 l⟩
  · subst h
    have mem := u.control.mem_fenceDie (inst + 1) d hd hid
    obtain ⟨f1, -, f3⟩ := State.bootSkips_fences (s := u) (step := 6) (inst := inst) rfl (fails + 1) 1 0
    exact ⟨f1 ▸ mem, fun p hp hdp => f3 p d hp ((cfg p).symm ▸ hdp) mem⟩
  · subst h
    obtain ⟨-, f2, -⟩ := State.bootSkips_fences (s := u) (step := 7) (inst := inst) rfl (fails + 1) 1 0
    exact f2 ▸ List.mem_eraseDups.mpr List.mem_cons_self

end Sys2Proof.Machine

namespace Sys2Proof.Machine
open Sys2Proof

/-! Totality (log 26): every operation answers a next state, and so does every step of a device whose boot has not stopped. -/

/-- An operation answers a next state, neither a fault nor a refusal. -/
def Res.Goes (r : Res) : Prop := ∃ t, r = .next t

theorem Res.goes_next (t : State) : Res.Goes (.next t) := ⟨t, rfl⟩

theorem Res.goes_ite {c : Prop} [Decidable c] {a b : Res} (ha : a.Goes) (hb : b.Goes) : Res.Goes (if c then a else b) := by
  split
  · exact ha
  · exact hb

theorem Res.Goes.andThen {r : Res} {f : State → Res} (h : r.Goes) (hf : ∀ t, (f t).Goes) : (r.andThen f).Goes := by
  obtain ⟨t, rfl⟩ := h
  exact hf t

/-! The operations that wait for something first: what they do then is all that can keep them from going. -/

theorem Res.Goes.performs (s : State) (i : Instr) {f : State → Res} (hf : ∀ t, (f t).Goes) : (s.performs i f).Goes := by
  unfold State.performs
  extract_lets l mine denied taken others also
  split
  · exact Res.goes_next _
  · obtain ⟨t, ht⟩ := hf { s with attempt := some ⟨denied, taken, none⟩ }
    rw [ht]
    dsimp only
    split <;> exact Res.goes_next _

theorem Res.Goes.inTurn (s : State) (msg : Nat) (i : Instr) {f : State → Res} (hf : ∀ t, (f t).Goes) : (s.inTurn msg i f).Goes := by
  unfold State.inTurn
  split
  · exact hf s
  · exact Res.goes_ite (Res.goes_next _) (hf _)

theorem Res.Goes.withTable (s : State) (w : Who) (die : Nat) (e : BitVec 128) {f : State → Res} (hf : ∀ t, (f t).Goes) :
    (s.withTable w die e f).Goes := by
  unfold State.withTable
  extract_lets
  split
  · exact hf s
  · exact Res.goes_ite (Res.goes_next _) (hf s)

theorem Res.goes_service (s : State) (f : Nat → Nat → Ctx → State) : (s.service f).Goes :=
  Res.goes_ite (Res.goes_next _) (Res.goes_next _)

/-! What an operation does once it has its turn and its accesses. -/

theorem State.startSub_goes (die comm : Nat) (s : State) : (s.startSub die comm).Goes := by
  unfold State.startSub
  repeat' first | with_reducible exact Res.goes_next _ | extract_lets | split

theorem State.applyChange_goes (die comm : Nat) (s : State) : (s.applyChange die comm).Goes := by
  unfold State.applyChange
  repeat' first | with_reducible exact Res.goes_next _ | extract_lets | split

theorem State.sendRow_goes (msg : Nat) (s : State) : (s.sendRow msg).Goes := by
  unfold State.sendRow
  repeat' first | with_reducible exact Res.goes_next _ | extract_lets | split

theorem State.replayEntry_goes (die comm slot : Nat) (l : List Nat) (s : State) : (s.replayEntry die comm slot l).Goes := by
  unfold State.replayEntry
  repeat' first | with_reducible exact Res.goes_next _ | extract_lets | split

theorem State.finishQuery_goes (ple : Nat) (s : State) : (s.finishQuery ple).Goes := by
  unfold State.finishQuery
  repeat' first | with_reducible exact Res.goes_next _ | extract_lets | split

theorem execCollectiveStart_goes (die comm : Nat) (s : State) : (execCollectiveStart die comm s).Goes := by
  refine Res.Goes.performs s _ fun t => ?_
  split
  · exact Res.goes_next t
  · exact Res.Goes.withTable t _ _ _ (State.startSub_goes die comm)

theorem execMembershipApply_goes (die comm : Nat) (s : State) : (execMembershipApply die comm s).Goes :=
  Res.Goes.performs s _ fun t =>
    Res.goes_ite (Res.Goes.withTable t _ _ _ (State.applyChange_goes die comm)) (Res.goes_next t)

theorem execRoutedRowSend_goes (msg : Nat) (s : State) : (execRoutedRowSend msg s).Goes := by
  refine Res.Goes.performs s _ fun t => ?_
  split
  · exact Res.goes_ite (Res.Goes.withTable t _ _ _ (State.sendRow_goes msg)) (Res.goes_next t)
  · exact Res.goes_next t

theorem execSpareJoin_goes (die comm slot : Nat) (s : State) : (execSpareJoin die comm slot s).Goes := by
  unfold execSpareJoin
  extract_lets e t
  refine Res.goes_ite (Res.goes_next t) ?_
  split
  · exact Res.goes_next _
  · exact Res.Goes.performs t _ (State.replayEntry_goes die comm slot _)
  · exact Res.goes_ite (Res.goes_next _) (Res.goes_next t)
  · exact Res.goes_next _

theorem execPlQueryComplete_goes (ple : Nat) (s : State) : (execPlQueryComplete ple s).Goes :=
  Res.goes_ite (Res.goes_next _) (Res.Goes.performs s _ (State.finishQuery_goes ple))

theorem execCpCurSave_goes (ch : BitVec 2) (td an : BitVec 4) (pm : Bool) (off : BitVec 10) (h : Bool) (s : State) :
    (execCpCurSave ch td an pm off h s).Goes := by
  unfold execCpCurSave
  extract_lets row id d err
  cases err with
  | none => exact Res.goes_next _
  | some e => exact Res.goes_ite (Res.goes_next _) (Res.goes_next _)

theorem execLuAccess_goes (acc : Nat) (s : State) : (execLuAccess acc s).Goes := by
  unfold execLuAccess
  split
  · exact Res.goes_next s
  · refine Res.goes_ite (Res.goes_next s) (Res.goes_ite (Res.goes_next _) ?_)
    split
    · exact Res.goes_next _
    · refine Res.goes_ite (Res.goes_next _) ?_
      extract_lets h before t a v u
      clear_value v
      repeat' first | with_reducible exact Res.goes_next _ | extract_lets | split

/-- Every operation answers a next state. Where an operation waits, or asks a table, first, its rule above applies; the others only compute: each
branch of their definitions, through its bindings and its cases, ends in a next state. -/
theorem exec_goes (i : Instr) (s : State) : Res.Goes (exec i s) := by
  cases i
  case collectiveStart die comm => exact execCollectiveStart_goes die comm s
  case membershipApply die comm => exact execMembershipApply_goes die comm s
  case routedRowSend msg => exact execRoutedRowSend_goes msg s
  case spareJoin die comm slot => exact execSpareJoin_goes die comm slot s
  case plQueryComplete ple => exact execPlQueryComplete_goes ple s
  case cpCurSave ch td an pm off h => exact execCpCurSave_goes ch td an pm off h s
  case luAccess acc => exact execLuAccess_goes acc s
  case tsysNull | cycleCount | overflowAreaQuery | communicatorCreate | membershipChange | communicatorDelete =>
    dsimp only [exec]
    delta execTsysNull execCycleCount execOverflowAreaQuery execCommunicatorCreate execMembershipChange execCommunicatorDelete
    exact Res.goes_service s _
  case recastRewrite | chunkSendStart | switchReduce =>
    refine Res.Goes.performs s _ fun t => ?_
    delta State.rewriteAll State.sendChunk State.reduceChunk
    repeat' first | with_reducible exact Res.goes_next _ | extract_lets | split
  case joinArrival | presenceQuery | chainPairArrival =>
    refine Res.Goes.inTurn s _ _ fun t => ?_
    delta State.takeJoin State.takeAnswer State.takePair
    repeat' first | with_reducible exact Res.goes_next _ | extract_lets | split
  case copyChunkArrival | routedRowArrival =>
    refine Res.Goes.inTurn s _ _ fun t => Res.Goes.performs t _ fun u => ?_
    delta State.takeChunk State.takeRouted
    repeat' first | with_reducible exact Res.goes_next _ | extract_lets | split
  case smov | lbody | mts | amov | cpCurSet | rcast | wfeed | wgroup | wsum | wretire | wsend | wfmt | wloop | wjump | wwait | wend |
    groupEntry | conditionClears | heldReissue | resultArrival | loopPassEnd | knotArrival | knotAnnouncement | knotRelease |
    exchangeGrant | preemptSave | gangRestore | withheldRelease | copyRequest | copyRowWrite | fillRowWrite | xselRowWrite |
    matrixEntryStart | kblockRetire | entryRetire | xformRun | collector | recastSeal | sealReceive | invalidationMarker | markerWatchdog
    | seOperationPerform | seGrantArrival | joinTimeout | presenceTimeout | transferTimeout | collectiveAbort | collectiveComplete |
    switchGroupLoad | plQueryAccept | qtailWrite | qcfgEnable | qcfgDisable | qcfgConfig | cheadWrite | ecfgEnable | ecfgDisable |
    eheadWrite | ebrkContinue | ebrkTerminate | registerWrite | recordRead | placementDecision | groupComplete | completionRecordWrite |
    partitionConfigure | hostCxlMemAccess | clockStepUp | dutyUpdate | bootStep | getMeasurements | vendorDefinedRequest | retry | cont |
    terminate | freeze | brkRecordWrite | faultResolve | migration | stubForward | directoryRequest | stubTimeout | reclaimGrant |
    remoteNack | remoteTimeout | knotTimeout | knotSecondTimeout | terminationTimeout | partitionReset | routerIdleTimeout |
    umtuicCodewordError | d2dCrcError | storageUncorrectable | dutyFrameBoundary | earlierEpochAnswer =>
    dsimp only [exec]
    delta execSmov execLbody execMts execAmov execCpCurSet execRcast execWfeed execWgroup execWsum execWretire execWsend execWfmt
      execWloop execWjump execWwait execWend execGroupEntry execConditionClears execHeldReissue execResultArrival execLoopPassEnd
      execKnotArrival execKnotAnnouncement execKnotRelease execExchangeGrant execPreemptSave execGangRestore execWithheldRelease
      execCopyRequest execCopyRowWrite execFillRowWrite execXselRowWrite execMatrixEntryStart execKblockRetire execEntryRetire
      execXformRun execCollector execRecastSeal execSealReceive execInvalidationMarker execMarkerWatchdog execSeOperationPerform
      execSeGrantArrival execJoinTimeout execPresenceTimeout execTransferTimeout execCollectiveAbort execCollectiveComplete
      execSwitchGroupLoad execPlQueryAccept execQtailWrite execQcfgEnable execQcfgDisable execQcfgConfig execCheadWrite execEcfgEnable
      execEcfgDisable execEheadWrite execEbrkContinue execEbrkTerminate execRegisterWrite execRecordRead execPlacementDecision
      execGroupComplete execCompletionRecordWrite execPartitionConfigure execHostCxlMemAccess execClockStepUp execDutyUpdate execBootStep
      execGetMeasurements execVendorDefinedRequest execRetry execCont execTerminate execFreeze execBrkRecordWrite execFaultResolve
      execMigration execStubForward execDirectoryRequest execStubTimeout execReclaimGrant execRemoteNack execRemoteTimeout execKnotTimeout
      execKnotSecondTimeout execTerminationTimeout execPartitionReset execRouterIdleTimeout execUmtuicCodewordError execD2dCrcError
      execStorageUncorrectable execDutyFrameBoundary execEarlierEpochAnswer
    repeat' first | with_reducible exact Res.goes_next _ | extract_lets | split
  all_goals exact Res.goes_next _

/-! Issuing a bundle, a core's turn, and what happens next. -/

theorem State.issueLane_goes (s : State) (b : Bundle) (i : Nat) (again : List (Nat × Lane)) (l : Lane) :
    (s.issueLane b i again l).Goes := by
  unfold State.issueLane
  split
  · exact (Res.goes_ite (exec_goes _ _) (Res.goes_next _)).andThen fun t => Res.goes_next _
  · refine Res.goes_ite ((exec_goes _ s).andThen fun t => ?_) (Res.goes_next s)
    split
    · exact exec_goes _ _
    · exact Res.goes_next t

theorem State.issueLanes_goes (b : Bundle) (i : Nat) (again : List (Nat × Lane)) (l : List Lane) (s : State) :
    (State.issueLanes b i again l s).Goes := by
  induction l generalizing s with
  | nil => exact Res.goes_next s
  | cons l r ih => exact (s.issueLane_goes b i again l).andThen ih

theorem State.runBundle_goes (s : State) (core slot : Nat) (g : InGroup) : (s.runBundle core slot g).Goes := by
  unfold State.runBundle
  split
  · exact Res.goes_next s
  · exact (exec_goes _ _).andThen fun t =>
      (Res.goes_ite (Res.goes_next t) (exec_goes _ t)).andThen fun t =>
        (State.issueLanes_goes _ _ _ _ t).andThen fun t =>
          (Res.goes_ite (exec_goes _ _) (Res.goes_next t)).andThen fun t => Res.goes_next _

theorem State.turnCore_goes (s : State) (core : Nat) : (s.turnCore core).Goes := by
  unfold State.turnCore
  extract_lets h
  split
  · exact Res.goes_next _
  · extract_lets c
    refine Res.goes_ite (Res.goes_next s) ?_
    split
    · exact s.runBundle_goes core _ _
    · refine Res.goes_ite (Res.goes_next s) (Res.goes_ite (Res.goes_next _) (Res.goes_ite (Res.goes_next s) ?_))
      refine (exec_goes _ s).andThen fun t => ?_
      split
      · exact t.runBundle_goes core _ _
      · exact Res.goes_next t

theorem Pick.go_goes (p : Pick) (s : State) (hp : p ≠ .stopped) : (p.go s).Goes := by
  cases p with
  | stopped => exact absurd rfl hp
  | run i t => exact exec_goes i t
  | unassigned t => exact Res.goes_next _
  | turn core t => exact t.turnCore_goes core
  | tick => exact Res.goes_next _

theorem State.pick_of_stopped {s : State} (h : s.stopped = true) : s.pick = .stopped := if_pos h

/-- A device whose boot has not stopped always has something to do: time goes on. -/
theorem State.pick_ne_stopped {s : State} (h : s.stopped = false) : s.pick ≠ .stopped := by
  unfold State.pick
  rw [h, if_neg Bool.false_ne_true]
  repeat' first | extract_lets | split
  all_goals nofun

theorem step_of_stopped {s : State} (h : s.stopped = true) : step s = .fault .bootStopped := by
  rw [step, State.pick_of_stopped h, Pick.go]

theorem step_goes {s : State} (h : s.stopped = false) : ∃ t, step s = .next t := s.pick.go_goes s (State.pick_ne_stopped h)

end Sys2Proof.Machine

namespace Sys2Proof.Machine
open Sys2Proof

/-- R318: a boot step that runs takes effect and goes on; one that fails leaves its record, and what it fences or stops. -/
theorem exec_bootStep_spec (s : State) (step inst : Nat) (hs : s.subject = [step, inst]) (ha : s.control.bootAt = some (step, inst))
    (hp : s.control.absent step inst = false) (hi : bootIndex step inst < s.control.boot.length)
    (h8 : step = 8 → ∀ p, p < 4 → (s.part p).gangs = [] ∧ (s.part p).saved = [])
    (hn : fldN (s.control.boot.getD (bootIndex step inst) 0) 32 4 = 0) :
    let i := bootIndex step inst
    let e := s.control.boot.getD i 0
    let runs : Prop := Config.bootPasses step inst false s.control.bootCount = true ∧
      (step = 0 → Config.signatureValid (Config.firmwareImage 0) = true ∧ s.control.rollback ≤ Config.securityVersion (Config.firmwareImage 0))
    ∃ t, exec .bootStep s = .next t ∧
      (runs → KeepsContexts s t ∧ t.mem = s.mem ∧ t.control.boot.getD i 0 = bootEntry step inst (bootFails e) 0 0 s.control.bootCount ∧
        t.control.bootAt = bootNext step inst ∧ (∀ a b, bootNext step inst = some (a, b) → Scheduled t .bootStep [a, b]) ∧
        t.control.svc = (if step = 4 then 1 else if step = 8 then 2 else s.control.svc) ∧ t.control.fencedDies = s.control.fencedDies ∧
        (step = 1 → inst = 0 → s.control.hssTop < 2 ^ 20 → t.control.hssTop = s.control.hssTop + 1 ∧ t.control.hssLeaf = 0)) ∧
      (¬runs → Reports t 0 0x2a 0 0 0 0 0 0 0 (pack [(8, step), (0, inst)]) 0 ∧ fldN (t.control.boot.getD i 0) 40 8 ≠ 0 ∧
        (step = 4 ∨ step = 8 → t.control.svc = 3 ∧ Reports t 0 0x2a 2 0 0 0 0 0 0 (pack [(8, step), (0, inst)]) 0) ∧
        (step = 6 → ∀ d, d < 4 → inst < d → d ∈ t.control.fencedDies ∧ ∀ p, p < 4 → d ∈ (s.part p).cfg.dies → t.part p = Part.reset) ∧
        (step = 7 → inst ∈ t.control.fencedPorts)) := by
  intro i e runs
  refine ⟨_, exec_bootStep s step inst hs ha hp h8 hn, fun h => ?_, fun h => ?_⟩
  · rw [if_pos ((s.bootRuns_iff step inst).mpr h)]
    exact s.bootRan_spec step inst (bootFails e) hi
  · rw [if_neg (mt (s.bootRuns_iff step inst).mp h)]
    exact s.bootFailure_spec step inst (bootFails e) hi

/-- R323: the answer to GET MEASUREMENTS is from the version and the code on, with the digest of every measurement asked for. -/
theorem State.measurements_spec (s : State) : s.measurements.take 2 = [s.version, 0x60] ∧
    ∀ n, 1 ≤ n → n ≤ 5 → s.reqByte 3 = n ∨ s.reqByte 3 = 0xff → ∃ x y, s.measurements = x ++ sha384 (s.measured n) ++ y :=
  ⟨s.measurements_head, fun n h1 h5 h => s.measurements_digest n (mem_askedMeasurements h1 h5 h)⟩

/-- Settles O58: the clock, the duties, the boot, device reset and the answers to attestation requests each by the lemma of its operation;
every operation answers a next state, so that a step stops only when the boot has stopped. -/
theorem powerBringUpAndAttestation : Obligations.PowerBringUpAndAttestation := by
  unfold Obligations.PowerBringUpAndAttestation
  refine ⟨exec_supplySag, exec_clockStepUp, exec_dutyUpdate_spec, fun s step inst => ?boot, exec_deviceReset, fun s => ?attest,
    fun s => ⟨step_of_stopped, step_goes⟩⟩
  case boot =>
    intro i e image runs hs ha hp hi h8 hn
    exact exec_bootStep_spec s step inst hs ha hp hi h8 hn
  case attest =>
    refine ⟨exec_getVersion s, negotiates_getCapabilities s, negotiates_negotiateAlgorithms s, certifies_getCertificate s,
      certifies_getDigests s, fun i hi => s.slotMask_bit i hi, signs_challenge s, fun h => ?_, fun h => ?_, exec_vendorDefinedRequest_spec s⟩
    · exact signs_of_respondSigned ((exec_getMeasurements s).trans (if_pos h)) s.measurements_spec
    · exact ⟨_, s.measurements, (exec_getMeasurements s).trans (if_neg (by omega)), s.measurements_spec, ⟨rfl, rfl, fun _ => rfl, rfl⟩,
        rfl, rfl, rfl, rfl⟩

end Sys2Proof.Machine

namespace Sys2Proof.Machine
open Sys2Proof

/-! Fetching a group (R21, R103, R110, R113, R139). -/

theorem State.fetchWord_loopBuffer (s : State) (core part : Nat) {buf : Sp Word64} {a w : Word64} (h : Sp.find buf a.toNat = some w) :
    s.fetchWord core buf part a = some w := by
  simp only [State.fetchWord, h]

theorem State.fetchWord_memory (s : State) {core part : Nat} {buf : Sp Word64} {a : Word64} (h : Sp.find buf a.toNat = none)
    (hl : (s.core core).lineAt part (a.toNat / 64) = none) : s.fetchWord core buf part a = s.readPart part a.toNat := by
  simp only [State.fetchWord, h, hl]
  cases s.readPart part a.toNat <;> rfl

/-- Which of the two the cache serves is the model's choice (log 32). -/
theorem State.fetchWord_line (s : State) {core part : Nat} {buf : Sp Word64} {a : Word64} {l : Line} (h : Sp.find buf a.toNat = none)
    (hl : (s.core core).lineAt part (a.toNat / 64) = some l) (hr : (s.readPart part a.toNat).isSome = true) :
    s.fetchWord core buf part a = s.readPart part a.toNat ∨ s.fetchWord core buf part a = some (l.words.getD (a.toNat % 64 / 8) 0) := by
  obtain ⟨w, hw⟩ := Option.isSome_iff_exists.mp hr
  simp only [State.fetchWord, h, hl, hw]
  split
  · exact .inr rfl
  · exact .inl rfl

/-- What is fetched from an address is nothing, or a bundle at that address, alone or before what is fetched from the address after it. -/
theorem State.fetchGroup_cases (s : State) (core : Nat) (buf : Sp Word64) (part n : Nat) (a : Word64) :
    (s.fetchGroup core buf part (n + 1) a).1 = [] ∨ ∃ f : Fetched, f.addr = a ∧
      ((s.fetchGroup core buf part (n + 1) a).1 = [f] ∨
        (s.fetchGroup core buf part (n + 1) a).1 = f :: (s.fetchGroup core buf part n (a + BitVec.ofNat 64 (8 * bundleWords f.head))).1) := by
  rw [State.fetchGroup]
  split
  · exact .inl rfl
  · next h _ =>
    split
    · exact .inl rfl
    · next ws _ =>
      refine .inr ⟨⟨a, h, ws⟩, rfl, ?_⟩
      dsimp only
      split
      · exact .inl rfl
      · exact .inr rfl

/-- Bundle i of a fetched group stands behind the stored lengths of the bundles before it. -/
theorem State.fetchGroup_addr (s : State) (core : Nat) (buf : Sp Word64) (part n : Nat) (a : Word64) {i : Nat} {f : Fetched}
    (hf : (s.fetchGroup core buf part n a).1[i]? = some f) :
    f.addr = a + BitVec.ofNat 64 (8 * (((s.fetchGroup core buf part n a).1.take i).map fun f => bundleWords f.head).sum) := by
  induction n generalizing a i with
  | zero => simp [State.fetchGroup] at hf
  | succ n ih =>
    obtain h | ⟨e, rfl, h⟩ := s.fetchGroup_cases core buf part n a
    · simp [h] at hf
    · cases i with
      | zero =>
        have he : e = f := by obtain h | h := h <;> simpa [h] using hf
        simp [he]
      | succ i =>
        obtain h | h := h
        · simp [h] at hf
        · rw [h, List.getElem?_cons_succ] at hf
          rw [h, List.take_succ_cons, List.map_cons, List.sum_cons, ih _ hf, BitVec.add_assoc, ← BitVec.ofNat_add, Nat.mul_add]

/-! What the landings of a tick, the loop buffer and the instruction cache leave (R21, R114, R139, R170). -/

theorem Ctx.iss_ringLanded (c : Ctx) (ring n : Nat) : (c.ringLanded ring n).iss = c.iss := by
  unfold Ctx.ringLanded
  obtain h | ⟨r, h⟩ := Ctx.advanceTail_cases { c with owed := c.owed.filter fun o => o ≠ (ring, n) } ring 4096 <;> rw [h]

theorem iss_landRings (l : List RingDue) (h : Core) (c : Ctx) : (landRings l h c).2.iss = c.iss := by
  induction l generalizing h c with
  | nil => rfl
  | cons d r ih => rw [landRings, ih, Ctx.iss_ringLanded]

theorem State.iss_landRingRows (s : State) (core slot : Nat) (due : RingDue → Bool) :
    ((s.landRingRows core slot due).ctx (Machine.ck core slot)).iss = (s.ctx (Machine.ck core slot)).iss := by
  rw [State.landRingRows, State.ctx_setCtx_same, iss_landRings]

theorem State.iss_beginTick (s : State) (core slot : Nat) :
    ((s.beginTick core slot).ctx (Machine.ck core slot)).iss = (s.ctx (Machine.ck core slot)).iss := by
  rw [State.beginTick, State.iss_landRingRows, State.ctx_setCtx_same, Ctx.landAt]

theorem Ctx.regs_fillLoop (c : Ctx) (fs : List Fetched) : (c.fillLoop fs).regs = c.regs := by
  unfold Ctx.fillLoop
  split <;> rfl

theorem State.ctxs_cacheLine (s : State) (core part line : Nat) : (s.cacheLine core part line).ctxs = s.ctxs := by
  unfold State.cacheLine
  dsimp only
  split
  · rfl
  · split <;> rfl

theorem State.ctx_cacheLines (s : State) (core part : Nat) (buf : Sp Word64) (fs : List Fetched) (k : Nat) :
    (s.cacheLines core part buf fs).ctx k = s.ctx k := by
  rw [State.cacheLines, State.ctx_bump, State.ctx, State.ctx]
  congr 1
  exact List.foldlRecOn (motive := fun t : State => t.ctxs = s.ctxs) _ _ rfl fun t ht l _ => (t.ctxs_cacheLine core part l).trans ht

/-! A body passed over (R139). -/

theorem State.passOver_of_no_skip (s : State) {core slot : Nat} (h : (s.ctx (Machine.ck core slot)).iss.skip = 0) : s.passOver core slot = s :=
  if_pos h

/-- Passing over a body moves the program counter and what is left to skip, and keeps registers and group. -/
theorem State.passOver_keeps (s : State) (core slot : Nat) :
    ((s.passOver core slot).ctx (Machine.ck core slot)).regs = (s.ctx (Machine.ck core slot)).regs ∧
      ((s.passOver core slot).ctx (Machine.ck core slot)).grp = (s.ctx (Machine.ck core slot)).grp := by
  unfold State.passOver
  dsimp only
  split
  · exact ⟨rfl, rfl⟩
  · rw [State.ctx_setCtx_same]
    exact ⟨rfl, rfl⟩

/-! A context that does not enter a group stays in none (R29, R30). -/

theorem State.grp_takeEvent (s : State) (core slot code sub bidx lane : Nat) (held def_ : Bool) (pc : Word64) (tick : Nat) (info aux : Word64)
    (bundle : List Word64) (inGroup : Bool) :
    ((s.takeEvent core slot code sub bidx lane held def_ pc tick info aux bundle inGroup).ctx (Machine.ck core slot)).grp = none := by
  obtain ⟨⟨_, h⟩, -⟩ := s.takeEvent_spec core slot code sub bidx lane held def_ pc tick info aux bundle inGroup
  rw [h]

theorem State.ctx_stops (s : State) (core slot k : Nat) : (s.stops core slot).ctx k = s.ctx k := by
  rw [State.ctx, (State.stops_keeps s core slot).1, State.ctx]

theorem State.grp_block (s : State) (core slot : Nat) (c : Cond) :
    ((s.block core slot c).ctx (Machine.ck core slot)).grp = (s.ctx (Machine.ck core slot)).grp := by
  rw [State.block, State.ctx_stops, State.ctx_setCtx_same]

/-! The checks of group entry that let a group in (R113). -/

theorem length_issuedForms (c : Ctx) (bs : List Bundle) (l : List Item) : (issuedForms c bs l).length = bs.length := by
  rw [issuedForms, List.length_map, List.length_zipIdx]

/-- The group that the checks let in: the decoded bundles at their addresses with their issued forms, from the first on. -/
theorem State.checkGroup_go {s : State} {core slot : Nat} {fs : List Fetched} {bs : List Bundle} {ahead : Bool} {g : InGroup}
    (h : s.checkGroup core slot fs bs ahead = .go g) :
    let c := s.ctx (Machine.ck core slot)
    g.start = c.iss.pc ∧ g.tick0 = c.iss.tick ∧ g.idx = 0 ∧
      (∃ forms, forms.length = bs.length ∧ g.bundles = (fs.map Fetched.addr).zip (bs.zip forms)) ∧
      ∀ f, fs.getLast? = some f → g.next = f.addr + BitVec.ofNat 64 (8 * bundleWords f.head) := by
  intro c
  have hiss : ((s.beginTick core slot).ctx (Machine.ck core slot)).iss = c.iss := s.iss_beginTick core slot
  unfold State.checkGroup at h
  dsimp only at h
  split at h
  · cases h -- check 3 fails
  split at h
  · cases h -- check 4 fails
  split at h
  · cases h -- check 5 fails
  split at h
  · split at h <;> cases h -- check 6 waits or fails
  cases h
  exact ⟨by rw [hiss], by rw [hiss], rfl, ⟨_, length_issuedForms _ _ _, rfl⟩, fun f hf => by simp only [hf]⟩

/-- Group entry lets a group in only from an address that nothing is left to skip at, whose words are all there and decode to bundles. -/
theorem State.entryCheck_go {s : State} {core slot : Nat} {ahead : Bool} {g : InGroup} (h : s.entryCheck core slot ahead = .go g) :
    let c := s.ctx (Machine.ck core slot)
    c.iss.skip = 0 ∧ ∃ fs bs, s.fetchGroup core c.loopBuffer c.place.part 8 c.iss.pc = (fs, none) ∧ decodeGroup fs 0 = .inl bs ∧
      s.checkGroup core slot fs bs ahead = .go g := by
  intro c
  unfold State.entryCheck at h
  dsimp only at h
  split at h
  · cases h -- a misaligned program counter
  split at h
  · cases h -- bundles of a skipped body are left
  next _ hskip =>
  split at h
  · cases h -- a word that cannot be read
  next fs hfetch =>
  split at h
  · cases h -- an illegal encoding
  next bs hdecode => exact ⟨Decidable.not_not.mp hskip, fs, bs, hfetch, hdecode, h⟩

/-- A context in no group is in one after its group entry only when all checks let that group in; its registers stay. -/
theorem entryCheck_of_exec_groupEntry {s t : State} {core slot : Nat} {g : InGroup} (hi : (s.core core).issuing = some slot)
    (hg : (s.ctx (Machine.ck core slot)).grp = none) (h : exec (.groupEntry core) s = .next t) (ht : (t.ctx (Machine.ck core slot)).grp = some g) :
    (s.passOver core slot).entryCheck core slot true = .go g ∧
      (t.ctx (Machine.ck core slot)).regs = (s.ctx (Machine.ck core slot)).regs := by
  obtain ⟨hregs, hgrp⟩ := s.passOver_keeps core slot
  rw [hg] at hgrp
  have h : execGroupEntry core s = .next t := h
  simp only [execGroupEntry, hi] at h
  split at h
  case h_1 => -- a deferred event
    cases h
    rw [State.grp_takeEvent] at ht
    cases ht
  case h_2 =>
    generalize s.passOver core slot = u at *
    split at h
    case h_1 => -- a check that fails
      cases h
      rw [State.grp_takeEvent] at ht
      cases ht
    case h_2 => -- a condition that does not hold yet
      split at h <;> cases h
      · rw [State.grp_block, hgrp] at ht
        cases ht
      · rw [hgrp] at ht
        cases ht
    case h_3 g' hgo =>
      cases h
      rw [State.ctx_cacheLines, State.ctx_setCtx_same] at ht ⊢
      cases ht
      exact ⟨hgo, (Ctx.regs_fillLoop _ _).trans hregs⟩

/-- Settles O6: a group is entered only when every check lets it in, so its bundles are the decoded words of its fetch; a fetched bundle stands
behind the stored lengths of those before it. -/
theorem groupEntryTakesDecodedBundles : Obligations.GroupEntryTakesDecodedBundles := by
  unfold Obligations.GroupEntryTakesDecodedBundles
  refine ⟨?entered, fun s core slot => s.passOver_of_no_skip, fun s core part buf a =>
    ⟨fun w => s.fetchWord_loopBuffer core part, s.fetchWord_memory, fun l => s.fetchWord_line⟩⟩
  intro s t core slot g u c hi hg h ht
  obtain ⟨hgo, hregs⟩ := entryCheck_of_exec_groupEntry hi hg h ht
  obtain ⟨hskip, fs, bs, hfetch, hdecode, hcheck⟩ := State.entryCheck_go hgo
  obtain ⟨hstart, htick, hidx, ⟨forms, hlen, hbundles⟩, hnext⟩ := State.checkGroup_go hcheck
  refine ⟨fs, bs, hfetch, hdecode, ?bundles, hidx, hstart, hskip, hnext, fun i hf => ?addr, htick, hregs⟩
  case bundles =>
    calc g.bundles.map (fun e => (e.1, e.2.1)) = (fs.map Fetched.addr).zip ((bs.zip forms).map Prod.fst) := by
          rw [hbundles, List.zip_map_right]; rfl
      _ = (fs.map Fetched.addr).zip bs := by rw [List.map_fst_zip (Nat.le_of_eq hlen.symm)]
  case addr =>
    obtain ⟨_, ha⟩ := Option.isSome_iff_exists.mp hf
    obtain ⟨f, hfi, -⟩ := Option.map_eq_some_iff.mp ha
    have := u.fetchGroup_addr core c.loopBuffer c.place.part 8 c.iss.pc (i := i) (f := f) (by rw [hfetch]; exact hfi)
    rw [hfi, Option.map_some, this, hfetch]

end Sys2Proof.Machine

namespace Sys2Proof.Machine
open Sys2Proof

/-! Hardwired registers and gathered flags (R91, R127). -/

/-- What a result gathers in `fmt`. -/
theorem getLsbD_gathered (x : Word64) (f : FFlags) (i : Nat) (h : i < 64) :
    (x ||| (BitVec.setWidth 64 f <<< 40)).getLsbD i = (x.getLsbD i || (decide (40 ≤ i) && f.getLsbD (i - 40))) := by
  by_cases h40 : i < 40
  · simp [h, h40, Nat.not_le.mpr h40]
  · simp [h, h40, Nat.not_lt.mp h40]
/-- A result that lands elsewhere than in `fmt` changes `fmt` by its flags only. -/
theorem Regs.fmt_land (g : Regs) {r : Result} (h : r.dest ≠ .fmt) :
    (g.land r).fmt = g.fmt ||| (BitVec.setWidth 64 r.flags <<< 40) := by
  unfold Regs.land
  dsimp only
  cases hd : r.dest with
  | fmt => exact absurd hd h
  | s n | p n => dsimp only; split <;> rfl
  | cursor n => dsimp only; split <;> rfl
  | _ => rfl
/-- R127: s0 and p0 discard what lands in them. -/
theorem Regs.land_hardwired (g : Regs) {r : Result} (h : r.dest = .s 0 ∨ r.dest = .p 0) :
    g.land r = { g with fmt := g.fmt ||| (BitVec.setWidth 64 r.flags <<< 40) } := by
  rcases h with h | h <;> simp [Regs.land, h]

/-- Settles O9: s0 and p0 discard, and every destination but `fmt` leaves `fmt` with the flags added. -/
theorem hardwiredRegistersAndGatheredFlags : Obligations.HardwiredRegistersAndGatheredFlags :=
  ⟨fun g _ => ⟨rfl, rfl, g.land_hardwired⟩, fun g r h i hi => by rw [g.fmt_land h, getLsbD_gathered _ _ _ hi]⟩

end Sys2Proof.Machine

namespace Sys2Proof.Machine
open Sys2Proof

/-! Microwords that steer a routine (R94, R197, R198). -/

/-- A microword that ends with the routine at an address goes on there. -/
theorem goesOn_microTo {i : Instr} {s : State} {r : MRun} {pc : Nat} (h : exec i s = .next (s.microTo r pc)) :
    GoesOn i s { r with pc := pc } := h
theorem goesOn_microDone {i : Instr} {s : State} {r : MRun} (h : exec i s = .next (s.microDone r)) :
    GoesOn i s { r with pc := r.pc + 1 } := h

section
variable {s : State} {r : MRun} (hr : s.me.active = some r)
include hr

theorem exec_wgroup (a : Bool) (ma : BitVec 3) (b : Bool) (mb : BitVec 3) :
    exec (.wgroup a ma b mb) s = .next (s.microDone { r with sa := if a then some ma else none, sb := if b then some mb else none }) := by
  change execWgroup a ma b mb s = _
  simp only [execWgroup, hr]
theorem exec_wfmt (l : BitVec 3) :
    exec (.wfmt l) s = .next (s.microDone { r with fmt := Sp.get 0 s.me.entry.fmtTab ((Sp.get 0 s.me.entry.li l.toNat).toNat % 16) }) := by
  change execWfmt l s = _
  simp only [execWfmt, hr]
  rfl
theorem exec_wloop (c : BitVec 2) (src : Bool) (m : BitVec 3) (v : BitVec 32) : exec (.wloop c src m v) s =
    .next (s.microDone { r with mlc := Sp.put 0 r.mlc c.toNat (if src then (Sp.get 0 s.me.entry.mp m.toNat).setWidth 32 else v) }) := by
  change execWloop c src m v s = _
  simp only [execWloop, hr]
theorem exec_wjump_always (c : BitVec 2) (a : BitVec 11) : exec (.wjump c 0 a) s = .next (s.microTo r a.toNat) := by
  change execWjump c 0 a s = _
  simp only [execWjump, hr]
  rfl
theorem exec_wjump_zero (c : BitVec 2) (a : BitVec 11) :
    exec (.wjump c 1 a) s = .next (s.microTo r (if Sp.get 0 r.mlc c.toNat = 0 then a.toNat else r.pc + 1)) := by
  change execWjump c 1 a s = _
  simp only [execWjump, hr]
  rw [apply_ite (s.microTo r)]
  rfl
theorem exec_wjump_count (c : BitVec 2) (a : BitVec 11) :
    let n := Sp.get 0 r.mlc c.toNat - 1
    exec (.wjump c 2 a) s = .next (s.microTo { r with mlc := Sp.put 0 r.mlc c.toNat n } (if n ≠ 0 then a.toNat else r.pc + 1)) := by
  change execWjump c 2 a s = _
  simp only [execWjump, hr]
  rw [apply_ite (s.microTo _)]
  rfl
theorem exec_wwait (f n : Bool) : exec (.wwait f n) s =
    if (f && !r.feeds.isEmpty) || (n && !r.sends.isEmpty) then .next (s.micro 1) else .next (s.microDone r) := by
  change execWwait f n s = _
  simp only [execWwait, hr]
/-- R188, R196: `wend` waits for what is in flight, and else ends the routine, whose entry retires a cycle later. -/
theorem exec_wend : exec .wend s = if !r.feeds.isEmpty || !r.sends.isEmpty then .next (s.micro 1)
    else .next ((s.setMe (s.me.setRun { r with ended := some s.now, blocksA := [], blocksB := [] })).later 1 (.entryRetire s.cur.core s.cur.slot) []) := by
  change execWend s = _
  simp only [execWend, hr]
theorem exec_wretire_none (pa pb : Bool) (h : r.feeds = []) : exec (.wretire pa pb) s = .next (s.microDone r) := by
  change execWretire pa pb s = _
  simp only [execWretire, hr, h, List.getLast?_nil]
/-- `wretire` marks the K-block fed last, which its number tells from the others. -/
theorem exec_wretire_last (pa pb : Bool) {fs : List Feed} {f : Feed} (h : r.feeds = fs ++ [f]) (hid : ∀ g ∈ fs, g.id ≠ f.id) :
    exec (.wretire pa pb) s =
      .next (s.microDone { r with feeds := fs ++ [{ f with popA := f.popA || pa, popB := f.popB || pb }] }) := by
  change execWretire pa pb s = _
  simp only [execWretire, hr, h, List.getLast?_append, List.getLast?_singleton, Option.some_or, List.map_append, List.map_cons,
    List.map_nil, if_true]
  rw [List.map_congr_left fun g hg => if_neg (hid g hg), List.map_id']
end

/-- Settles O36: one equation a microword says where its routine goes on. -/
theorem steeringMicrowords : Obligations.SteeringMicrowords := by
  intro s r hr
  dsimp only
  refine ⟨fun a ma b mb => goesOn_microDone (exec_wgroup hr a ma b mb), fun l => goesOn_microDone (exec_wfmt hr l),
    fun c m v => goesOn_microDone (exec_wloop hr c false m v), fun c m v => goesOn_microDone (exec_wloop hr c true m v),
    fun c a => goesOn_microTo (exec_wjump_always hr c a), fun c a => goesOn_microTo (exec_wjump_zero hr c a),
    fun c a => goesOn_microTo (exec_wjump_count hr c a), fun f n h => ?_, fun f n hf hn => ?_, fun h => ?_, fun hf hn => ?_,
    fun pa pb h => goesOn_microDone (exec_wretire_none hr pa pb h), fun pa pb fs f h hid => goesOn_microDone (exec_wretire_last hr pa pb h hid)⟩
  · exact (exec_wwait hr f n).trans (if_pos (by simpa using h))
  · exact goesOn_microDone ((exec_wwait hr f n).trans (if_neg (by simpa [Decidable.not_imp_not] using And.intro hf hn)))
  · exact (exec_wend hr).trans (if_pos (by simpa using h))
  · exact ⟨_, (exec_wend hr).trans (if_neg (by simp [hf, hn])), congrArg (·.matrix.run) (State.me_setMe ..), rfl,
      (congrArg Ctx.regs (State.me_setMe s (s.me.setRun _))).trans rfl⟩

/-! Operations that join the matrix queue (R187, R188). -/

/-- Keeping an engine busy changes, of the context in hand, only until when its engines are busy. -/
theorem State.useEngine_spec (s : State) (engine n : Nat) :
    (∃ b, (s.useEngine engine n).me = { s.me with busy := b }) ∧ KeepsOthers s (s.useEngine engine n) ∧ (s.useEngine engine n).mem = s.mem := by
  unfold State.useEngine
  dsimp only
  split
  · exact ⟨⟨_, rfl⟩, fun _ _ => rfl, rfl⟩
  · exact ⟨⟨_, State.me_setMe ..⟩, fun k hk => State.ctx_setCtx_other _ _ hk, rfl⟩
/-- The entry that an operation adds to the queue: its repetitions and the state captured at issue (R187). -/
def State.entryFor (s : State) (op : Instr) (rep : Option (BitVec 8)) (hi lo : Row) : MEntry :=
  let g := s.me.regs
  { id := s.fresh, op, tick := s.tick, rep := (rep.map BitVec.toNat).getD 0 + 1, mp := g.mp, ma := g.ma, nb := g.nb, ringA := g.ringA.toNat,
    ringB := g.ringB.toNat, fmt := g.fmt.setWidth 32, fmtTab := g.fmtTab, li := g.li, hi, lo, after := s.me.fenceMx,
    epoch := Sp.get 0 s.here.epoch s.cur.slot }
/-- Adding an entry changes, of the context in hand, the queue's end and until when the engine is busy; contexts and memory stay. -/
theorem State.enqueue_spec (s : State) (op : Instr) (rep : Option (BitVec 8)) (hi lo : Row) :
    let t := s.enqueue op rep hi lo
    (∃ b, t.me = { s.me with matrix := { s.me.matrix with queue := s.me.matrix.queue ++ [s.entryFor op rep hi lo] }, busy := b }) ∧
      KeepsOthers s t ∧ KeepsMemory s t := by
  obtain ⟨⟨b, hb⟩, ho, hm⟩ := State.useEngine_spec
    (s.setMe { s.me with matrix := { s.me.matrix with queue := s.me.matrix.queue ++ [s.entryFor op rep hi lo] } }) 2
    (s.entryFor op rep hi lo).rep
  refine ⟨⟨b, ?_⟩, fun k hk => (ho k hk).trans (State.ctx_setCtx_other _ _ hk), fun a => congrArg (Memory.read · a) hm⟩
  rw [State.me_setMe] at hb
  exact hb

/-- Settles O33: each of the three operations is an `enqueue`. -/
theorem matrixOperationsJoinTheQueue : Obligations.MatrixOperationsJoinTheQueue := by
  intro s rt row acc alt rep vh vl
  have reps : (rep.map BitVec.toNat).getD 0 + 1 = match rep with | some n => n.toNat + 1 | none => 1 := by cases rep <;> rfl
  have joins (i : Instr) (hi lo : Row) (h : exec i s = .next (s.enqueue i rep hi lo)) :
      ∃ t, exec i s = .next t ∧ t.me.matrix = { s.me.matrix with queue := s.me.matrix.queue ++ [s.entryFor i rep hi lo] } ∧
        t.me.regs = s.me.regs ∧ t.me.landing = s.me.landing ∧ KeepsOthers s t ∧ KeepsMemory s t := by
    obtain ⟨⟨b, hb⟩, ho, hm⟩ := s.enqueue_spec i rep hi lo
    exact ⟨_, h, by rw [hb], by rw [hb], by rw [hb], ho, hm⟩
  dsimp only
  obtain ⟨t, h1, h2, h3, h4, h5, h6⟩ := joins (.mcall rt acc alt rep) 0 0 rfl
  obtain ⟨u, g1, g2, g3, g4, g5, g6⟩ := joins (.macz acc rep) 0 0 rfl
  obtain ⟨v, f1, f2, f3, f4, f5, f6⟩ := joins (.mwrite vh vl acc row rep) (s.v vh) (s.v vl) rfl
  exact ⟨⟨t, _, h1, h2, rfl, rfl, reps, rfl, rfl, rfl, rfl, rfl, rfl, rfl, rfl, rfl, nofun, h3, h4, h5, h6⟩,
    ⟨u, _, g1, g2, rfl, rfl, reps, rfl, rfl, rfl, rfl, rfl, rfl, rfl, rfl, rfl, nofun, g3, g4, g5, g6⟩,
    ⟨v, _, f1, f2, rfl, rfl, reps, rfl, rfl, rfl, rfl, rfl, rfl, rfl, rfl, rfl,
      fun _ _ _ _ _ e => by cases e; exact ⟨rfl, rfl⟩, f3, f4, f5, f6⟩⟩
end Sys2Proof.Machine

namespace Sys2Proof.Machine
open Sys2Proof

/-! Rows made of lanes (R4, R146). -/

theorem laneNat_ofLanes (w : Nat) (l : List Nat) (j : Nat) : laneNat (ofLanes w l) w j = l[j]?.getD 0 % 2 ^ w := by
  induction l generalizing j with
  | nil => simp [ofLanes, laneNat]
  | cons v l ih =>
    have hv := Nat.mod_lt v (Nat.two_pow_pos w)
    cases j with
    | zero => rw [ofLanes, laneNat_zero _ _ _ hv]; rfl
    | succ j => rw [ofLanes, laneNat_succ _ _ _ _ hv, ih]; rfl
/-- A row reads, lane by lane, as the list that it was made of, and 0 beyond it. -/
theorem laneN_rowOfLanes {w j : Nat} (l : List Nat) (h : (j + 1) * w ≤ 1024) : laneN (rowOfLanes w l) w j = l[j]?.getD 0 % 2 ^ w := by
  rw [rowOfLanes, laneN_ofNat _ _ _ h, laneNat_ofLanes]
theorem lane_fits {w j : Nat} (h : j < 1024 / w) : (j + 1) * w ≤ 1024 :=
  Nat.le_trans (Nat.mul_le_mul_right w h) (Nat.div_mul_le_self 1024 w)
theorem laneN_rowOfLanes_range {w j : Nat} (f : Nat → Nat) (n : Nat) (h : j < 1024 / w) :
    laneN (rowOfLanes w ((List.range n).map f)) w j = if j < n then f j % 2 ^ w else 0 := by
  rw [laneN_rowOfLanes _ (lane_fits h)]
  split
  · next hj => simp [List.getElem?_range hj]
  · next hj => simp [hj]

/-! Matrix registers and readout (R92, R100, R192, R194). -/

/-- `mread` lands a row of 32 lanes, one for each element of the tile's row. -/
theorem exec_mread (s : State) (vd : BitVec 10) (acc : Bool) (row : BitVec 5) {mode : BitVec 2} {w : Nat} {e : Nat → Nat}
    (h : exec (.mread vd acc row mode) s = .next (s.resultV vd.toNat 6 (rowOfLanes w ((List.range 32).map e)) allOnes 0)) :
    ∃ x, LandsRow (.mread vd acc row mode) s vd 6 x 0 ∧ ∀ j, j < 1024 / w → laneN x w j = if j < 32 then e j % 2 ^ w else 0 :=
  ⟨_, h, fun _ hj => laneN_rowOfLanes_range e 32 hj⟩
theorem pack_ringPair (ra rb : BitVec 3) : pack [(3, rb.toNat), (0, ra.toNat)] = BitVec.ofNat 64 (8 * rb.toNat + ra.toNat) := by
  rw [pack, packN, packN, packN]
  congr 1
  omega

/-- Settles O32: the registers take whole words, and `mread` lands the lanes of `exec_mread`. -/
theorem matrixRegistersAndReadout : Obligations.MatrixRegistersAndReadout := by
  intro s idx ra rb nb ent sa vd acc al w0 w1 sn row
  refine ⟨rfl, rfl, ?_, rfl, rfl, rfl, exec_mread s vd acc row rfl, exec_mread s vd acc row rfl, exec_mread s vd acc row rfl⟩
  rw [← pack_ringPair]
  rfl
end Sys2Proof.Machine

namespace Sys2Proof.Machine
open Sys2Proof

/-! Lane-wise instructions (R146-R149). -/

theorem laneN_lt (x : Row) (w i : Nat) : laneN x w i < 2 ^ w := Nat.mod_lt _ (Nat.two_pow_pos w)
theorem lanes_fit (o : VecOp) : o.n * o.w ≤ 1024 := Nat.div_mul_le_self 1024 o.w
/-- The flags of lanes depend on the lanes that are there. -/
theorem flagsOver_congr_lt {act : Nat → Bool} {f g : Nat → Nat × FFlags} {n : Nat} (h : ∀ j, j < n → act j = true → (f j).2 = (g j).2) :
    flagsOver act f n = flagsOver act g n := by
  unfold flagsOver
  induction n with
  | zero => rfl
  | succ n ih =>
    rw [List.range_succ, List.foldl_append, List.foldl_append, ih fun j hj => h j (by omega)]
    simp only [List.foldl_cons, List.foldl_nil]
    split
    · next ha => rw [h n (by omega) ha]
    · rfl
/-- A lane-wise claim depends on the values of the active lanes only. -/
theorem LandsLanes.congr {i : Instr} {s : State} {d : BitVec 10} {L w n : Nat} {act : Nat → Bool} {f g : Nat → Nat × FFlags}
    (h : LandsLanes i s d L w n act f) (hfg : ∀ j, j < n → act j = true → f j = g j) : LandsLanes i s d L w n act g := by
  obtain ⟨r, he, hdue, hdest, harr, hfl, hl⟩ := h
  refine ⟨r, he, hdue, hdest, harr, hfl.trans (flagsOver_congr_lt fun j hj ha => by rw [hfg j hj ha]), fun j hj => ⟨fun ha => ?_, (hl j hj).2⟩⟩
  rw [← hfg j hj ha]
  exact (hl j hj).1 ha
/-- An instruction that lands a lane operation under its mask. -/
theorem landsLanes_of_laneOp {i : Instr} {s : State} {o : VecOp} {L : Nat} {g : Nat → Nat × FFlags}
    (h : exec i s = .next (s.resultL o.d L (laneOp o.fmt o.ke (s.k o.km) g))) :
    LandsLanes i s o.d L o.w o.n (active o.ke (s.k o.km) o.n) g :=
  landsLanes_of i s o.d L o.w o.n _ g (lanes_fit o) h
/-- An instruction that lands a lane operation in every lane. -/
theorem landsLanes_of_laneOp_all {i : Instr} {s : State} {o : VecOp} {L : Nat} {g : Nat → Nat × FFlags}
    (h : exec i s = .next (s.resultL o.d L (laneOp o.fmt false (s.k o.km) g))) :
    LandsLanes i s o.d L o.w o.n (fun _ => true) g :=
  landsLanes_of i s o.d L o.w o.n _ g (lanes_fit o) h

section
variable {i : Instr} {s : State} {o : VecOp} {L : Nat}

theorem lanewise1_of {f g : Nat → Nat × FFlags} (h : exec i s = lanes1 s o L f) (hfg : ∀ x, x < 2 ^ o.w → f x = g x) :
    Lanewise1 i s o L g := (landsLanes_of_laneOp h).congr fun _ _ _ => hfg _ (laneN_lt _ _ _)
theorem lanewise2_of {f g : Nat → Nat → Nat × FFlags} (h : exec i s = lanes2 s o L f)
    (hfg : ∀ x y, x < 2 ^ o.w → y < 2 ^ o.w → f x y = g x y) : Lanewise2 i s o L g :=
  (landsLanes_of_laneOp h).congr fun _ _ _ => hfg _ _ (laneN_lt _ _ _) (laneN_lt _ _ _)
theorem lanewise3_of {f g : Nat → Nat → Nat → Nat × FFlags} (h : exec i s = lanes3 s o L f) (hfg : ∀ x y z, f x y z = g x y z) :
    Lanewise3 i s o L g := (landsLanes_of_laneOp h).congr fun _ _ _ => hfg _ _ _
theorem landsLanes_of_shift {f g : Nat → Nat → Nat} (h : exec i s = shiftLanes s o f) (hfg : ∀ x y, x < 2 ^ o.w → f x y = g x y) :
    LandsLanes i s o.d 2 o.w o.n (active o.ke (s.k o.km) o.n) fun j =>
      (g (laneN (s.v o.a) o.w j) (if o.x.getLsbD 0 then o.c.toNat else laneN (s.v o.b) o.w j), 0) :=
  (landsLanes_of_laneOp h).congr fun _ _ _ => congrArg (·, _) (hfg _ _ (laneN_lt _ _ _))
end

/-! Float arithmetic of the vector units (R88-R90, R101, R102, R148, R149). -/

/-- An exact result is rounded once; a NaN is invalid when no operand was one. -/
theorem result_eq (f : Fmt) (nanIn : Bool) (v : Num) :
    result f nanIn v = if v = .nan then (f.nan, if nanIn then 0 else flIv) else roundTo f false v := by
  cases v <;> rfl
theorem fi_float {f : Fmt} (h : f.isFloat = true) (g : Fmt → Nat → Nat → Nat × FFlags) (k : Int → Int → Int) (x y : Nat) :
    fi f g k x y = g f x y := if_pos h
theorem latFI_float {o : VecOp} (h : o.fmt.isFloat = true) : o.latFI = 4 := if_pos h

/-- Settles O18: each operation is `lanes1`, `lanes2` or `lanes3` of an exact result that is rounded once. -/
theorem vectorFloatArithmetic : Obligations.VectorFloatArithmetic := by
  intro o s hf
  have one (i : Instr) (L : Nat) (f : Nat → Nat × FFlags) (h : exec i s = lanes1 s o L f) : Lanewise1 i s o L f := lanewise1_of h fun _ _ => rfl
  have two (i : Instr) (g : Fmt → Nat → Nat → Nat × FFlags) (k : Int → Int → Int) (f : Nat → Nat → Nat × FFlags)
      (h : exec i s = lanes2 s o o.latFI (fi o.fmt g k)) (hg : ∀ x y, g o.fmt x y = f x y) : Lanewise2 i s o 4 f := by
    rw [latFI_float hf] at h
    exact lanewise2_of h fun x y _ _ => (fi_float hf g k x y).trans (hg x y)
  have sign (i : Instr) (f g k : Nat → Nat) (h : exec i s = lanes1 s o o.latFI fun x => if o.fmt.isFloat then (f x, 0) else (g x, 0))
      (hk : ∀ x, f x = k x) : Lanewise1 i s o 4 fun x => (k x, 0) := by
    rw [latFI_float hf] at h
    exact lanewise1_of h fun x _ => (if_pos hf).trans (congrArg (·, 0) (hk x))
  dsimp only
  refine ⟨?_, ?_, ?_, ?_, ?_, ?_, ?_, ?_, ?_, ?_, ?_, ?_, ?_, ?_, ?_⟩
  · exact two _ fAdd (· + ·) _ rfl fun x y => result_eq ..
  · exact two _ fSub (· - ·) _ rfl fun x y => result_eq ..
  · exact two _ fMul (· * ·) _ rfl fun x y => result_eq ..
  · exact lanewise3_of rfl fun x y z => result_eq ..
  · exact lanewise3_of rfl fun x y z => result_eq ..
  · exact lanewise3_of rfl fun x y z => result_eq ..
  · exact two _ (fun f x y => (fMin f x y, 0)) min _ rfl fun x y => by simp only [fMin]
  · exact two _ (fun f x y => (fMax f x y, 0)) max _ rfl fun x y => by simp only [fMax]
  · exact sign (.vabs o) (fAbs o.fmt) (fun x => wrap o.w (intOf o.fmt x).natAbs) _ rfl fun x => by simp only [fAbs, VecOp.w]
  · exact sign (.vneg o) (fNeg o.fmt) (fun x => wrap o.w (-(intOf o.fmt x))) _ rfl fun x => by simp only [fNeg, VecOp.w]
  · exact one _ _ _ rfl
  · exact one _ _ _ rfl
  · exact one _ _ _ rfl
  · exact one _ _ _ rfl
  · exact one _ _ _ rfl

/-! Special operands (R149, R150). -/

/-- The float types of a vector. -/
theorem Fmt.eq_of_clsF {f : Fmt} (h : f.clsF = true) : f = .f32 ∨ f = .f16 ∨ f = .bf16 := by
  cases f <;> simp_all [Fmt.clsF]
/-- Infinities, zeros and 1 round to their codes, in the float types of a vector. -/
theorem roundTo_special {f : Fmt} (h : f.clsF = true) :
    roundTo f false (.inf false) = (f.infCode, 0) ∧ roundTo f false (.inf true) = (2 ^ (f.width - 1) + f.infCode, 0) ∧
      roundTo f false (.fin false 0 0) = (0, 0) ∧ roundTo f false (.fin true 0 0) = (2 ^ (f.width - 1), 0) ∧
      roundTo f false Num.one = (f.bias * 2 ^ f.mant, 0) := by
  rcases Fmt.eq_of_clsF h with rfl | rfl | rfl <;> decide

/-- Settles O19: the rows of the table, each from the branch of its operand. -/
theorem functionsOfSpecialOperands : Obligations.FunctionsOfSpecialOperands := by
  intro f x hf
  obtain ⟨pinf, ninf, pzero, nzero, one⟩ := roundTo_special hf
  refine ⟨fun h => ?_, fun h => ?_, fun h => ?_, fun e h => ?_, fun e h => ?_, fun m e h => ?_⟩ <;>
    simp [fRcp, fRsqrt, fExp2, fLog2, h, pinf, ninf, pzero, nzero, one]
end Sys2Proof.Machine

namespace Sys2Proof.Machine
open Sys2Proof

/-! Integer, logic and move instructions of the vector units (R86, R148, R149, R153, R162). -/

theorem fi_int {f : Fmt} (h : f.isFloat = false) (g : Fmt → Nat → Nat → Nat × FFlags) (k : Int → Int → Int) (x y : Nat) :
    fi f g k x y = (wrap f.width (k (intOf f x) (intOf f y)), 0) := if_neg (by simp [h])
theorem latFI_int {o : VecOp} (h : o.fmt.isFloat = false) : o.latFI = 2 := if_neg (by simp [h])
/-- A saturating result is clamped to the format's range, and says when it was. -/
theorem saturate_eq (f : Fmt) (x : Int) : saturate f x =
    (wrap f.width (if x < intLo f false then intLo f false else if intHi f < x then intHi f else x),
      if x < intLo f false ∨ intHi f < x then flSat else 0) := by
  unfold saturate clampInt
  by_cases h1 : x < intLo f false
  · simp [h1]
  · by_cases h2 : intHi f < x <;> simp [h1, h2]
/-- The number of one bits among the low w. -/
theorem popN_eq (w x : Nat) : popN w x = ((List.range w).filter x.testBit).length := by
  induction w generalizing x with
  | zero => rfl
  | succ w ih =>
    have rest : (List.filter x.testBit ((List.range w).map Nat.succ)).length = popN w (x / 2) := by
      rw [ih, List.filter_map, List.length_map]
      exact congrArg (fun p => (List.filter p (List.range w)).length) (funext fun i => Nat.testBit_succ x i)
    rw [popN, List.range_succ_eq_map, List.filter_cons, Nat.testBit_zero]
    by_cases h : x % 2 = 1
    · rw [if_pos (decide_eq_true h), List.length_cons, rest, h, Nat.add_comm]
    · rw [if_neg (by simp [h]), rest, show x % 2 = 0 by omega, Nat.zero_add]
/-- `vandn` clears, of x, the bits of y. -/
theorem and_sub_eq_and_xor {w x y : Nat} (hx : x < 2 ^ w) (hy : y < 2 ^ w) : x &&& (2 ^ w - 1 - y) = x &&& (x ^^^ y) := by
  apply Nat.eq_of_testBit_eq
  intro i
  rw [Nat.sub_sub, Nat.add_comm 1, Nat.testBit_and, Nat.testBit_and, Nat.testBit_xor, Nat.testBit_two_pow_sub_succ hy]
  by_cases hi : i < w
  · cases x.testBit i <;> simp [hi]
  · simp [Nat.testBit_lt_two_pow (Nat.lt_of_lt_of_le hx (Nat.pow_le_pow_right (by decide) (Nat.not_lt.mp hi)))]
/-- A shift to the right by the width or more leaves nothing. -/
theorem shiftRight_or_zero {w x : Nat} (hx : x < 2 ^ w) (y : Nat) : (if w ≤ y then 0 else x >>> y) = x / 2 ^ y := by
  rw [Nat.shiftRight_eq_div_pow]
  split
  · next h => rw [Nat.div_eq_of_lt (Nat.lt_of_lt_of_le hx (Nat.pow_le_pow_right (by decide) h))]
  · rfl

/-- Settles O20: each operation is `lanes1`, `lanes2` or a shift, of a value that is wrapped, clamped or taken by bits. -/
theorem vectorIntegerAndLogic : Obligations.VectorIntegerAndLogic := by
  refine ⟨fun o s hf => ?_, fun o s => ?_⟩
  · have two (i : Instr) (g : Fmt → Nat → Nat → Nat × FFlags) (k : Int → Int → Int) (h : exec i s = lanes2 s o o.latFI (fi o.fmt g k)) :
        Lanewise2 i s o 2 fun x y => (wrap o.w (k (intOf o.fmt x) (intOf o.fmt y)), 0) := by
      rw [latFI_int hf] at h
      exact lanewise2_of h fun x y _ _ => fi_int hf g k x y
    have one (i : Instr) (f g : Nat → Nat) (h : exec i s = lanes1 s o o.latFI fun x => if o.fmt.isFloat then (f x, 0) else (g x, 0)) :
        Lanewise1 i s o 2 fun x => (g x, 0) := by
      rw [latFI_int hf] at h
      exact lanewise1_of h fun x _ => if_neg (by simp [hf])
    dsimp only
    refine ⟨?_, ?_, ?_, ?_, ?_, ?_, ?_, ?_, ?_, ?_, ?_, ?_, ?_, ?_, ?_⟩
    · exact two (.vadd o) fAdd (· + ·) rfl
    · exact two (.vsub o) fSub (· - ·) rfl
    · exact two (.vmul o) fMul (· * ·) rfl
    · exact two (.vmin o) (fun f x y => (fMin f x y, 0)) min rfl
    · exact two (.vmax o) (fun f x y => (fMax f x y, 0)) max rfl
    · exact one (.vabs o) (fAbs o.fmt) (fun x => wrap o.w (intOf o.fmt x).natAbs) rfl
    · exact one (.vneg o) (fNeg o.fmt) (fun x => wrap o.w (-(intOf o.fmt x))) rfl
    · exact lanewise2_of (f := fun x y => (wrap o.w (intOf o.fmt x * intOf o.fmt y / (2 ^ o.w : Nat)), 0)) rfl fun x y _ _ => rfl
    · exact lanewise2_of (f := fun x y => saturate o.fmt (intOf o.fmt x + intOf o.fmt y)) rfl fun x y _ _ => saturate_eq ..
    · exact lanewise2_of (f := fun x y => saturate o.fmt (intOf o.fmt x - intOf o.fmt y)) rfl fun x y _ _ => saturate_eq ..
    · exact landsLanes_of_shift (f := fun x y => if o.w ≤ y then 0 else x <<< y) (g := fun x y => if o.w ≤ y then 0 else x * 2 ^ y) rfl
        fun x y _ => by simp only [Nat.shiftLeft_eq]
    · exact landsLanes_of_shift (f := fun x y => if o.w ≤ y then 0 else x >>> y) (g := fun x y => x / 2 ^ y) rfl
        fun x y hx => shiftRight_or_zero hx y
    · exact landsLanes_of_shift (f := fun x y => wrap o.w (signed o.w x / (2 ^ min y o.w : Nat)))
        (g := fun x y => wrap o.w (signed o.w x / (2 ^ min y o.w : Nat))) rfl fun x y _ => rfl
    · exact lanewise1_of (f := fun x => (popN o.w x, 0)) rfl fun x _ => by rw [popN_eq]
    · refine (landsLanes_of_laneOp (g := fun j => ((o.c.toNat + j) % 2 ^ o.w, 0)) rfl).congr fun j _ _ => ?_
      rw [← Int.natCast_add, ← Int.natCast_emod, Int.toNat_natCast]
  · refine ⟨?_, ?_, ?_, ?_, ?_⟩
    · exact lanewise2_of (f := fun x y => (x &&& y, 0)) rfl fun x y _ _ => rfl
    · exact lanewise2_of (f := fun x y => (x ||| y, 0)) rfl fun x y _ _ => rfl
    · exact lanewise2_of (f := fun x y => (x ^^^ y, 0)) rfl fun x y _ _ => rfl
    · exact lanewise2_of (f := fun x y => (x &&& (2 ^ o.w - 1 - y), 0)) rfl fun x y hx hy => congrArg (·, 0) (and_sub_eq_and_xor hx hy)
    · exact lanewise1_of (f := fun x => (x, 0)) rfl fun x _ => rfl
end Sys2Proof.Machine

namespace Sys2Proof.Machine
open Sys2Proof

/-! Comparisons, selection and masks (R102, R146, R152, R163). -/

/-- A mask bit is set when some lane that it governs satisfies the condition. -/
theorem testBit_maskBits (n : Nat) (f : Nat → Bool) (m i j : Nat) :
    (maskBits n f m i).testBit j = true ↔ ∃ l, i ≤ l ∧ l < i + m ∧ mbit n l = j ∧ f l = true := by
  induction m generalizing i with
  | zero => simp [maskBits]; omega
  | succ m ih =>
    have here : (if f i then 1 <<< mbit n i else 0).testBit j = true ↔ mbit n i = j ∧ f i = true := by
      split
      · next h => rw [Nat.one_shiftLeft, Nat.testBit_two_pow, decide_eq_true_iff]; simp [h]
      · next h => simp [h]
    rw [maskBits, Nat.testBit_or, Bool.or_eq_true, here, ih]
    constructor
    · rintro (⟨hj, hf⟩ | ⟨l, h1, h2, hj, hf⟩)
      · exact ⟨i, Nat.le_refl i, by omega, hj, hf⟩
      · exact ⟨l, by omega, by omega, hj, hf⟩
    · rintro ⟨l, h1, h2, hj, hf⟩
      by_cases h : l = i
      · exact .inl ⟨h ▸ hj, h ▸ hf⟩
      · exact .inr ⟨l, by omega, by omega, hj, hf⟩
theorem mbit_lt {n i : Nat} (hn : n ≤ 256) (hi : i < n) : mbit n i < 128 := by
  unfold mbit
  split <;> omega
/-- The mask bits of up to 256 lanes lie in a mask. -/
theorem maskBits_lt {n : Nat} (hn : n ≤ 256) (f : Nat → Bool) : maskBits n f n 0 < 2 ^ 128 := by
  refine Nat.lt_pow_two_of_testBit _ fun j hj => Bool.eq_false_iff.mpr fun h => ?_
  obtain ⟨l, -, hl, hb, -⟩ := (testBit_maskBits n f n 0 j).mp h
  have := mbit_lt hn (show l < n by omega)
  omega
theorem lanes_le (o : VecOp) : o.n ≤ 256 := by
  unfold VecOp.n VecOp.w
  cases o.fmt <;> decide
/-- The six conditions of `vcmp`. -/
theorem vcond_eq (f : Fmt) (x : BitVec 3) (hx : x.toNat < 6) (a b : Nat) :
    let eq (x y : Nat) : Bool := if f.isFloat then (decodeNum f x).eqv (decodeNum f y) else decide (intOf f x = intOf f y)
    let lt (x y : Nat) : Bool := if f.isFloat then (decodeNum f x).lt (decodeNum f y) && !eq x y else decide (intOf f x < intOf f y)
    vcond f x.toNat a b = ((x = 0 && eq a b) || (x = 1 && !eq a b) || (x = 2 && lt a b) || (x = 3 && (lt a b || eq a b)) ||
      (x = 4 && lt b a) || (x = 5 && (lt b a || eq a b))) := by
  have cases6 : ∀ x : BitVec 3, x.toNat < 6 → x = 0 ∨ x = 1 ∨ x = 2 ∨ x = 3 ∨ x = 4 ∨ x = 5 := by decide
  cases hf : f.isFloat
  · rcases cases6 x hx with rfl | rfl | rfl | rfl | rfl | rfl <;> simp [vcond, hf]
  · rcases cases6 x hx with rfl | rfl | rfl | rfl | rfl | rfl <;> simp [vcond, hf]

/-- `vcmp` lands its mask bits in the mask that the low bits of d name. -/
theorem exec_vcmp (s : State) (o : VecOp) {m : Nat} (hm : maskBits o.n (fun i =>
      active o.ke (s.k o.km) o.n i && vcond o.fmt o.x.toNat (laneN (s.v o.a) o.w i) (laneN (s.v o.b) o.w i)) o.n 0 = m) (h : m < 2 ^ 128) :
    exec (.vcmp o) s = .next (s.landsK (o.d.setWidth 3) (BitVec.ofNat 128 m)) := by
  have hd : (o.d.setWidth 3).toNat = o.d.toNat % 8 := BitVec.toNat_setWidth ..
  have hv : (BitVec.ofNat 128 m).setWidth 1024 = BitVec.ofNat 1024 m := BitVec.setWidth_ofNat_of_le_of_lt (by decide) h
  rw [State.landsK, hd, hv, ← hm]
  rfl
theorem exec_kpop (s : State) (sd : BitVec 6) (ka : BitVec 3) : exec (.kpop sd ka) s =
    .next (s.landsS 2 (.s sd.toNat) (BitVec.ofNat 64 ((List.range 128).filter (s.k ka).getLsbD).length)) := by
  rw [← State.resultW_eq, show (s.k ka).getLsbD = (s.k ka).toNat.testBit from rfl, ← popN_eq]
  rfl

/-- Settles O21: `vcmp` sets the bits of `maskBits`; the others are lane by lane or bit by bit. -/
theorem vectorComparisonsAndMasks : Obligations.VectorComparisonsAndMasks := by
  intro s o kd ka kb sd
  dsimp only
  refine ⟨fun hx => ?_, ?_, rfl, rfl, rfl, rfl, rfl, ?_⟩
  · have hm := maskBits_lt (lanes_le o) fun i =>
      active o.ke (s.k o.km) o.n i && vcond o.fmt o.x.toNat (laneN (s.v o.a) o.w i) (laneN (s.v o.b) o.w i)
    refine ⟨BitVec.ofNat 128 _, exec_vcmp s o rfl hm, fun j hj => ?_⟩
    rw [BitVec.getLsbD_ofNat, decide_eq_true hj, Bool.true_and, testBit_maskBits]
    simp only [vcond_eq o.fmt o.x hx, Bool.and_eq_true, Nat.zero_le, true_and, Nat.zero_add]
    rfl
  · exact landsLanes_of_laneOp_all (g := fun i => (laneN (if (s.k o.km).getLsbD (mbit o.n i) then s.v o.a else s.v o.b) o.w i, 0)) rfl
  · rw [exec_kpop]
end Sys2Proof.Machine

namespace Sys2Proof.Machine
open Sys2Proof

/-! Conversions (R89, R90, R98, R154-R157). -/

/-- Beyond the lanes of a lane map nothing is written. -/
theorem mapLanes_beyond (w : Nat) (f : Nat → Option (Nat × FFlags)) (n i j : Nat) (h : n ≤ j) : laneNat (mapLanes w f n i).mask w j = 0 := by
  induction n generalizing i j with
  | zero => simp [mapLanes, laneNat]
  | succ n ih =>
    obtain ⟨j, rfl⟩ : ∃ k, j = k + 1 := ⟨j - 1, by omega⟩
    have rest := ih (i + 1) j (by omega)
    cases hf : f i with
    | none =>
      have := laneNat_succ 0 (mapLanes w f n (i + 1)).mask w j (Nat.two_pow_pos w)
      rw [Nat.zero_add] at this
      simp only [mapLanes, hf, this, rest]
    | some p =>
      have hw : 2 ^ w - 1 < 2 ^ w := Nat.sub_one_lt (Nat.ne_of_gt (Nat.two_pow_pos w))
      simp only [mapLanes, hf, laneNat_succ _ _ _ _ hw, rest]
/-- Lanes moved b places up. -/
theorem laneNat_shiftLeft (x w b j : Nat) : laneNat (x <<< (b * w)) w j = if j < b then 0 else laneNat x w (j - b) := by
  apply Nat.eq_of_testBit_eq
  intro t
  rw [laneNat, Nat.testBit_mod_two_pow, Nat.testBit_shiftRight, Nat.testBit_shiftLeft]
  by_cases ht : t < w
  · split
    · next h =>
      have := Nat.mul_le_mul_right w h
      rw [Nat.succ_mul] at this
      simp [show ¬b * w ≤ j * w + t by omega]
    · next h =>
      have hb : b * w ≤ j * w := Nat.mul_le_mul_right w (Nat.not_lt.mp h)
      rw [laneNat, Nat.testBit_mod_two_pow, Nat.testBit_shiftRight, Nat.sub_mul, show j * w + t - b * w = j * w - b * w + t by omega]
      simp [ht, show b * w ≤ j * w + t by omega]
  · split
    · simp [ht]
    · simp [laneNat, Nat.testBit_mod_two_pow, ht]
theorem add_mul_two_pow_shiftLeft (a b w k : Nat) : (a + b * 2 ^ w) <<< (k * w) = b <<< ((k + 1) * w) + a <<< (k * w) := by
  rw [Nat.shiftLeft_eq, Nat.shiftLeft_eq, Nat.shiftLeft_eq, Nat.add_mul, Nat.mul_assoc, ← Nat.pow_add, Nat.succ_mul, Nat.add_comm w, Nat.add_comm]
/-- The first place of a part's elements (R155). -/
def partBase (wf wt part : Nat) : Nat := if wf > wt then part * (1024 / max wf wt) else 0
/-- The lane that element j of a part is read from (R155). -/
def partSrc (wf wt part j : Nat) : Nat := if wf < wt then part * (1024 / max wf wt) + j else j
theorem partBase_add (wf wt part j : Nat) : partBase wf wt part + j = if wf > wt then part * (1024 / max wf wt) + j else j := by
  unfold partBase
  split
  · rfl
  · exact Nat.zero_add j
/-- R155: placed elements are a lane map, moved up to the part's first place. -/
theorem placeElems_eq (wf wt part : Nat) (a : Row) (act : Nat → Bool) (f : Nat → Nat → Nat × FFlags) (m i : Nat) :
    let r := mapLanes wt (fun j => if act j then some (f j (laneN a wf (partSrc wf wt part j))) else none) m i
    let b := partBase wf wt part + i
    placeElems wf wt part a act f m i = ⟨r.val <<< (b * wt), r.mask <<< (b * wt), r.flags⟩ := by
  induction m generalizing i with
  | zero => simp [placeElems, mapLanes]
  | succ m ih =>
    have step := ih (i + 1)
    dsimp only at step ⊢
    rw [placeElems, step, mapLanes, ← partBase_add]
    cases act i with
    | false =>
      have drop (x : Nat) := add_mul_two_pow_shiftLeft 0 x wt (partBase wf wt part + i)
      simp only [Nat.zero_add, Nat.zero_shiftLeft, Nat.add_zero] at drop
      simp only [Bool.false_eq_true, if_false, drop, Nat.add_assoc]
    | true =>
      simp only [if_true, add_mul_two_pow_shiftLeft, Nat.add_assoc]
      rfl
/-- A part's elements are placed in lanes that a row has. -/
theorem place_fits {wf wt part j : Nat} (hp : wt < wf → part < wf / wt) (hj : j < 1024 / max wf wt) : partBase wf wt part + j < 1024 / wt := by
  rw [partBase_add]
  split
  · next h =>
    rw [Nat.max_eq_left (Nat.le_of_lt h)] at hj ⊢
    have h0 : 0 < wt := Nat.pos_of_ne_zero fun h0 => by
      have := hp h
      rw [h0, Nat.div_zero] at this
      omega
    have parts : wf / wt * (1024 / wf) ≤ 1024 / wt := by
      rw [Nat.le_div_iff_mul_le h0, Nat.mul_right_comm]
      exact Nat.le_trans (Nat.mul_le_mul_right _ (Nat.div_mul_le_self wf wt)) (Nat.mul_div_le 1024 wf)
    have := Nat.mul_le_mul_right (1024 / wf) (hp h)
    rw [Nat.succ_mul] at this
    omega
  · next h => rwa [Nat.max_eq_right (Nat.not_lt.mp h)] at hj
/-- A lane map's active lanes are written with their values. -/
theorem mapLanes_active (w : Nat) {act : Nat → Bool} (g : Nat → Nat × FFlags) {n j : Nat} (hj : j < n) (ha : act j = true) :
    let r := mapLanes w (fun j => if act j then some (g j) else none) n 0
    laneNat r.mask w j = 2 ^ w - 1 ∧ laneNat r.val w j = (g j).1 % 2 ^ w := by
  have h := mapLanes_lane w (fun j => if act j then some (g j) else none) n 0 j hj
  rw [Nat.zero_add, if_pos ha] at h
  exact h
/-- Lanes that are not active, or beyond the lane map, are not written. -/
theorem mapLanes_unwritten (w : Nat) {act : Nat → Bool} (g : Nat → Nat × FFlags) {n j : Nat} (h : j < n → act j ≠ true) :
    laneNat (mapLanes w (fun j => if act j then some (g j) else none) n 0).mask w j = 0 := by
  by_cases hj : j < n
  · rw [(mapLanes_lane w (fun j => if act j then some (g j) else none) n 0 j hj).1, Nat.zero_add, if_neg (h hj)]
    rfl
  · exact mapLanes_beyond _ _ _ _ _ (Nat.not_lt.mp hj)
/-- A conversion lands the elements of its part, each where R155 places it. -/
theorem landsElements_of {i : Instr} {s : State} {o : CvtOp} {f g : Nat → Nat → Nat × FFlags} (h : exec i s = cvtRun s o f)
    (hp : o.to.width < o.from.width → o.part.toNat < o.from.width / o.to.width) (hfg : ∀ j x, f j x = g j x) : LandsElements i s o g := by
  obtain rfl : f = g := funext fun j => funext (hfg j)
  let n := 1024 / max o.from.width o.to.width
  let act := active o.ke (s.k o.km) n
  let base := partBase o.from.width o.to.width o.part.toNat
  let lane := fun j => f j (laneN (s.v o.a) o.from.width (partSrc o.from.width o.to.width o.part.toNat j))
  let r := mapLanes o.to.width (fun j => if act j then some (lane j) else none) n 0
  have run : exec i s = .next (s.resultL o.d 4 ⟨r.val <<< (base * o.to.width), r.mask <<< (base * o.to.width), r.flags⟩) :=
    h.trans (congrArg (fun r => Host.Outcome.next (s.resultL o.d 4 r)) (placeElems_eq ..))
  have lane_eq (x m : Nat) (hm : m < 1024 / o.to.width) : laneN (BitVec.ofNat 1024 (x <<< (base * o.to.width))) o.to.width m =
      if m < base then 0 else laneNat x o.to.width (m - base) := by rw [laneN_ofNat _ _ _ (lane_fits hm), laneNat_shiftLeft]
  refine ⟨_, run.trans rfl, rfl, rfl, mapLanes_flagsOver _ act lane n, fun j hj ha => ?_, fun m hm hnone => ?_⟩
  · have place : (if o.from.width > o.to.width then o.part.toNat * (1024 / max o.from.width o.to.width) + j else j) = base + j :=
      (partBase_add ..).symm
    dsimp only
    rw [place, lane_eq _ _ (place_fits hp hj), lane_eq _ _ (place_fits hp hj), if_neg (Nat.not_lt.mpr (Nat.le_add_right base j)),
      if_neg (Nat.not_lt.mpr (Nat.le_add_right base j)), Nat.add_sub_cancel_left]
    exact mapLanes_active o.to.width lane hj ha
  · rw [lane_eq _ _ hm]
    split
    · rfl
    · next hb =>
      refine mapLanes_unwritten o.to.width lane fun hj ha => hnone (m - base) hj ha ?_
      have place : (if o.from.width > o.to.width then o.part.toNat * (1024 / max o.from.width o.to.width) + (m - base) else m - base) =
        base + (m - base) := (partBase_add ..).symm
      exact place.trans (by omega)

/-- R155: the part of a conversion is one that the wider element has. -/
theorem CvtOp.part_fits {o : CvtOp} (h : o.part.toNat < o.ratio) (hw : o.to.width < o.from.width) :
    o.part.toNat < o.from.width / o.to.width := by
  rwa [CvtOp.ratio, Nat.max_eq_left (Nat.le_of_lt hw), Nat.min_eq_right (Nat.le_of_lt hw)] at h
theorem intLo_le_intHi (f : Fmt) : intLo f false ≤ intHi f := by cases f <;> decide
/-- R157: clamping keeps a value between the ends of the range. -/
theorem saturate_eq_clamp (f : Fmt) (x : Int) : saturate f x = ((max (intLo f false) (min (intHi f) x) % (2 ^ f.width : Nat)).toNat,
    if x < intLo f false ∨ intHi f < x then flSat else 0) := by
  have h := intLo_le_intHi f
  have clamp : (if x < intLo f false then intLo f false else if intHi f < x then intHi f else x) = max (intLo f false) (min (intHi f) x) := by
    omega
  rw [saturate_eq, clamp]
  rfl

/-- R90, R166: `vdeq` gives a NaN without a flag when its code or scale is one, and an invalid one otherwise. -/
theorem deqOne_eq (src dst : Fmt) (sw x : Nat) :
    let c := if src.isFloat then decodeNum src x else (decodeNum src x).sub (Num.ofInt (zeroOf sw))
    let y := c.mul (scaleOf sw)
    deqOne src dst sw x = if y.isNan then (dst.nan, if y.isNan && !c.isNan && !(scaleOf sw).isNan then flIv else 0) else convert dst false false y := by
  intro c y
  change (if y.isNan then (dst.nan, if c.isNan || (scaleOf sw).isNan then (0 : FFlags) else flIv) else convert dst false false y) = _
  split
  · next hy => rw [hy]; cases c.isNan <;> cases (scaleOf sw).isNan <;> rfl
  · rfl

/-- Settles O22: each conversion is `cvtRun` of the element's conversion; `vpack` is a lane map over both sources. -/
theorem vectorConversions : Obligations.VectorConversions := by
  intro s o
  dsimp only
  refine ⟨fun h => ?_, fun h => ?_, fun h => ?_, fun hw _ => ?_, fun hw => ?_⟩
  · exact landsElements_of (f := fun _ x => cvtOne o.from o.to o.rz x) rfl (CvtOp.part_fits h) fun _ _ => rfl
  · refine landsElements_of (f := fun j x => quantOne o.to (scaleWord (s.v o.b) o.bw (1024 / max o.from.width o.to.width) j) x) rfl
      (CvtOp.part_fits h) fun j x => ?_
    simp only [quantOne, zeroOf, Nat.shiftRight_eq_div_pow]
    rfl
  · refine landsElements_of (f := fun j x => deqOne o.from o.to (scaleWord (s.v o.b) o.bw (1024 / max o.from.width o.to.width) j) x) rfl
      (CvtOp.part_fits h) fun j x => ?_
    rw [deqOne_eq]
    simp only [zeroOf, Nat.shiftRight_eq_div_pow]
    rfl
  · exact landsElements_of (f := fun _ x => saturate o.to (intOf o.from x)) rfl (fun h => absurd h (by omega)) fun _ _ => saturate_eq_clamp ..
  · have fits : 2 * (1024 / o.from.width) * o.to.width ≤ 1024 := by
      rw [Nat.mul_right_comm, ← hw]
      exact Nat.mul_div_le 1024 o.from.width
    refine (landsLanes_of (.vpack o) s o.d 4 o.to.width (2 * (1024 / o.from.width)) _ (fun i => saturate o.to (intOf o.from
      (if i < 1024 / o.from.width then laneN (s.v o.a) o.from.width i else laneN (s.v o.b) o.from.width (i - 1024 / o.from.width)))) fits rfl).congr
      fun j _ _ => saturate_eq_clamp ..
end Sys2Proof.Machine

namespace Sys2Proof.Machine
open Sys2Proof

/-! The order of exact values (R102). -/

/-- Whether a value is below, among or above the finite ones. -/
def Num.level : Num → Int
  | .inf s => if s then -1 else 1
  | _ => 0
/-- What tells +0 from -0. -/
def Num.tie : Num → Nat
  | .fin s 0 _ => if s then 0 else 1
  | _ => 0
/-- The order of values: the infinities around the finite ones, these by their rationals, -0 below +0. -/
def Num.Below (x y : Num) : Prop :=
  x.level < y.level ∨ (x.level = y.level ∧ (x.rat < y.rat ∨ (x.rat = y.rat ∧ x.tie < y.tie)))

theorem Num.fin_rat_eq_zero (s : Bool) (m : Nat) (e : Int) : (Num.fin s m e).rat = 0 ↔ m = 0 := by
  rw [Num.rat, intCast_mul_twoTo_eq_zero, signedNat]
  cases s <;> simp
theorem Num.fin_tie (s : Bool) (m : Nat) (e : Int) : (Num.fin s m e).tie = if m = 0 ∧ s = false then 1 else 0 := by
  cases m <;> cases s <;> rfl
/-- Numbers compare as their rationals do at a common exponent. -/
theorem Num.scaled_lt_iff {s t : Bool} {m n : Nat} {e f e0 : Int} (he : e0 ≤ e) (hf : e0 ≤ f) :
    Num.scaled s m e e0 < Num.scaled t n f e0 ↔ (Num.fin s m e).rat < (Num.fin t n f).rat := by
  rw [← Num.scaled_rat s m he, ← Num.scaled_rat t n hf, Rat.mul_lt_mul_right (twoTo_pos e0), Rat.intCast_lt_intCast]
theorem Num.scaled_eq_iff {s t : Bool} {m n : Nat} {e f e0 : Int} (he : e0 ≤ e) (hf : e0 ≤ f) :
    Num.scaled s m e e0 = Num.scaled t n f e0 ↔ (Num.fin s m e).rat = (Num.fin t n f).rat := by
  rw [← Num.scaled_rat s m he, ← Num.scaled_rat t n hf, mul_twoTo_inj, Rat.intCast_inj]
theorem Num.lt_fin (s t : Bool) (m n : Nat) (e f : Int) : (Num.fin s m e).lt (.fin t n f) = true ↔
    (Num.fin s m e).rat < (Num.fin t n f).rat ∨
      ((Num.fin s m e).rat = (Num.fin t n f).rat ∧ m = 0 ∧ n = 0 ∧ s = true ∧ t = false) := by
  simp only [Num.lt]
  rw [← Num.scaled_lt_iff (Int.min_le_left e f) (Int.min_le_right e f), ← Num.scaled_eq_iff (Int.min_le_left e f) (Int.min_le_right e f)]
  split
  · next h => simp [h, and_assoc]
  · next h => simp [h]
theorem Num.lt_iff_below {x y : Num} (hx : x ≠ .nan) (hy : y ≠ .nan) : x.lt y = true ↔ x.Below y := by
  cases x with
  | nan => exact absurd rfl hx
  | inf s =>
    cases y with
    | nan => exact absurd rfl hy
    | inf t => cases s <;> cases t <;> simp [Num.lt, Num.Below, Num.level, Num.tie, Num.rat]
    | fin t n f => cases s <;> simp [Num.lt, Num.Below, Num.level]
  | fin s m e =>
    cases y with
    | nan => exact absurd rfl hy
    | inf t => cases t <;> simp [Num.lt, Num.Below, Num.level]
    | fin t n f =>
      rw [Num.lt_fin, Num.Below, Num.fin_tie, Num.fin_tie]
      have h0 := Num.fin_rat_eq_zero s m e
      have h1 := Num.fin_rat_eq_zero t n f
      simp only [Num.level, Int.lt_irrefl, false_or, true_and]
      grind
/-- The order is total up to equals, and equals go together. -/
theorem Num.Below.asymm {x y : Num} (h : x.Below y) : ¬y.Below x := by
  unfold Num.Below at *
  grind
theorem Num.not_below_trans {x y z : Num} (h1 : ¬y.Below x) (h2 : ¬z.Below y) : ¬z.Below x := by
  unfold Num.Below at *
  grind
theorem Num.ne_nan_of_lt {x y : Num} (h : x.lt y = true) : x ≠ .nan ∧ y ≠ .nan := by
  refine ⟨?_, ?_⟩ <;> rintro rfl
  · cases h
  · cases x <;> cases h
theorem Num.lt_asymm {x y : Num} (h : x.lt y = true) : y.lt x = false := by
  obtain ⟨hx, hy⟩ := Num.ne_nan_of_lt h
  exact Bool.eq_false_iff.mpr fun h' => ((Num.lt_iff_below hx hy).mp h).asymm ((Num.lt_iff_below hy hx).mp h')
theorem Num.not_lt_trans {x y z : Num} (hx : x ≠ .nan) (hy : y ≠ .nan) (hz : z ≠ .nan) (h1 : y.lt x = false) (h2 : z.lt y = false) :
    z.lt x = false := by
  have n1 := mt (Num.lt_iff_below hy hx).mpr (Bool.eq_false_iff.mp h1)
  have n2 := mt (Num.lt_iff_below hz hy).mpr (Bool.eq_false_iff.mp h2)
  exact Bool.eq_false_iff.mpr fun h => Num.not_below_trans n1 n2 ((Num.lt_iff_below hz hx).mp h)
end Sys2Proof.Machine

namespace Sys2Proof.Machine
open Sys2Proof

/-! Reductions and scans (R101, R102, R160). -/

/-- R86: the wrapped value of a code is the code. -/
theorem wrap_intOf (f : Fmt) {x : Nat} (h : x < 2 ^ f.width) : wrap f.width (intOf f x) = x := by
  unfold wrap intOf signed
  dsimp only
  rw [Nat.mod_eq_of_lt h]
  split
  · split
    · rw [← Int.natCast_emod, Nat.mod_eq_of_lt h, Int.toNat_natCast]
    · rw [Int.sub_emod_right, ← Int.natCast_emod, Nat.mod_eq_of_lt h, Int.toNat_natCast]
  · rw [← Int.natCast_emod, Nat.mod_eq_of_lt h, Int.toNat_natCast]
/-- Codes that a choice between two keeps to, one of which it prefers to every other: going through a list of them finds that one. -/
theorem foldl_eq_of_preferred {g : Nat → Nat → Nat} {p : Nat → Prop} {x : Nat} (hg : ∀ a b, p a → p b → g a b = a ∨ g a b = b)
    (hl : ∀ y, p y → g y x = x) (hr : ∀ y, p y → g x y = x) (l : List Nat) : ∀ a, (∀ y ∈ a :: l, p y) → x ∈ a :: l → l.foldl g a = x := by
  induction l with
  | nil => exact fun a _ hx => (List.mem_singleton.mp hx).symm
  | cons b l ih =>
    intro a hp hx
    have ha : p a := hp a (by simp)
    have hb : p b := hp b (by simp)
    refine ih (g a b) (fun y hy => ?_) ?_
    · rcases List.mem_cons.mp hy with rfl | hy
      · rcases hg a b ha hb with h | h <;> rw [h]
        · exact ha
        · exact hb
      · exact hp y (by simp [hy])
    · rcases List.mem_cons.mp hx with rfl | hx
      · rw [hr b hb]; exact List.mem_cons_self
      · rcases List.mem_cons.mp hx with rfl | hx
        · rw [hl a ha]; exact List.mem_cons_self
        · exact List.mem_cons_of_mem _ hx
/-- A choice that gives the canonical NaN wherever a NaN meets it gives it for a list that holds one. -/
theorem foldl_eq_nan {f : Fmt} {g : Nat → Nat → Nat} (hn : decodeNum f f.nan = .nan)
    (hg : ∀ a b, decodeNum f a = .nan ∨ decodeNum f b = .nan → g a b = f.nan) (l : List Nat) :
    ∀ a b, (∃ x ∈ a :: b :: l, decodeNum f x = .nan) → (b :: l).foldl g a = f.nan := by
  induction l with
  | nil =>
    rintro a b ⟨x, hx, hnan⟩
    refine hg a b ?_
    simp only [List.mem_cons, List.not_mem_nil, or_false] at hx
    rcases hx with rfl | rfl
    · exact .inl hnan
    · exact .inr hnan
  | cons c l ih =>
    rintro a b ⟨x, hx, hnan⟩
    refine ih (g a b) c ?_
    by_cases hab : decodeNum f a = .nan ∨ decodeNum f b = .nan
    · exact ⟨_, List.mem_cons_self, by rw [hg a b hab, hn]⟩
    · rcases List.mem_cons.mp hx with rfl | hx
      · exact absurd (.inl hnan) hab
      · rcases List.mem_cons.mp hx with rfl | hx
        · exact absurd (.inr hnan) hab
        · exact ⟨x, List.mem_cons_of_mem _ hx, hnan⟩
theorem decodeNum_nan {f : Fmt} (h : f.clsF = true) : decodeNum f f.nan = .nan := by
  rcases Fmt.eq_of_clsF h with rfl | rfl | rfl <;> decide
theorem Fmt.isFloat_of_clsF {f : Fmt} (h : f.clsF = true) : f.isFloat = true := by
  rcases Fmt.eq_of_clsF h with rfl | rfl | rfl <;> rfl

/-! Extrema. -/

/-- Of codes without a NaN the extremum is the one that the choice prefers. -/
theorem extremum_eq_of_preferred {f : Fmt} {g : Nat → Nat → Nat} {p : Nat → Prop} {x e : Nat} {l : List Nat}
    (hf : f.isFloat = true → ∀ y, p y → decodeNum f y ≠ .nan)
    (hg : ∀ a b, p a → p b → g a b = a ∨ g a b = b) (hl : ∀ y, p y → g y x = x) (hr : ∀ y, p y → g x y = x) (hp : ∀ y ∈ l, p y) (hx : x ∈ l) :
    extremum f g e l = x := by
  cases l with
  | nil => cases hx
  | cons a l =>
    have ha : (f.isFloat && (decodeNum f a).isNan && l.isEmpty) = false := by
      cases h : f.isFloat with
      | false => rfl
      | true =>
        simp [mt (Num.isNan_iff _).mp (hf h a (hp a (by simp)))]
    rw [extremum, ha]
    exact foldl_eq_of_preferred hg hl hr l a hp hx
/-- Of codes with a NaN among them the extremum is the canonical NaN. -/
theorem extremum_eq_nan {f : Fmt} (hf : f.clsF = true) {g : Nat → Nat → Nat} {e : Nat} {l : List Nat}
    (hg : ∀ a b, decodeNum f a = .nan ∨ decodeNum f b = .nan → g a b = f.nan) (h : ∃ x ∈ l, decodeNum f x = .nan) : extremum f g e l = f.nan := by
  obtain ⟨x, hx, hnan⟩ := h
  cases l with
  | nil => cases hx
  | cons a l =>
    cases l with
    | nil =>
      obtain rfl := List.mem_singleton.mp hx
      simp [extremum, Fmt.isFloat_of_clsF hf, hnan, Num.isNan]
    | cons b l =>
      rw [extremum, if_neg (by simp)]
      exact foldl_eq_nan (decodeNum_nan hf) hg l a b ⟨x, hx, hnan⟩
theorem fMax_nan {f : Fmt} {a b : Nat} (h : decodeNum f a = .nan ∨ decodeNum f b = .nan) : fMax f a b = f.nan := by
  unfold fMax
  rw [if_pos]
  rcases h with h | h <;> simp [h, Num.isNan]
theorem fMin_nan {f : Fmt} {a b : Nat} (h : decodeNum f a = .nan ∨ decodeNum f b = .nan) : fMin f a b = f.nan := by
  unfold fMin
  rw [if_pos]
  rcases h with h | h <;> simp [h, Num.isNan]
theorem fMax_eq {f : Fmt} {a b : Nat} (ha : decodeNum f a ≠ .nan) (hb : decodeNum f b ≠ .nan) :
    fMax f a b = if (decodeNum f a).lt (decodeNum f b) then b else a := by
  unfold fMax
  rw [if_neg]
  simp [ha, hb, Num.isNan_iff]
theorem fMin_eq {f : Fmt} {a b : Nat} (ha : decodeNum f a ≠ .nan) (hb : decodeNum f b ≠ .nan) :
    fMin f a b = if (decodeNum f b).lt (decodeNum f a) then b else a := by
  unfold fMin
  rw [if_neg]
  simp [ha, hb, Num.isNan_iff]

/-- R86, R160: the greatest of integer codes, by a choice that wraps the greater value. -/
theorem extremum_int {f : Fmt} (hf : f.isFloat = false) {k : Int → Int → Int} {x e : Nat} {l : List Nat} (hw : ∀ y ∈ l, y < 2 ^ f.width)
    (hk : ∀ a b, k a b = a ∨ k a b = b) (hl : ∀ y ∈ l, k (intOf f y) (intOf f x) = intOf f x)
    (hr : ∀ y ∈ l, k (intOf f x) (intOf f y) = intOf f x) (g : Fmt → Nat → Nat → Nat × FFlags) (hx : x ∈ l) :
    extremum f (fun a b => (fi f g k a b).1) e l = x := by
  have value (a b : Nat) : (fi f g k a b).1 = wrap f.width (k (intOf f a) (intOf f b)) := congrArg Prod.fst (fi_int hf g k a b)
  refine extremum_eq_of_preferred (p := (· ∈ l)) (fun h => by simp [hf] at h) (fun a b ha hb => ?_) (fun y hy => ?_) (fun y hy => ?_)
    (fun y hy => hy) hx
  · rcases hk (intOf f a) (intOf f b) with h | h
    · exact .inl (by rw [value, h, wrap_intOf f (hw a ha)])
    · exact .inr (by rw [value, h, wrap_intOf f (hw b hb)])
  · rw [value, hl y hy, wrap_intOf f (hw x hx)]
  · rw [value, hr y hy, wrap_intOf f (hw x hx)]
/-- R102, R160: of float codes without a NaN, one that every other comes before (under an asymmetric order) is found. -/
theorem extremum_float {f : Fmt} {g : Nat → Nat → Nat} {before : Num → Num → Bool} {x e : Nat} {l : List Nat}
    (hasymm : ∀ {a b}, before a b = true → before b a = false) (hnan : ∀ y ∈ l, decodeNum f y ≠ .nan)
    (hg : ∀ a b, decodeNum f a ≠ .nan → decodeNum f b ≠ .nan → g a b = if before (decodeNum f a) (decodeNum f b) then b else a)
    (hall : ∀ y ∈ l, y = x ∨ before (decodeNum f y) (decodeNum f x) = true) (hx : x ∈ l) : extremum f g e l = x := by
  refine extremum_eq_of_preferred (p := (· ∈ l)) (fun _ => hnan) (fun a b ha hb => ?_) (fun y hy => ?_) (fun y hy => ?_) (fun y hy => hy) hx
  · rw [hg a b (hnan a ha) (hnan b hb)]
    split
    · exact .inr rfl
    · exact .inl rfl
  · rw [hg y x (hnan y hy) (hnan x hx)]
    rcases hall y hy with rfl | h
    · exact ite_self _
    · exact if_pos h
  · rw [hg x y (hnan x hx) (hnan y hy)]
    rcases hall y hy with rfl | h
    · exact ite_self _
    · exact if_neg (by simp [hasymm h])

/-! Sums. -/

theorem sumLanes_int {f : Fmt} (hf : f.isFloat = false) (l : List Nat) :
    sumLanes f l = ((l.foldl (fun n x => n + intOf f x) 0 % (2 ^ f.width : Nat)).toNat, 0) := by
  rw [sumLanes, if_neg (by simp [hf]), List.foldl_map]
  rfl
theorem sumLanes_nil {f : Fmt} (hf : f.isFloat = true) : sumLanes f [] = (0, 0) := by
  rw [sumLanes, if_pos hf]
  rfl
theorem sumLanes_cons {f : Fmt} (hf : f.isFloat = true) (x : Nat) (l : List Nat) :
    let v := (l.map (decodeNum f)).foldl Machine.Num.add (decodeNum f x)
    sumLanes f (x :: l) = if v = .nan then (f.nan, flIv) else roundTo f false v := by
  rw [sumLanes, if_pos hf]
  exact result_eq f false _
theorem activeLanes_lt (s : State) (o : VecOp) (k : Nat) : ∀ x ∈ activeLanes s o k, x < 2 ^ o.w := by
  intro x hx
  obtain ⟨i, -, rfl⟩ := List.mem_map.mp hx
  exact laneN_lt _ _ _

/-- A reduction writes its value into lane 0 and clears the rest. -/
theorem landsRow_of_reduce {i : Instr} {s : State} {o : VecOp} {x : Nat × FFlags} (h : exec i s = reduce s o x) {y : Nat} {fl : FFlags}
    (hx : x = (y, fl)) : LandsRow i s o.d 6 (BitVec.ofNat 1024 (y % 2 ^ o.w)) fl := by
  subst hx
  exact h
theorem exec_vredmax (s : State) (o : VecOp) : exec (.vredmax o) s = reduce s o
    (extremum o.fmt (fun x y => (fi o.fmt (fun f x y => (fMax f x y, 0)) max x y).1)
      (if o.fmt.isFloat then o.fmt.infCode + 2 ^ (o.fmt.width - 1) else wrap o.fmt.width (intLo o.fmt false)) (activeLanes s o o.n), 0) := rfl
theorem exec_vredmin (s : State) (o : VecOp) : exec (.vredmin o) s = reduce s o
    (extremum o.fmt (fun x y => (fi o.fmt (fun f x y => (fMin f x y, 0)) min x y).1)
      (if o.fmt.isFloat then o.fmt.infCode else wrap o.fmt.width (intHi o.fmt)) (activeLanes s o o.n), 0) := rfl

/-- O24 for integer types. -/
theorem reductions_int (s : State) (o : VecOp) (hf : o.fmt.isFloat = false) :
    let xs := activeLanes s o o.n
    let row (x : Nat) : Row := BitVec.ofNat 1024 (x % 2 ^ o.w)
    (∀ x ∈ xs, (∀ y ∈ xs, intOf o.fmt y ≤ intOf o.fmt x) → LandsRow (.vredmax o) s o.d 6 (row x) 0) ∧
    (∀ x ∈ xs, (∀ y ∈ xs, intOf o.fmt x ≤ intOf o.fmt y) → LandsRow (.vredmin o) s o.d 6 (row x) 0) ∧
    (xs = [] → LandsRow (.vredmax o) s o.d 6 (row (wrap o.w (intLo o.fmt false))) 0 ∧
      LandsRow (.vredmin o) s o.d 6 (row (wrap o.w (intHi o.fmt))) 0) := by
  refine ⟨fun x hx hall => ?_, fun x hx hall => ?_, fun h => ⟨?_, ?_⟩⟩
  · refine landsRow_of_reduce (exec_vredmax s o) (congrArg (·, 0) ?_)
    exact extremum_int hf (activeLanes_lt s o o.n) (fun a b => by omega) (fun y hy => by have := hall y hy; omega)
      (fun y hy => by have := hall y hy; omega) _ hx
  · refine landsRow_of_reduce (exec_vredmin s o) (congrArg (·, 0) ?_)
    exact extremum_int hf (activeLanes_lt s o o.n) (fun a b => by omega) (fun y hy => by have := hall y hy; omega)
      (fun y hy => by have := hall y hy; omega) _ hx
  · refine landsRow_of_reduce (exec_vredmax s o) (congrArg (·, 0) ?_)
    rw [h, extremum, if_neg (by simp [hf])]
    rfl
  · refine landsRow_of_reduce (exec_vredmin s o) (congrArg (·, 0) ?_)
    rw [h, extremum, if_neg (by simp [hf])]
    rfl
/-- O24 for the float types of a vector. -/
theorem reductions_float (s : State) (o : VecOp) (hf : o.fmt.clsF = true) :
    let xs := activeLanes s o o.n
    let f := o.fmt
    let row (x : Nat) : Row := BitVec.ofNat 1024 (x % 2 ^ o.w)
    ((∃ x ∈ xs, decodeNum f x = .nan) → LandsRow (.vredmax o) s o.d 6 (row f.nan) 0 ∧ LandsRow (.vredmin o) s o.d 6 (row f.nan) 0) ∧
    ((∀ x ∈ xs, decodeNum f x ≠ .nan) →
      (∀ x ∈ xs, (∀ y ∈ xs, y = x ∨ (decodeNum f y).lt (decodeNum f x) = true) → LandsRow (.vredmax o) s o.d 6 (row x) 0) ∧
      (∀ x ∈ xs, (∀ y ∈ xs, y = x ∨ (decodeNum f x).lt (decodeNum f y) = true) → LandsRow (.vredmin o) s o.d 6 (row x) 0)) ∧
    (xs = [] → LandsRow (.vredmax o) s o.d 6 (row (f.infCode + 2 ^ (o.w - 1))) 0 ∧ LandsRow (.vredmin o) s o.d 6 (row f.infCode) 0) := by
  have hfl := Fmt.isFloat_of_clsF hf
  have vmax (a b : Nat) : (fi o.fmt (fun f x y => (fMax f x y, 0)) max a b).1 = fMax o.fmt a b := congrArg Prod.fst (fi_float hfl _ max a b)
  have vmin (a b : Nat) : (fi o.fmt (fun f x y => (fMin f x y, 0)) min a b).1 = fMin o.fmt a b := congrArg Prod.fst (fi_float hfl _ min a b)
  refine ⟨fun h => ⟨?_, ?_⟩, fun hn => ⟨fun x hx hall => ?_, fun x hx hall => ?_⟩, fun h => ⟨?_, ?_⟩⟩
  · exact landsRow_of_reduce (exec_vredmax s o) (congrArg (·, 0) (extremum_eq_nan hf (fun a b hab => (vmax a b).trans (fMax_nan hab)) h))
  · exact landsRow_of_reduce (exec_vredmin s o) (congrArg (·, 0) (extremum_eq_nan hf (fun a b hab => (vmin a b).trans (fMin_nan hab)) h))
  · refine landsRow_of_reduce (exec_vredmax s o) (congrArg (·, 0) ?_)
    exact extremum_float (before := Num.lt) Num.lt_asymm hn (fun a b ha hb => (vmax a b).trans (fMax_eq ha hb)) hall hx
  · refine landsRow_of_reduce (exec_vredmin s o) (congrArg (·, 0) ?_)
    exact extremum_float (before := fun a b => b.lt a) Num.lt_asymm hn (fun a b ha hb => (vmin a b).trans (fMin_eq ha hb)) hall hx
  · refine landsRow_of_reduce (exec_vredmax s o) (congrArg (·, 0) ?_)
    rw [h, extremum, if_pos hfl]
    rfl
  · refine landsRow_of_reduce (exec_vredmin s o) (congrArg (·, 0) ?_)
    rw [h, extremum, if_pos hfl]

/-- Settles O24: sums by `sumLanes`, extrema by the code that the choice between two prefers. -/
theorem vectorReductions : Obligations.VectorReductions := by
  intro s o
  dsimp only
  refine ⟨fun hf => ⟨?_, ?_, reductions_int s o hf⟩, fun hf => ?_⟩
  · exact landsRow_of_reduce (x := sumLanes o.fmt (activeLanes s o o.n)) rfl (sumLanes_int hf _)
  · exact (landsLanes_of_laneOp_all (g := fun i => sumLanes o.fmt (activeLanes s o (i + 1))) rfl).congr fun j _ _ => sumLanes_int hf _
  · have hfl := Fmt.isFloat_of_clsF hf
    refine ⟨landsRow_of_reduce (x := sumLanes o.fmt (activeLanes s o o.n)) rfl ?_,
      (landsLanes_of_laneOp_all (g := fun i => sumLanes o.fmt (activeLanes s o (i + 1))) rfl).congr fun j _ _ => ?_, reductions_float s o hf⟩
    all_goals
      unfold activeLanes
      generalize List.map (laneN (s.v o.a) o.w) _ = l
      cases l with
      | nil => exact sumLanes_nil hfl
      | cons x l => exact sumLanes_cons hfl x l
end Sys2Proof.Machine

namespace Sys2Proof.Machine
open Sys2Proof

/-! Ranking lanes (R102, R161). -/

/-- Whether code x outranks code y, whatever their lanes: NaN codes last. -/
def outranks (f : Fmt) (low : Bool) (x y : Nat) : Bool :=
  if f.isFloat then
    !(decodeNum f x).isNan && ((decodeNum f y).isNan || (if low then (decodeNum f x).lt (decodeNum f y) else (decodeNum f y).lt (decodeNum f x)))
  else decide (if low then intOf f x < intOf f y else intOf f y < intOf f x)
theorem ranksBefore_eq (f : Fmt) (low : Bool) (i x j y : Nat) :
    ranksBefore f low i x j y = (outranks f low x y || (!outranks f low y x && decide (i < j))) := by
  unfold ranksBefore outranks
  cases f.isFloat with
  | true => cases hx : (decodeNum f x).isNan <;> cases hy : (decodeNum f y).isNan <;> cases low <;> simp [hx, hy]
  | false => cases low <;> simp <;> grind
theorem outranks_asymm {f : Fmt} {low : Bool} {x y : Nat} (h : outranks f low x y = true) : outranks f low y x = false := by
  unfold outranks at *
  cases hf : f.isFloat with
  | true =>
    rw [hf] at h
    cases hx : (decodeNum f x).isNan with
    | true => simp [hx] at h
    | false =>
      cases hy : (decodeNum f y).isNan with
      | true => rfl
      | false => cases low <;> simp [hx, hy] at h ⊢ <;> exact Num.lt_asymm h
  | false => cases low <;> simp [hf] at h ⊢ <;> omega
/-- Not being outranked is transitive. -/
theorem not_outranks_trans {f : Fmt} {low : Bool} {x y z : Nat} (h1 : outranks f low y x = false) (h2 : outranks f low z y = false) :
    outranks f low z x = false := by
  unfold outranks at *
  cases hf : f.isFloat with
  | true =>
    have nan (u : Nat) (h : (decodeNum f u).isNan = false) : decodeNum f u ≠ .nan := fun h' => by simp [h', Num.isNan] at h
    rw [hf] at h1 h2
    cases hx : (decodeNum f x).isNan <;> cases hy : (decodeNum f y).isNan <;> cases hz : (decodeNum f z).isNan <;>
      simp [hx, hy, hz] at h1 h2 ⊢
    cases low with
    | true => exact Num.not_lt_trans (nan x hx) (nan y hy) (nan z hz) h1 h2
    | false => exact Num.not_lt_trans (nan z hz) (nan y hy) (nan x hx) h2 h1
  | false => cases low <;> simp [hf] at h1 h2 ⊢ <;> omega
theorem ranksBefore_total (f : Fmt) (low : Bool) {i j : Nat} (x y : Nat) (h : i ≠ j) :
    ranksBefore f low i x j y = true ∨ ranksBefore f low j y i x = true := by
  rw [ranksBefore_eq, ranksBefore_eq]
  cases outranks f low x y <;> cases outranks f low y x <;> grind
theorem ranksBefore_trans {f : Fmt} {low : Bool} {i x j y k z : Nat} (h1 : ranksBefore f low i x j y = true)
    (h2 : ranksBefore f low j y k z = true) : ranksBefore f low i x k z = true := by
  rw [ranksBefore_eq] at *
  have a1 := @outranks_asymm f low x y
  have a2 := @outranks_asymm f low y z
  have t1 := @not_outranks_trans f low x y z
  have t2 := @not_outranks_trans f low y z x
  have t3 := @not_outranks_trans f low z x y
  grind

/-! Insertion (for any order). -/

theorem insertBy_perm {α : Type} (le : α → α → Bool) (x : α) (l : List α) : (insertBy le x l).Perm (x :: l) := by
  induction l with
  | nil => exact .refl _
  | cons y l ih =>
    unfold insertBy
    split
    · exact .refl _
    · exact (ih.cons y).trans (.swap x y l)
/-- Insertion keeps a list in order. -/
theorem insertBy_pairwise {α : Type} {le : α → α → Bool} (htrans : ∀ a b c, le a b = true → le b c = true → le a c = true) {x : α} {l : List α}
    (htotal : ∀ y ∈ l, le x y = true ∨ le y x = true) (hl : l.Pairwise fun a b => le a b = true) :
    (insertBy le x l).Pairwise fun a b => le a b = true := by
  induction l with
  | nil => exact List.pairwise_singleton _ _
  | cons y l ih =>
    obtain ⟨hy, hl⟩ := List.pairwise_cons.mp hl
    unfold insertBy
    split
    · next h =>
      refine List.pairwise_cons.mpr ⟨fun z hz => ?_, List.pairwise_cons.mpr ⟨hy, hl⟩⟩
      rcases List.mem_cons.mp hz with rfl | hz
      · exact h
      · exact htrans _ _ _ h (hy z hz)
    · next h =>
      refine List.pairwise_cons.mpr ⟨fun z hz => ?_, ih (fun z hz => htotal z (List.mem_cons_of_mem y hz)) hl⟩
      rcases List.mem_cons.mp ((insertBy_perm le x l).mem_iff.mp hz) with rfl | hz
      · exact (htotal y List.mem_cons_self).resolve_left h
      · exact hy z hz
/-- Different elements inserted one after another come out in order. -/
theorem foldl_insertBy {α : Type} {le : α → α → Bool} (htrans : ∀ a b c, le a b = true → le b c = true → le a c = true)
    (htotal : ∀ a b, a ≠ b → le a b = true ∨ le b a = true) (l : List α) : ∀ r : List α, (l ++ r).Nodup →
      (r.Pairwise fun a b => le a b = true) →
      (l.foldl (fun r x => insertBy le x r) r).Perm (l ++ r) ∧ (l.foldl (fun r x => insertBy le x r) r).Pairwise fun a b => le a b = true := by
  induction l with
  | nil => exact fun r _ hr => ⟨.refl _, hr⟩
  | cons x l ih =>
    intro r hnd hr
    have move : (l ++ insertBy le x r).Perm (x :: l ++ r) := ((insertBy_perm le x r).append_left l).trans List.perm_middle
    have hx : x ∉ l ++ r := (List.nodup_cons.mp hnd).1
    obtain ⟨hp, hs⟩ := ih (insertBy le x r) (move.nodup_iff.mpr hnd)
      (insertBy_pairwise htrans (fun y hy => htotal x y fun h => hx (by simp [h, hy])) hr)
    exact ⟨hp.trans move, hs⟩

/-! `vtopk`. -/

/-- Inserting a lane with its code is inserting its index. -/
theorem rankInsert_eq (f : Fmt) (low : Bool) (x : Nat → Nat) (i : Nat) (l : List Nat) :
    rankInsert f low (i, x i) (l.map fun i => (i, x i)) =
      (insertBy (fun i j => ranksBefore f low i (x i) j (x j)) i l).map fun i => (i, x i) := by
  induction l with
  | nil => rfl
  | cons j l ih =>
    rw [List.map_cons, rankInsert, insertBy, ih]
    split <;> rfl
/-- The indices of lanes, ranked. -/
def rankLanes (f : Fmt) (low : Bool) (x : Nat → Nat) (l : List Nat) : List Nat :=
  l.foldl (fun r i => insertBy (fun i j => ranksBefore f low i (x i) j (x j)) i r) []
theorem foldl_rankInsert (f : Fmt) (low : Bool) (x : Nat → Nat) (l : List Nat) :
    l.foldl (fun r i => rankInsert f low (i, x i) r) [] = (rankLanes f low x l).map fun i => (i, x i) := by
  have key (l r : List Nat) : l.foldl (fun r i => rankInsert f low (i, x i) r) (r.map fun i => (i, x i)) =
      (l.foldl (fun r i => insertBy (fun i j => ranksBefore f low i (x i) j (x j)) i r) r).map fun i => (i, x i) := by
    induction l generalizing r with
    | nil => rfl
    | cons i l ih => rw [List.foldl_cons, rankInsert_eq, ih, List.foldl_cons]
  exact key l []
theorem rankLanes_spec (f : Fmt) (low : Bool) (x : Nat → Nat) {l : List Nat} (h : l.Nodup) :
    (rankLanes f low x l).Perm l ∧ (rankLanes f low x l).Pairwise fun i j => ranksBefore f low i (x i) j (x j) = true := by
  have := foldl_insertBy (le := fun i j => ranksBefore f low i (x i) j (x j)) (fun _ _ _ => ranksBefore_trans)
    (fun a b => ranksBefore_total f low (x a) (x b)) l [] (by rwa [List.append_nil]) .nil
  rwa [List.append_nil] at this
/-- The value and index lanes that `vtopk` lands for ranked lanes. -/
def topkVals (w n m : Nat) (x : Nat → Nat) (rank : List Nat) : Row :=
  rowOfLanes w ((List.range n).map fun j => if j < m then (rank[j]?.map x).getD 0 else 0)
def topkInds (w n m : Nat) (rank : List Nat) : Row :=
  rowOfLanes w ((List.range n).map fun j => if j < m then rank[j]?.getD (2 ^ w - 1) else 0)
theorem exec_vtopk (s : State) (o : VecOp) :
    let x := laneN (s.v o.a) o.w
    let rank := rankLanes o.fmt (o.x.getLsbD 0) x ((List.range o.n).filter (active o.ke (s.k o.km) o.n))
    exec (.vtopk o) s = .next (s.lands [s.lander (vLat o.d.toNat 8) (s.vDest o.d.toNat) (topkVals o.w o.n o.c.toNat x rank) allOnes 0,
      s.lander (vLat (o.d.toNat + 1) 8) (s.vDest (o.d.toNat + 1)) (topkInds o.w o.n o.c.toNat rank) allOnes 0]) := by
  dsimp only
  rw [← State.resultV_resultV]
  change execVtopk o s = _
  have fst : (Prod.fst ∘ fun i => (i, laneN (s.v o.a) o.w i)) = id := rfl
  simp only [execVtopk, foldl_rankInsert, List.getElem?_map, Option.map_map, fst, Option.map_id, id]
  rfl
theorem laneN_topkVals {w n m j : Nat} {x : Nat → Nat} {rank : List Nat} (hn : n = 1024 / w) (hx : ∀ i, x i < 2 ^ w) (hj : j < n) :
    (j < m → (∀ i, rank[j]? = some i → laneN (topkVals w n m x rank) w j = x i) ∧ (rank[j]? = none → laneN (topkVals w n m x rank) w j = 0)) ∧
      (m ≤ j → laneN (topkVals w n m x rank) w j = 0) := by
  rw [topkVals, laneN_rowOfLanes_range _ _ (hn ▸ hj), if_pos hj]
  refine ⟨fun hm => ⟨fun i hi => ?_, fun hi => ?_⟩, fun hm => ?_⟩
  · simp [hm, hi, Nat.mod_eq_of_lt (hx i)]
  · simp [hi]
  · simp [Nat.not_lt.mpr hm]
theorem laneN_topkInds {w n m j : Nat} {rank : List Nat} (hn : n = 1024 / w) (hj : j < n) :
    (j < m → (∀ i, rank[j]? = some i → laneN (topkInds w n m rank) w j = i % 2 ^ w) ∧
      (rank[j]? = none → laneN (topkInds w n m rank) w j = 2 ^ w - 1)) ∧ (m ≤ j → laneN (topkInds w n m rank) w j = 0) := by
  rw [topkInds, laneN_rowOfLanes_range _ _ (hn ▸ hj), if_pos hj]
  refine ⟨fun hm => ⟨fun i hi => ?_, fun hi => ?_⟩, fun hm => ?_⟩
  · simp [hm, hi]
  · rw [if_pos hm, hi]
    exact Nat.mod_eq_of_lt (Nat.sub_one_lt (Nat.ne_of_gt (Nat.two_pow_pos w)))
  · simp [Nat.not_lt.mpr hm]

/-- Settles O25: lanes are ranked by insertion. -/
theorem topKRanksLanes : Obligations.TopKRanksLanes := by
  intro s o
  dsimp only
  obtain ⟨hp, hs⟩ := rankLanes_spec o.fmt (o.x.getLsbD 0) (laneN (s.v o.a) o.w)
    (List.nodup_range.sublist List.filter_sublist : ((List.range o.n).filter (active o.ke (s.k o.km) o.n)).Nodup)
  refine ⟨_, hp, hs, _, _, exec_vtopk s o, fun j hj => ?_⟩
  obtain ⟨v1, v2⟩ := laneN_topkVals rfl (laneN_lt (s.v o.a) o.w) hj
  obtain ⟨i1, i2⟩ := laneN_topkInds rfl hj
  exact ⟨fun hm => ⟨fun i hi => ⟨(v1 hm).1 i hi, (i1 hm).1 i hi⟩, fun hi => ⟨(v1 hm).2 hi, (i1 hm).2 hi⟩⟩, fun hm => ⟨v2 hm, i2 hm⟩⟩
end Sys2Proof.Machine

namespace Sys2Proof.Machine
open Sys2Proof

/-! Codes and their values (R83, R84). -/

/-- A float's sign, exponent and mantissa fill its width. -/
theorem Fmt.width_float {f : Fmt} (h : f.isFloat = true) : f.width - 1 = f.mant + f.expo := by
  revert h
  cases f <;> decide
/-- The fields of a code. -/
theorem code_fields (M E : Nat) (s : Bool) {e m : Nat} (he : e < 2 ^ E) (hm : m < 2 ^ M) :
    let code := (if s then 2 ^ (M + E) else 0) + e * 2 ^ M + m
    (code >>> (M + E)) % 2 = (if s then 1 else 0) ∧ (code >>> M) % 2 ^ E = e ∧ code % 2 ^ M = m := by
  intro code
  have hc : code = ((if s then 1 else 0) * 2 ^ E + e) * 2 ^ M + m := by
    rw [Nat.add_mul]
    cases s
    · simp [code]
    · simp [code, Nat.pow_add, Nat.mul_comm]
  have high : code >>> M = (if s then 1 else 0) * 2 ^ E + e := by
    rw [Nat.shiftRight_eq_div_pow, hc, Nat.add_comm, Nat.add_mul_div_right _ _ (Nat.two_pow_pos M), Nat.div_eq_of_lt hm, Nat.zero_add]
  refine ⟨?_, ?_, ?_⟩
  · rw [Nat.shiftRight_add, high, Nat.shiftRight_eq_div_pow, Nat.add_comm, Nat.add_mul_div_right _ _ (Nat.two_pow_pos E),
      Nat.div_eq_of_lt he, Nat.zero_add]
    cases s <;> rfl
  · rw [high, Nat.add_comm, Nat.add_mul_mod_self_right, Nat.mod_eq_of_lt he]
  · rw [hc, Nat.add_comm, Nat.add_mul_mod_self_right, Nat.mod_eq_of_lt hm]
/-- R84: the value of a code by its fields. -/
theorem decodeNum_fields {f : Fmt} (hf : f.isFloat = true) (s : Bool) {e m : Nat} (he : e < 2 ^ f.expo) (hm : m < 2 ^ f.mant) :
    decodeNum f ((if s then 2 ^ (f.mant + f.expo) else 0) + e * 2 ^ f.mant + m) =
      if f.hasInf = true ∧ e = 2 ^ f.expo - 1 then (if m = 0 then .inf s else .nan)
      else if f = .f8e4 ∧ e = 15 ∧ m = 7 then .nan
      else if e = 0 then .fin s m (1 - (f.bias : Int) - f.mant)
      else .fin s (2 ^ f.mant + m) ((e : Int) - f.bias - f.mant) := by
  obtain ⟨h1, h2, h3⟩ := code_fields f.mant f.expo s he hm
  rw [decodeNum, if_pos hf]
  simp only [h1, h2, h3, Bool.and_eq_true, decide_eq_true_eq, and_assoc]
  cases s <;> rfl
/-- The first part of O17. -/
theorem decodeNum_code {f : Fmt} (hf : f.isFloat = true) (s : Bool) {e m : Nat} (he : e < 2 ^ f.expo) (hm : m < 2 ^ f.mant) :
    let code := (if s then 2 ^ (f.width - 1) else 0) + e * 2 ^ f.mant + m
    let special : Prop := f.hasInf = true ∧ e = 2 ^ f.expo - 1
    (special → decodeNum f code = if m = 0 then .inf s else .nan) ∧ (f = .f8e4 → e = 15 → m = 7 → decodeNum f code = .nan) ∧
    (¬special → ¬(f = .f8e4 ∧ e = 15 ∧ m = 7) → decodeNum f code =
      if e = 0 then .fin s m (1 - (f.bias : Int) - f.mant) else .fin s (2 ^ f.mant + m) ((e : Int) - f.bias - f.mant)) := by
  dsimp only
  rw [Fmt.width_float hf, decodeNum_fields hf s he hm]
  refine ⟨fun h => if_pos h, fun hf8 h15 h7 => ?_, fun hs h8 => ?_⟩
  · subst hf8
    rw [if_neg (fun h => Bool.false_ne_true h.1), if_pos ⟨rfl, h15, h7⟩]
  · rw [if_neg hs, if_neg h8]

/-! Exact arithmetic (R88, R101, R102). -/

theorem Num.rat_neg (x : Num) : x.neg.rat = -x.rat := by
  cases x with
  | nan => rfl
  | inf s => rfl
  | fin s m e =>
    have : signedNat (!s) m = -signedNat s m := by cases s <;> simp [signedNat]
    rw [Num.neg, Num.rat, Num.rat, this, Rat.intCast_neg, Rat.neg_mul]
/-- Negation of a finite value. -/
theorem Num.neg_units {x : Num} {e i : Int} (h : x.units e = some i) : x.neg.units e = some (-i) ∧ x.neg.isNeg = !x.isNeg := by
  obtain ⟨hf, hr⟩ := Num.units_eq_some.mp h
  obtain ⟨s, m, g, rfl⟩ := Num.exists_fin hf
  exact ⟨Num.units_eq_some.mpr ⟨rfl, by rw [Num.rat_neg, hr, Rat.intCast_neg, Rat.neg_mul]⟩, rfl⟩
/-- R101: finite values add exactly; a sum of 0 is negative when both terms are. -/
theorem Num.add_units {x y : Num} {e i j : Int} (hx : x.units e = some i) (hy : y.units e = some j) :
    (x.add y).units e = some (i + j) ∧ (i + j = 0 → (x.add y).isNeg = (x.isNeg && y.isNeg)) := by
  obtain ⟨xf, xr⟩ := Num.units_eq_some.mp hx
  obtain ⟨yf, yr⟩ := Num.units_eq_some.mp hy
  obtain ⟨af, ar, an⟩ := Num.add_fin xf yf
  have sum : (x.add y).rat = (i + j : Int) * twoTo e := by rw [ar, xr, yr, Rat.intCast_add, Rat.add_mul]
  refine ⟨Num.units_eq_some.mpr ⟨af, sum⟩, fun h0 => ?_⟩
  rw [an, if_pos (by rw [sum, h0]; exact Rat.zero_mul _)]
/-- R102: finite values are ordered by value, -0 below +0. -/
theorem Num.lt_units {x y : Num} {e i j : Int} (hx : x.units e = some i) (hy : y.units e = some j) :
    (i ≠ j → x.lt y = decide (i < j)) ∧ (i = j → (x.lt y = true ↔ i = 0 ∧ x.isNeg = true ∧ y.isNeg = false)) := by
  obtain ⟨xf, xr⟩ := Num.units_eq_some.mp hx
  obtain ⟨yf, yr⟩ := Num.units_eq_some.mp hy
  obtain ⟨s, m, g, rfl⟩ := Num.exists_fin xf
  obtain ⟨t, n, h, rfl⟩ := Num.exists_fin yf
  have hlt := Num.lt_fin s t m n g h
  have hm := Num.fin_rat_eq_zero s m g
  have hn := Num.fin_rat_eq_zero t n h
  rw [xr, intCast_mul_twoTo_eq_zero] at hm
  rw [yr, intCast_mul_twoTo_eq_zero] at hn
  rw [xr, yr, Rat.mul_lt_mul_right (twoTo_pos e), Rat.intCast_lt_intCast, mul_twoTo_inj, Rat.intCast_inj] at hlt
  simp only [Num.isNeg]
  grind
/-- Sums and products with infinities (R88, R101). -/
theorem Num.inf_add_mul (s t : Bool) {x : Num} (h : x.isFin = true) :
    (Num.inf s).add x = .inf s ∧ x.add (.inf s) = .inf s ∧ (Num.inf s).add (.inf t) = (if s = t then .inf s else .nan) ∧
    (Num.inf s).mul (.inf t) = .inf (s != t) ∧ (Num.inf s).mul x = (if x.isZero then .nan else .inf (s != x.isNeg)) ∧
    x.mul (.inf s) = (Num.inf s).mul x := by
  obtain ⟨r, m, e, rfl⟩ := Num.exists_fin h
  refine ⟨rfl, rfl, rfl, rfl, ?_, ?_⟩
  · cases m <;> rfl
  · cases m <;> cases r <;> cases s <;> rfl
end Sys2Proof.Machine

namespace Sys2Proof.Machine
open Sys2Proof

/-! Rounding a magnitude at an ulp (R88). -/

/-- A magnitude m x 2^e as a rational. -/
def mag (m : Nat) (e : Int) : Rat := (m : Rat) * twoTo e

theorem mag_def (m : Nat) (e : Int) : mag m e = ((m : Int) : Rat) * twoTo e := by rw [mag, Rat.intCast_natCast]
/-- Magnitudes at one exponent compare as their numbers do. -/
theorem mag_lt_mag {m n : Nat} {e : Int} : mag m e < mag n e ↔ m < n := by
  rw [mag, mag, Rat.mul_lt_mul_right (twoTo_pos e), Rat.natCast_lt_natCast]
theorem mag_le_mag {m n : Nat} {e : Int} : mag m e ≤ mag n e ↔ m ≤ n := by
  rw [← Rat.not_lt, mag_lt_mag, Nat.not_lt]
theorem mag_inj {m n : Nat} {e : Int} : mag m e = mag n e ↔ m = n := by
  rw [mag, mag, mul_twoTo_inj, Rat.natCast_inj]
/-- A magnitude at a lower exponent. -/
theorem mag_of_le {e g : Int} (h : e ≤ g) (m : Nat) : mag m g = mag (m * 2 ^ (g - e).toNat) e := by
  rw [mag_def, mag_def, twoTo_of_le h, ← Rat.mul_assoc, ← Rat.intCast_mul, ← Int.natCast_mul]
theorem mag_pos {m : Nat} {e : Int} : 0 < mag m e ↔ 0 < m := by
  rw [mag, Rat.mul_pos_iff_of_pos_right (twoTo_pos e), Rat.natCast_pos]
/-- How n x 2^g compares with m x 2^e. -/
theorem cmpPow_eq (n : Nat) (g : Int) (m : Nat) (e : Int) : cmpPow n g m e =
    if mag n g < mag m e then .lt else if mag n g = mag m e then .eq else .gt := by
  rw [mag_of_le (Int.min_le_left g e) n, mag_of_le (Int.min_le_right g e) m, cmpPow]
  simp only [mag_lt_mag, mag_inj, compare, compareOfLessAndEq]
theorem mag_add (m n : Nat) (e : Int) : mag m e + mag n e = mag (m + n) e := by
  rw [mag, mag, mag, Rat.natCast_add, Rat.add_mul]
theorem mag_one (e : Int) : mag 1 e = twoTo e := Rat.one_mul _
theorem mag_two_pow (n : Nat) (e : Int) : mag (2 ^ n) e = twoTo (e + n) := by
  rw [mag_def, ← twoTo_natCast, ← twoTo_add, Int.add_comm]
theorem twoTo_succ (e : Int) : twoTo (e + 1) = 2 * twoTo e := by
  rw [twoTo_add, Rat.mul_comm]
  rfl
theorem twoTo_le_twoTo {e g : Int} (h : e ≤ g) : twoTo e ≤ twoTo g := by
  rw [← mag_one e, ← mag_one g, mag_of_le h, mag_le_mag, Nat.one_mul]
  exact Nat.two_pow_pos _
theorem twoTo_lt_twoTo {e g : Int} (h : e < g) : twoTo e < twoTo g := by
  have h1 := twoTo_succ e
  have h2 := twoTo_le_twoTo (show e + 1 ≤ g by omega)
  have h3 := twoTo_pos e
  grind
/-- A number lies between the powers of two that its bit length gives. -/
theorem bitLen_bounds {m : Nat} (h : 0 < m) : 2 ^ (bitLen m - 1) ≤ m ∧ m < 2 ^ bitLen m ∧ 1 ≤ bitLen m := by
  have h0 : m ≠ 0 := Nat.ne_of_gt h
  rw [bitLen, if_neg h0]
  exact ⟨Nat.log2_self_le h0, Nat.lt_log2_self, Nat.le_add_left 1 _⟩
theorem mag_bounds {m : Nat} (h : 0 < m) (e : Int) : twoTo (e + bitLen m - 1) ≤ mag m e ∧ mag m e < twoTo (e + bitLen m) := by
  obtain ⟨h1, h2, h3⟩ := bitLen_bounds h
  rw [show e + bitLen m - 1 = e + (bitLen m - 1 : Nat) by omega, ← mag_two_pow, ← mag_two_pow, mag_le_mag, mag_lt_mag]
  exact ⟨h1, h2⟩
/-- The multiple of p = 2 x half nearest to t x p + rem, the even one of two nearest. -/
theorem nearest_multiple {m t rem half p : Nat} (hp : p = 2 * half) (hm : t * p + rem = m) (hr : rem < p) :
    let r := if (decide (half < rem) || (decide (rem = half) && decide (t % 2 = 1))) = true then t + 1 else t
    2 * m ≤ 2 * (r * p) + p ∧ 2 * (r * p) ≤ 2 * m + p ∧ (2 * m = 2 * (r * p) + p ∨ 2 * (r * p) = 2 * m + p → r % 2 = 0) ∧
      (rem = 0 ↔ m = r * p) := by
  intro r
  by_cases up : half < rem ∨ (rem = half ∧ t % 2 = 1)
  · have hr' : r = t + 1 := if_pos (by simpa using up)
    rw [hr', Nat.succ_mul t p]
    generalize t * p = a at *
    omega
  · have hr' : r = t := if_neg (by simpa using up)
    rw [hr']
    generalize t * p = a at *
    omega
/-- Rounding m to a multiple of 2^(q - e). -/
theorem roundAt_nat (m : Nat) {e q : Int} (h : e < q) :
    let r := (roundAt m e q false).1
    let p := 2 ^ (q - e).toNat
    2 * m ≤ 2 * (r * p) + p ∧ 2 * (r * p) ≤ 2 * m + p ∧ (2 * m = 2 * (r * p) + p ∨ 2 * (r * p) = 2 * m + p → r % 2 = 0) ∧
      ((roundAt m e q false).2 = false ↔ m = r * p) := by
  obtain ⟨s, hs⟩ : ∃ s, (q - e).toNat = s + 1 := ⟨(q - e).toNat - 1, by omega⟩
  have hm : m / 2 ^ (s + 1) * 2 ^ (s + 1) + m % 2 ^ (s + 1) = m := by rw [Nat.mul_comm]; exact Nat.div_add_mod m _
  have key := nearest_multiple (Nat.pow_succ' : 2 ^ (s + 1) = 2 * 2 ^ s) hm (Nat.mod_lt m (Nat.two_pow_pos (s + 1)))
  simp only [roundAt, if_neg (Int.not_le.mpr h), hs, Nat.shiftRight_eq_div_pow, Nat.add_sub_cancel, Bool.false_or, Bool.or_false,
    decide_eq_false_iff_not, ne_eq, Decidable.not_not]
  exact key
/-- R88: a rounded magnitude is the nearest multiple of the ulp, an even one of two nearest, and is inexact when it differs. -/
theorem roundAt_spec (m : Nat) (e q : Int) :
    let r := (roundAt m e q false).1
    2 * mag m e ≤ 2 * mag r q + twoTo q ∧ 2 * mag r q ≤ 2 * mag m e + twoTo q ∧
      (2 * mag m e = 2 * mag r q + twoTo q ∨ 2 * mag r q = 2 * mag m e + twoTo q → r % 2 = 0) ∧
      ((roundAt m e q false).2 = false ↔ mag m e = mag r q) := by
  have hu := twoTo_pos q
  by_cases h : q ≤ e
  · have exact : mag m e = mag (roundAt m e q false).1 q := by
      rw [mag_of_le h]
      simp only [roundAt, if_pos h, Nat.shiftLeft_eq]
    have hix : (roundAt m e q false).2 = false := by simp only [roundAt, if_pos h]
    dsimp only
    rw [← exact]
    grind
  · have hlt : e < q := by omega
    obtain ⟨h1, h2, h3, h4⟩ := roundAt_nat m hlt
    have two (n : Nat) : 2 * mag n e = mag (2 * n) e := by rw [Nat.two_mul, ← mag_add]; grind
    dsimp only
    rw [mag_of_le (Int.le_of_lt hlt) (roundAt m e q false).1, ← mag_one q, mag_of_le (Int.le_of_lt hlt) 1, Nat.one_mul, two, two, mag_add, mag_add,
      mag_le_mag, mag_le_mag, mag_inj, mag_inj, mag_inj]
    exact ⟨h1, h2, h3, h4⟩
end Sys2Proof.Machine

namespace Sys2Proof.Machine
open Sys2Proof

/-! The magnitudes that codes stand for (R83, R84). -/

/-- The exponent of the least magnitude. -/
def eMin (f : Fmt) : Int := 1 - (f.bias : Int) - f.mant
/-- The integer and the exponent of a magnitude code: below 2^M the codes of zero and the subnormals, then 2^M codes for every exponent. -/
def codeMant (f : Fmt) (c : Nat) : Nat := if c < 2 ^ f.mant then c else 2 ^ f.mant + c % 2 ^ f.mant
def codeExp (f : Fmt) (c : Nat) : Int := eMin f + (c / 2 ^ f.mant - 1 : Nat)
/-- The magnitude of a code, and what lies halfway to the next code. -/
def codeVal (f : Fmt) (c : Nat) : Rat := mag (codeMant f c) (codeExp f c)
def codeMid (f : Fmt) (c : Nat) : Rat := mag (2 * codeMant f c + 1) (codeExp f c - 1)

theorem codeMid_eq (f : Fmt) (c : Nat) : 2 * codeMid f c = 2 * codeVal f c + twoTo (codeExp f c) := by
  have h : twoTo (codeExp f c) = 2 * twoTo (codeExp f c - 1) := by rw [← twoTo_succ]; congr 1; omega
  rw [codeMid, codeVal, mag, mag, h, Rat.natCast_add, Rat.natCast_mul]
  grind
theorem codeExp_mono (f : Fmt) {c d : Nat} (h : c ≤ d) : codeExp f c ≤ codeExp f d := by
  have := Nat.div_le_div_right (c := 2 ^ f.mant) h
  unfold codeExp
  omega
/-- The code of an integer r at k exponents above the least. -/
theorem code_of {f : Fmt} {k r : Nat} (hr : r < 2 * 2 ^ f.mant) (hk : k = 0 ∨ 2 ^ f.mant ≤ r) :
    codeMant f (k * 2 ^ f.mant + r) = r ∧ codeExp f (k * 2 ^ f.mant + r) = eMin f + k := by
  have hp := Nat.two_pow_pos f.mant
  unfold codeMant codeExp
  generalize 2 ^ f.mant = p at *
  by_cases h : r < p
  · obtain rfl : k = 0 := by omega
    rw [Nat.zero_mul, Nat.zero_add, if_pos h, Nat.div_eq_of_lt h]
    exact ⟨rfl, rfl⟩
  · have hc : k * p + r = (r - p) + (k + 1) * p := by rw [Nat.succ_mul]; omega
    have hrp : r - p < p := by omega
    rw [hc, Nat.add_mul_mod_self_right, Nat.mod_eq_of_lt hrp, Nat.add_mul_div_right _ _ hp, Nat.div_eq_of_lt hrp, if_neg]
    · exact ⟨by omega, by congr 2; omega⟩
    · rw [Nat.succ_mul]
      omega
/-- Every code is one of an integer at an exponent. -/
theorem exists_code (f : Fmt) (c : Nat) : ∃ k r, c = k * 2 ^ f.mant + r ∧ r < 2 * 2 ^ f.mant ∧ (k = 0 ∨ 2 ^ f.mant ≤ r) := by
  have hp := Nat.two_pow_pos f.mant
  by_cases h : c < 2 ^ f.mant
  · exact ⟨0, c, by omega, by omega, .inl rfl⟩
  · have hd := Nat.div_add_mod c (2 ^ f.mant)
    have hm := Nat.mod_lt c hp
    have hq : 1 ≤ c / 2 ^ f.mant := (Nat.one_le_div_iff hp).mpr (Nat.not_lt.mp h)
    refine ⟨c / 2 ^ f.mant - 1, 2 ^ f.mant + c % 2 ^ f.mant, ?_, by omega, .inr (by omega)⟩
    rw [Nat.mul_comm] at hd
    rw [Nat.sub_mul, Nat.one_mul]
    have := Nat.mul_le_mul_right (2 ^ f.mant) hq
    omega
/-- The magnitude of an integer at an exponent, also where it overflows into the next. -/
theorem codeVal_of {f : Fmt} {k r : Nat} (hr : r ≤ 2 * 2 ^ f.mant) (hk : k = 0 ∨ 2 ^ f.mant ≤ r) :
    codeVal f (k * 2 ^ f.mant + r) = mag r (eMin f + k) := by
  by_cases h : r < 2 * 2 ^ f.mant
  · obtain ⟨h1, h2⟩ := code_of h hk
    rw [codeVal, h1, h2]
  · have hp := Nat.two_pow_pos f.mant
    have hr2 : r = 2 * 2 ^ f.mant := by omega
    have hc : k * 2 ^ f.mant + r = (k + 1) * 2 ^ f.mant + 2 ^ f.mant := by rw [Nat.succ_mul]; omega
    obtain ⟨h1, h2⟩ := code_of (f := f) (k := k + 1) (r := 2 ^ f.mant) (by omega) (.inr (Nat.le_refl _))
    rw [hc, codeVal, h1, h2, hr2, mag_of_le (show eMin f + k ≤ eMin f + (k + 1 : Nat) by omega),
      show (eMin f + (k + 1 : Nat) - (eMin f + k)).toNat = 1 by omega, Nat.pow_one, Nat.mul_comm]
/-- The next code's magnitude is one unit more. -/
theorem codeVal_succ (f : Fmt) (c : Nat) : codeVal f (c + 1) = codeVal f c + twoTo (codeExp f c) := by
  obtain ⟨k, r, rfl, hr, hk⟩ := exists_code f c
  rw [(code_of hr hk).2, codeVal_of (Nat.le_of_lt hr) hk, Nat.add_assoc, codeVal_of hr (by omega), ← mag_one, mag_add]
theorem codeVal_lt {f : Fmt} {c d : Nat} (h : c < d) : codeVal f c < codeVal f d := by
  induction d with
  | zero => omega
  | succ d ih =>
    rw [codeVal_succ]
    have hu := twoTo_pos (codeExp f d)
    by_cases hd : c = d
    · subst hd; grind
    · have := ih (by omega); grind
theorem codeVal_le {f : Fmt} {c d : Nat} (h : c ≤ d) : codeVal f c ≤ codeVal f d := by
  rcases Nat.lt_or_eq_of_le h with h | rfl
  · exact Rat.le_of_lt (codeVal_lt h)
  · exact Rat.le_refl
/-- Midpoints lie between their codes, in the codes' order. -/
theorem codeVal_lt_codeMid (f : Fmt) (c : Nat) : codeVal f c < codeMid f c := by
  have := codeMid_eq f c
  have := twoTo_pos (codeExp f c)
  grind
theorem codeMid_lt_codeVal {f : Fmt} {c d : Nat} (h : c < d) : codeMid f c < codeVal f d := by
  have h1 := codeMid_eq f c
  have h2 := twoTo_pos (codeExp f c)
  have h3 := codeVal_succ f c
  have h4 := codeVal_le (f := f) h
  grind
theorem codeMid_le {f : Fmt} {c d : Nat} (h : c ≤ d) : codeMid f c ≤ codeMid f d := by
  rcases Nat.lt_or_eq_of_le h with h | rfl
  · have h1 := codeMid_lt_codeVal (f := f) h
    have h2 := codeVal_lt_codeMid f d
    grind
  · exact Rat.le_refl

theorem codeExp_ge {f : Fmt} {k r : Nat} (hk : k = 0 ∨ 2 ^ f.mant ≤ r) : eMin f + k ≤ codeExp f (k * 2 ^ f.mant + r) := by
  have hp := Nat.two_pow_pos f.mant
  rcases hk with rfl | hk
  · rw [codeExp]
    omega
  · rw [← (code_of (f := f) (k := k) (r := 2 ^ f.mant) (by omega) (.inr (Nat.le_refl _))).2]
    exact codeExp_mono f (Nat.add_le_add_left hk _)
theorem mant_even {f : Fmt} (h : f.isFloat = true) : 2 ^ f.mant % 2 = 0 := by
  revert h
  cases f <;> decide

/-- A code nearest to a magnitude, an even one of two nearest (R88). -/
def Nearest (f : Fmt) (x : Rat) (c : Nat) : Prop :=
  (x ≤ codeMid f c ∧ (codeMid f c = x → c % 2 = 0)) ∧ (0 < c → codeMid f (c - 1) ≤ x ∧ (codeMid f (c - 1) = x → c % 2 = 0))

/-- The exponent at which a magnitude is rounded (R88). -/
def ulpExp (f : Fmt) (m : Nat) (e : Int) : Int := max (e + bitLen m - (f.mant + 1)) (eMin f)
/-- The code of a rounded magnitude. -/
def roundCode (f : Fmt) (m : Nat) (e : Int) : Nat :=
  (ulpExp f m e - eMin f).toNat * 2 ^ f.mant + (roundAt m e (ulpExp f m e) false).1
/-- The rounded integer has M + 1 bits, or is one more; less only at the least exponent. -/
theorem roundAt_range (f : Fmt) {m : Nat} (hm : 0 < m) (e : Int) :
    let r := (roundAt m e (ulpExp f m e) false).1
    let k := (ulpExp f m e - eMin f).toNat
    r ≤ 2 * 2 ^ f.mant ∧ (k = 0 ∨ (2 ^ f.mant ≤ r ∧ mag (2 ^ f.mant) (ulpExp f m e) ≤ mag m e)) := by
  obtain ⟨h1, h2, -, -⟩ := roundAt_spec m e (ulpExp f m e)
  obtain ⟨b1, b2⟩ := mag_bounds hm e
  have hq : e + bitLen m - (f.mant + 1) ≤ ulpExp f m e := Int.le_max_left ..
  have hk : (ulpExp f m e - eMin f).toNat = 0 ∨ ulpExp f m e = e + bitLen m - (f.mant + 1) := by unfold ulpExp; omega
  generalize ulpExp f m e = q at *
  generalize (roundAt m e q false).1 = r at *
  have two (n : Nat) : 2 * mag n q = mag (2 * n) q := by rw [Nat.two_mul, ← mag_add]; grind
  have top : mag m e < mag (2 * 2 ^ f.mant) q := by
    rw [← Nat.pow_succ', mag_two_pow]
    have := twoTo_le_twoTo (show e + bitLen m ≤ q + (f.mant + 1 : Nat) by omega)
    grind
  rw [two, ← mag_one q] at h1 h2
  rw [mag_add] at h1
  constructor
  · have : mag (2 * r) q < mag (4 * 2 ^ f.mant + 1) q := by
      rw [← mag_add, show 4 * 2 ^ f.mant = 2 * (2 * 2 ^ f.mant) by omega, ← two (2 * 2 ^ f.mant)]
      grind
    rw [mag_lt_mag] at this
    omega
  · refine hk.imp_right fun hk => ?_
    have low : mag (2 ^ f.mant) q ≤ mag m e := by rw [mag_two_pow, show q + (f.mant : Nat) = e + bitLen m - 1 by omega]; exact b1
    refine ⟨?_, low⟩
    have : mag (2 * 2 ^ f.mant) q ≤ mag (2 * r + 1) q := by rw [← two]; grind
    rw [mag_le_mag] at this
    omega
/-- R88: the code of a rounded magnitude is nearest to it. -/
theorem nearest_roundCode {f : Fmt} (hf : f.isFloat = true) {m : Nat} (hm : 0 < m) (e : Int) :
    Nearest f (mag m e) (roundCode f m e) ∧ ((roundAt m e (ulpExp f m e) false).2 = false ↔ codeVal f (roundCode f m e) = mag m e) := by
  obtain ⟨h1, h2, h3, h4⟩ := roundAt_spec m e (ulpExp f m e)
  obtain ⟨hr, hk⟩ := roundAt_range f hm e
  have hq : eMin f ≤ ulpExp f m e := Int.le_max_right ..
  unfold roundCode
  generalize ulpExp f m e = q at *
  generalize (roundAt m e q false).1 = r at *
  obtain ⟨k, rfl⟩ : ∃ k : Nat, q = eMin f + k := ⟨(q - eMin f).toNat, by omega⟩
  rw [show (eMin f + (k : Int) - eMin f).toNat = k by omega] at *
  have val := codeVal_of (f := f) (k := k) (r := r) hr (hk.imp_right And.left)
  have even : (k * 2 ^ f.mant + r) % 2 = r % 2 := by
    have := mant_even hf
    rw [Nat.add_mod, Nat.mul_mod, this, Nat.mul_zero]
    omega
  have mid := codeMid_eq f (k * 2 ^ f.mant + r)
  have unit := twoTo_le_twoTo (codeExp_ge (f := f) (k := k) (r := r) (hk.imp_right And.left))
  rw [val] at mid
  refine ⟨⟨⟨by grind, fun h => ?_⟩, fun hc => ?_⟩, by rw [val]; exact h4.trans eq_comm⟩
  · rw [even]
    exact h3 (by grind)
  · have below := codeMid_eq f (k * 2 ^ f.mant + r - 1)
    have step := codeVal_succ f (k * 2 ^ f.mant + r - 1)
    rw [Nat.sub_add_cancel hc, val] at step
    by_cases hkr : k = 0 ∨ 2 ^ f.mant < r
    · have unit' := twoTo_le_twoTo (codeExp_ge (f := f) (k := k) (r := r - 1) (by omega))
      rw [show k * 2 ^ f.mant + (r - 1) = k * 2 ^ f.mant + r - 1 by have := Nat.two_pow_pos f.mant; rcases hkr with rfl | h <;> omega] at unit'
      exact ⟨by grind, fun h => even.trans (h3 (by grind))⟩
    · have unit' := twoTo_pos (codeExp f (k * 2 ^ f.mant + r - 1))
      obtain ⟨hPr, low⟩ := hk.resolve_left (fun h => hkr (.inl h))
      rw [show 2 ^ f.mant = r by omega] at low
      exact ⟨by grind, fun h => absurd h (by grind)⟩
end Sys2Proof.Machine

namespace Sys2Proof.Machine
open Sys2Proof

/-! Rounding to a float format (R85, R88-R90). -/

theorem maxCode_lt {f : Fmt} (hf : f.isFloat = true) : f.maxCode < 2 ^ f.expo * 2 ^ f.mant := by
  revert hf
  cases f <;> decide
/-- The greatest code is finite: its fields are not those of an infinity or a NaN. -/
theorem maxCode_finite {f : Fmt} (hf : f.isFloat = true) {c : Nat} (h : c ≤ f.maxCode) :
    ¬(f.hasInf = true ∧ c / 2 ^ f.mant = 2 ^ f.expo - 1) ∧ ¬(f = .f8e4 ∧ c / 2 ^ f.mant = 15 ∧ c % 2 ^ f.mant = 7) := by
  cases f <;> simp [Fmt.isFloat, Fmt.hasInf, Fmt.mant, Fmt.expo, Fmt.maxCode] at * <;> omega
/-- R84: the codes up to the greatest decode to their magnitudes, with either sign. -/
theorem decodeNum_sign_code {f : Fmt} (hf : f.isFloat = true) (s : Bool) {c : Nat} (h : c ≤ f.maxCode) :
    decodeNum f ((if s then 2 ^ (f.mant + f.expo) else 0) + c) = .fin s (codeMant f c) (codeExp f c) := by
  have hp := Nat.two_pow_pos f.mant
  have he : c / 2 ^ f.mant < 2 ^ f.expo := Nat.div_lt_of_lt_mul (by rw [Nat.mul_comm]; exact Nat.lt_of_le_of_lt h (maxCode_lt hf))
  have hd := decodeNum_fields hf s he (Nat.mod_lt c hp)
  obtain ⟨hinf, hnan⟩ := maxCode_finite hf h
  rw [Nat.add_assoc, Nat.div_add_mod', if_neg hinf, if_neg hnan] at hd
  rw [hd, codeMant, codeExp, eMin]
  by_cases hs : c < 2 ^ f.mant
  · rw [Nat.div_eq_of_lt hs, if_pos rfl, if_pos hs, Nat.mod_eq_of_lt hs]
    simp
  · have : 1 ≤ c / 2 ^ f.mant := (Nat.one_le_div_iff hp).mpr (Nat.not_lt.mp hs)
    rw [if_neg (by omega), if_neg hs]
    congr 1
    omega
theorem decodeNum_le_maxCode {f : Fmt} (hf : f.isFloat = true) {c : Nat} (h : c ≤ f.maxCode) :
    decodeNum f c = .fin false (codeMant f c) (codeExp f c) := by
  simpa using decodeNum_sign_code hf false h

theorem magGt_iff (m : Nat) (e : Int) (n : Nat) (g : Int) : magGt m e false n g = true ↔ mag n g < mag m e := by
  rw [mag_of_le (Int.min_le_left e g) m, mag_of_le (Int.min_le_right e g) n, mag_lt_mag]
  simp [magGt, Nat.shiftLeft_eq]
/-- Whether a magnitude whose rounded code is c is past a format's greatest value (R89). -/
def overflows (f : Fmt) (m : Nat) (e : Int) (c : Nat) : Bool :=
  match f with
  | .f8e4 => magGt m e false 448 0
  | .f4 => magGt m e false 6 0
  | f => decide (f.maxCode < c)
/-- What rounding a magnitude answers. -/
theorem roundMag_eq (f : Fmt) (quant neg : Bool) {m : Nat} (hm : 0 < m) (e : Int) :
    let sgn := if neg then 2 ^ (f.mant + f.expo) else 0
    let ix := (roundAt m e (ulpExp f m e) false).2
    roundMag f quant neg m e false =
      if overflows f m e (roundCode f m e) then (if f.hasInf && !quant then (sgn + f.infCode, flOf ||| flIx) else (sgn + f.maxCode, flSat ||| flIx))
      else (sgn + roundCode f m e, (if ix then flIx else 0) ||| (if ix && decide (e + bitLen m ≤ eMin f + f.mant) then flUf else 0)) := by
  have hcode : (if (roundAt m e (ulpExp f m e) false).1 = 0 then 0 else
      ((ulpExp f m e - eMin f).toNat <<< f.mant) + (roundAt m e (ulpExp f m e) false).1) = roundCode f m e := by
    obtain ⟨-, hk⟩ := roundAt_range f hm e
    have hp := Nat.two_pow_pos f.mant
    rw [Nat.shiftLeft_eq]
    split
    · next h0 =>
      rcases hk with hk | ⟨hk, -⟩
      · rw [roundCode, hk, h0, Nat.zero_mul]
      · omega
    · rfl
  dsimp only
  rw [← hcode, ← Nat.one_shiftLeft]
  cases f <;> rfl
/-- The greatest codes of formats with infinities are odd: halfway past them is past them (R89). -/
theorem maxCode_odd {f : Fmt} (h : f.hasInf = true) : f.maxCode % 2 = 1 := by
  revert h
  cases f <;> decide
/-- The greatest values of the formats without infinities. -/
theorem codeVal_maxCode_f8e4 : codeVal .f8e4 Fmt.f8e4.maxCode = mag 448 0 := by
  rw [codeVal, show codeMant .f8e4 Fmt.f8e4.maxCode = 14 by decide, show codeExp .f8e4 Fmt.f8e4.maxCode = 5 by decide,
    mag_of_le (show (0 : Int) ≤ 5 by decide)]
  rfl
theorem codeVal_maxCode_f4 : codeVal .f4 Fmt.f4.maxCode = mag 6 0 := by
  rw [codeVal, show codeMant .f4 Fmt.f4.maxCode = 3 by decide, show codeExp .f4 Fmt.f4.maxCode = 1 by decide,
    mag_of_le (show (0 : Int) ≤ 1 by decide)]
  rfl
/-- R89: a magnitude is past the greatest value when it rounds past it, or, without infinities, when it exceeds it. -/
theorem overflows_iff {f : Fmt} (hf : f.isFloat = true) {m : Nat} (hm : 0 < m) (e : Int) : overflows f m e (roundCode f m e) = true ↔
    if f.hasInf then codeMid f f.maxCode ≤ mag m e else codeVal f f.maxCode < mag m e := by
  obtain ⟨⟨⟨hup, htie⟩, hlow⟩, -⟩ := nearest_roundCode hf hm e
  have top {c : Nat} (h : f.maxCode < c) : codeMid f f.maxCode ≤ codeMid f (c - 1) := codeMid_le (by omega)
  cases hinf : f.hasInf with
  | true =>
    have ho : overflows f m e (roundCode f m e) = decide (f.maxCode < roundCode f m e) := by revert hinf; cases f <;> simp [Fmt.hasInf, overflows]
    have odd := maxCode_odd hinf
    rw [ho, if_pos rfl, decide_eq_true_iff]
    refine ⟨fun h => Rat.le_trans (top h) (hlow (by omega)).1, fun h => Nat.lt_of_not_le fun hle => ?_⟩
    rcases Nat.lt_or_eq_of_le hle with hlt | heq
    · have h1 := codeMid_lt_codeVal (f := f) hlt
      have h2 := codeVal_lt_codeMid f f.maxCode
      grind
    · rw [heq] at hup htie
      have := htie (Rat.le_antisymm h hup)
      omega
  | false =>
    rw [if_neg Bool.false_ne_true]
    revert hf hinf
    cases f <;> simp [Fmt.isFloat, Fmt.hasInf]
    · rw [codeVal_maxCode_f8e4]
      exact magGt_iff m e 448 0
    · rw [codeVal_maxCode_f4]
      exact magGt_iff m e 6 0
/-- A magnitude that is not past the greatest value rounds to a code up to its code. -/
theorem roundCode_le_maxCode {f : Fmt} (hf : f.isFloat = true) {m : Nat} (hm : 0 < m) {e : Int} (h : overflows f m e (roundCode f m e) = false) :
    roundCode f m e ≤ f.maxCode := by
  obtain ⟨⟨-, hlow⟩, -⟩ := nearest_roundCode hf hm e
  refine Nat.not_lt.mp fun hlt => Bool.false_ne_true (h.symm.trans ((overflows_iff hf hm e).mpr ?_))
  have h1 := Rat.le_trans (codeMid_le (f := f) (show f.maxCode ≤ roundCode f m e - 1 by omega)) (hlow (by omega)).1
  have h2 := codeVal_lt_codeMid f f.maxCode
  split
  · exact h1
  · grind
theorem cmpPow_lt {n m : Nat} {g e : Int} : cmpPow n g m e = .lt ↔ mag n g < mag m e := by
  rw [cmpPow_eq]
  split
  · simp [*]
  · split <;> simp [*]
theorem cmpPow_eq_eq {n m : Nat} {g e : Int} : cmpPow n g m e = .eq ↔ mag n g = mag m e := by
  rw [cmpPow_eq]
  split
  · simp; grind
  · split <;> simp [*]
theorem cmpPow_gt {n m : Nat} {g e : Int} : cmpPow n g m e = .gt ↔ mag m e < mag n g := by
  rw [cmpPow_eq]
  split
  · simp; grind
  · split
    · simp; grind
    · simp; grind
/-- How a code's magnitude, and what lies halfway to the next code, compare. -/
def cmpVal (f : Fmt) (cmp : Nat → Int → Ordering) (c : Nat) : Ordering := cmp (codeMant f c) (codeExp f c)
def cmpMid (f : Fmt) (cmp : Nat → Int → Ordering) (c : Nat) : Ordering := cmp (2 * codeMant f c + 1) (codeExp f c - 1)
/-- Rounding in terms of the codes up to the greatest. -/
theorem roundsTo_of {f : Fmt} (hf : f.isFloat = true) {quant neg : Bool} {cmp : Nat → Int → Ordering} {r : Nat × FFlags}
    (hpast : (if f.hasInf then cmpMid f cmp f.maxCode ≠ .gt else cmpVal f cmp f.maxCode = .lt) →
      r = let sign := if neg then 2 ^ (f.width - 1) else 0
        if f.hasInf && !quant then (sign + f.infCode, flOf ||| flIx) else (sign + f.maxCode, flSat ||| flIx))
    (hin : ¬(if f.hasInf then cmpMid f cmp f.maxCode ≠ .gt else cmpVal f cmp f.maxCode = .lt) →
      ∃ c, c ≤ f.maxCode ∧ r.1 = (if neg then 2 ^ (f.width - 1) else 0) + c ∧ (cmpMid f cmp c ≠ .lt ∧ (cmpMid f cmp c = .eq → c % 2 = 0)) ∧
        (0 < c → cmpMid f cmp (c - 1) ≠ .gt ∧ (cmpMid f cmp (c - 1) = .eq → c % 2 = 0)) ∧
        r.2 = if cmpVal f cmp c = .eq then 0 else flIx ||| (if cmp 1 (1 - (f.bias : Int)) = .gt then flUf else 0)) :
    RoundsTo f quant neg cmp r := by
  simp only [RoundsTo, decodeNum_le_maxCode hf (Nat.le_refl f.maxCode)]
  refine ⟨hpast, fun h => ?_⟩
  obtain ⟨c, hc, h1, h2, h3, h4⟩ := hin h
  refine ⟨c, hc, h1, fun _ => ?_, fun h0 => ?_, ?_⟩
  · simp only [decodeNum_le_maxCode hf hc]
    exact h2
  · simp only [decodeNum_le_maxCode hf (Nat.le_trans (Nat.sub_le c 1) hc)]
    exact h3 h0
  · simp only [decodeNum_le_maxCode hf hc]
    exact h4
theorem codeMant_lt (f : Fmt) (c : Nat) : codeMant f c < 2 * 2 ^ f.mant := by
  have := Nat.mod_lt c (Nat.two_pow_pos f.mant)
  unfold codeMant
  split <;> omega
/-- R88-R90: rounding an exact magnitude, seen by a comparison that knows it as far as codes and midpoints go. -/
theorem roundsTo_roundMag_of {f : Fmt} (hf : f.isFloat = true) (quant neg : Bool) {m : Nat} (hm : 0 < m) {e : Int} {cmp : Nat → Int → Ordering}
    (hcmp : ∀ n g, n < 4 * 2 ^ f.mant → cmp n g = cmpPow n g m e) : RoundsTo f quant neg cmp (roundMag f quant neg m e false) := by
  obtain ⟨⟨⟨hup, htie⟩, hlow⟩, hix⟩ := nearest_roundCode hf hm e
  have val (c : Nat) : cmpVal f cmp c = cmpVal f (fun n g => cmpPow n g m e) c := hcmp _ _ (by have := codeMant_lt f c; omega)
  have mid (c : Nat) : cmpMid f cmp c = cmpMid f (fun n g => cmpPow n g m e) c := hcmp _ _ (by have := codeMant_lt f c; omega)
  have past : (if f.hasInf then cmpMid f (fun n g => cmpPow n g m e) f.maxCode ≠ .gt else cmpVal f (fun n g => cmpPow n g m e) f.maxCode = .lt) ↔
      overflows f m e (roundCode f m e) = true := by
    rw [overflows_iff hf hm e, cmpMid, cmpVal, ne_eq, cmpPow_gt, cmpPow_lt, Rat.not_lt]
    rfl
  have tiny : cmpPow 1 (1 - (f.bias : Int)) m e = .gt ↔ e + bitLen m ≤ eMin f + f.mant := by
    obtain ⟨b1, b2⟩ := mag_bounds hm e
    rw [cmpPow_gt, mag_one, show eMin f + f.mant = 1 - (f.bias : Int) by unfold eMin; omega]
    refine ⟨fun h => Int.not_lt.mp fun hlt => ?_, fun h => ?_⟩
    · have := twoTo_le_twoTo (show 1 - (f.bias : Int) ≤ e + bitLen m - 1 by omega)
      grind
    · have := twoTo_le_twoTo h
      grind
  rw [roundMag_eq f quant neg hm e, ← Fmt.width_float hf]
  refine roundsTo_of hf (fun h => if_pos (past.mp (by rwa [val, mid] at h))) fun h => ?_
  rw [val, mid] at h
  simp only [val, mid]
  rw [hcmp 1 _ (by have := Nat.two_pow_pos f.mant; omega)]
  rw [if_neg (fun h' => h (past.mpr h'))]
  have hle := roundCode_le_maxCode hf hm (Bool.eq_false_iff.mpr fun h' => h (past.mpr h'))
  refine ⟨_, hle, rfl, ⟨?_, ?_⟩, fun h0 => ⟨?_, ?_⟩, ?_⟩
  · rw [cmpMid, ne_eq, cmpPow_lt, Rat.not_lt]
    exact hup
  · rw [cmpMid, cmpPow_eq_eq]
    exact htie
  · rw [cmpMid, ne_eq, cmpPow_gt, Rat.not_lt]
    exact (hlow h0).1
  · rw [cmpMid, cmpPow_eq_eq]
    exact (hlow h0).2
  · simp only [tiny, cmpVal, cmpPow_eq_eq]
    cases hb : (roundAt m e (ulpExp f m e) false).2 with
    | false =>
      rw [if_pos (show mag _ _ = _ from hix.mp hb)]
      simp
    | true =>
      rw [if_neg (show ¬mag _ _ = _ from fun h => by rw [hix.mpr h] at hb; cases hb)]
      simp
theorem roundsTo_roundMag {f : Fmt} (hf : f.isFloat = true) (quant neg : Bool) {m : Nat} (hm : 0 < m) (e : Int) :
    RoundsTo f quant neg (fun n g => cmpPow n g m e) (roundMag f quant neg m e false) := roundsTo_roundMag_of hf quant neg hm fun _ _ _ => rfl
/-- R85, R88-R90: rounding an exact value. -/
theorem roundedFrom_roundTo {f : Fmt} (hf : f.isFloat = true) (quant : Bool) (x : Num) : RoundedFrom f quant x (roundTo f quant x) := by
  have sign (s : Bool) : (if s then 1 <<< (f.mant + f.expo) else 0) = if s then 2 ^ (f.width - 1) else 0 := by
    rw [Nat.one_shiftLeft, Fmt.width_float hf]
  cases x with
  | nan => rfl
  | inf s =>
    simp only [roundTo, RoundedFrom, sign]
  | fin s m e =>
    cases m with
    | zero => simp only [roundTo, RoundedFrom, sign, if_true]
    | succ m => exact roundsTo_roundMag hf quant s (Nat.succ_pos m) e

/-! Rounding a magnitude of which more digits follow (R88). -/

theorem bitLen_double (m : Nat) (h : 0 < m) : bitLen (2 * m + 1) = bitLen m + 1 := by
  rw [bitLen, bitLen, if_neg (by omega), if_neg (by omega)]
  congr 1
  rw [Nat.log2_def, if_pos (by omega)]
  congr 2
  omega
/-- More digits round as one more half unit does. -/
theorem roundAt_sticky (m : Nat) {e q : Int} (h : e < q) : roundAt m e q true = roundAt (2 * m + 1) (e - 1) q false := by
  obtain ⟨s, hs⟩ : ∃ s, (q - e).toNat = s + 1 := ⟨(q - e).toNat - 1, by omega⟩
  have hs' : (q - (e - 1)).toNat = s + 1 + 1 := by omega
  have hp : 2 ^ (s + 1) = 2 * 2 ^ s := Nat.pow_succ'
  have hd : (2 * m + 1) / 2 ^ (s + 1 + 1) = m / 2 ^ (s + 1) := by
    rw [Nat.pow_succ' (n := s + 1), ← Nat.div_div_eq_div_mul]
    congr 1
    omega
  have hr : (2 * m + 1) % 2 ^ (s + 1 + 1) = 2 * (m % 2 ^ (s + 1)) + 1 := by
    have h1 := Nat.div_add_mod (2 * m + 1) (2 ^ (s + 1 + 1))
    have h2 := Nat.div_add_mod m (2 ^ (s + 1))
    rw [hd, Nat.pow_succ' (n := s + 1), Nat.mul_assoc] at h1
    rw [Nat.pow_succ' (n := s + 1)]
    omega
  simp only [roundAt, if_neg (Int.not_le.mpr h), if_neg (show ¬q ≤ e - 1 by omega), hs, hs', Nat.shiftRight_eq_div_pow, Nat.add_sub_cancel, hd, hr]
  generalize m / 2 ^ (s + 1) = t
  generalize m % 2 ^ (s + 1) = rem
  rw [hp]
  have up : (decide (rem > 2 ^ s) || (decide (rem = 2 ^ s) && (true || decide (t % 2 = 1)))) =
      (decide (2 * rem + 1 > 2 * 2 ^ s) || (decide (2 * rem + 1 = 2 * 2 ^ s) && (false || decide (t % 2 = 1)))) := by
    rw [Bool.eq_iff_iff]
    simp
    omega
  rw [up]
  simp
/-- More digits are seen as half a unit, when there are bits enough. -/
theorem roundMag_sticky {f : Fmt} (hf : f.hasInf = true) (quant neg : Bool) {m : Nat} (hm : 4 * 2 ^ f.mant ≤ m) (e : Int) :
    roundMag f quant neg m e true = roundMag f quant neg (2 * m + 1) (e - 1) false := by
  have h0 : 0 < m := by have := Nat.two_pow_pos f.mant; omega
  have hb : f.mant + 3 ≤ bitLen m := by
    obtain ⟨-, h2, -⟩ := bitLen_bounds h0
    have : 2 ^ (f.mant + 2) < 2 ^ bitLen m := by rw [Nat.pow_add]; omega
    exact (Nat.pow_lt_pow_iff_right (by decide)).mp this
  have he : e - 1 + (bitLen m + 1 : Nat) = e + bitLen m := by omega
  have hq : e < max (e + bitLen m - (f.mant + 1)) (eMin f) := Int.lt_of_lt_of_le (by omega) (Int.le_max_left ..)
  have hr := roundAt_sticky m hq
  unfold eMin at hr
  simp only [roundMag, bitLen_double m h0, he, hr]
  revert hf
  cases f <;> simp [Fmt.hasInf]
/-- Rounding a magnitude that lies between two multiples of a unit, many of them. -/
theorem roundsTo_between {f : Fmt} (hf : f.hasInf = true) (quant neg : Bool) {m : Nat} (hm : 4 * 2 ^ f.mant ≤ m) {e : Int}
    {cmp : Nat → Int → Ordering} (lo : ∀ n g, mag n g ≤ mag m e → cmp n g = .lt) (hi : ∀ n g, mag (m + 1) e ≤ mag n g → cmp n g = .gt) :
    RoundsTo f quant neg cmp (roundMag f quant neg m e true) := by
  have hfl : f.isFloat = true := by revert hf; cases f <;> decide
  have half : mag m e = mag (2 * m) (e - 1) ∧ mag (m + 1) e = mag (2 * m + 2) (e - 1) := by
    rw [mag_of_le (show e - 1 ≤ e by omega) m, mag_of_le (show e - 1 ≤ e by omega) (m + 1), show (e - (e - 1)).toNat = 1 by omega,
      show m * 2 ^ 1 = 2 * m by omega, show (m + 1) * 2 ^ 1 = 2 * m + 2 by omega]
    exact ⟨rfl, rfl⟩
  rw [roundMag_sticky hf quant neg hm e]
  refine roundsTo_roundMag_of hfl quant neg (Nat.succ_pos _) fun n g hn => ?_
  by_cases h : mag n g ≤ mag m e
  · rw [lo n g h, eq_comm, cmpPow_lt]
    rw [half.1] at h
    have := mag_lt_mag (e := e - 1).mpr (Nat.lt_succ_self (2 * m))
    grind
  · have hg : e ≤ g := Int.not_lt.mp fun hg => h ?_
    · have : mag (m + 1) e ≤ mag n g := by
        rw [mag_of_le hg] at h ⊢
        rw [mag_le_mag] at h ⊢
        omega
      rw [hi n g this, eq_comm, cmpPow_gt]
      rw [half.2] at this
      have := mag_lt_mag (e := e - 1).mpr (Nat.lt_succ_self (2 * m + 1))
      grind
    · have h1 : mag n g ≤ mag (4 * 2 ^ f.mant) g := mag_le_mag.mpr (Nat.le_of_lt hn)
      have h2 : mag (4 * 2 ^ f.mant) g ≤ mag (4 * 2 ^ f.mant) e := by
        rw [mag_of_le (Int.le_of_lt hg) (4 * 2 ^ f.mant), mag_le_mag]
        exact Nat.le_mul_of_pos_right _ (Nat.two_pow_pos _)
      exact Rat.le_trans h1 (Rat.le_trans h2 (mag_le_mag.mpr hm))
end Sys2Proof.Machine

namespace Sys2Proof.Machine
open Sys2Proof

/-! Conversion to integers (R88-R90). -/

theorem natAbs_signedNat (s : Bool) (m : Nat) : (signedNat s m).natAbs = m := by cases s <;> simp [signedNat]
theorem signedNat_inj {s : Bool} {m n : Nat} : signedNat s m = signedNat s n ↔ m = n := by
  refine ⟨fun h => ?_, congrArg _⟩
  rw [← natAbs_signedNat s m, h, natAbs_signedNat]
/-- A finite number that is i units of 2^k has the magnitude of i. -/
theorem Num.exists_mag {s : Bool} {m : Nat} {e k i : Int} (h : (Num.fin s m e).units k = some i) :
    ∃ j : Nat, i = signedNat s j ∧ mag m e = mag j k := by
  obtain ⟨-, hr⟩ := Num.units_eq_some.mp h
  have hi : mag m e = ((signedNat s 1 * i : Int) : Rat) * twoTo k := by
    rw [Rat.intCast_mul, Rat.mul_assoc, ← hr, Num.rat, ← Rat.mul_assoc, ← Rat.intCast_mul, signedNat_mul, mag_def]
    simp [signedNat]
  have h0 : ¬signedNat s 1 * i < 0 := fun hn => by
    rw [← intCast_mul_twoTo_neg (e := k), ← hi, mag_def, intCast_mul_twoTo_neg] at hn
    omega
  refine ⟨i.natAbs, ?_, ?_⟩
  · cases s <;> simp only [signedNat, Bool.false_eq_true, if_true, if_false] at h0 ⊢ <;> omega
  · rw [hi, mag_def]
    congr 2
    cases s <;> simp only [signedNat, Bool.false_eq_true, if_true, if_false] at h0 ⊢ <;> omega
/-- A finite number of the magnitude of j is j units, or -j. -/
theorem Num.units_of_mag {m j : Nat} {e k : Int} (s : Bool) (h : mag m e = mag j k) : (Num.fin s m e).units k = some (signedNat s j) := by
  refine Num.units_eq_some.mpr ⟨rfl, ?_⟩
  rw [mag_def, mag_def] at h
  cases s
  · exact h
  · simp only [Num.rat, signedNat, if_true, Rat.intCast_neg, Rat.neg_mul, h]
/-- The integer part of a magnitude. -/
def truncAt (m : Nat) (e : Int) : Nat × Bool :=
  if 0 ≤ e then (m <<< e.toNat, false) else (m >>> (-e).toNat, m % 2 ^ (-e).toNat ≠ 0)
theorem truncAt_spec (m : Nat) (e : Int) :
    mag (truncAt m e).1 0 ≤ mag m e ∧ mag m e < mag ((truncAt m e).1 + 1) 0 ∧ ((truncAt m e).2 = false ↔ mag m e = mag (truncAt m e).1 0) := by
  by_cases h : 0 ≤ e
  · simp only [truncAt, if_pos h, mag_of_le h, Int.sub_zero, Nat.shiftLeft_eq, mag_le_mag, mag_lt_mag]
    simp
  · have hd := Nat.div_add_mod m (2 ^ (-e).toNat)
    have hm := Nat.mod_lt m (Nat.two_pow_pos (-e).toNat)
    have he : e ≤ 0 := by omega
    simp only [truncAt, if_neg h, mag_of_le he, Int.zero_sub, Nat.shiftRight_eq_div_pow, mag_le_mag, mag_lt_mag, mag_inj, Nat.succ_mul,
      decide_eq_false_iff_not, Decidable.not_not, ne_eq]
    rw [Nat.mul_comm] at hd
    generalize m / 2 ^ (-e).toNat * 2 ^ (-e).toNat = a at *
    omega
theorem toInteger_eq (rz s : Bool) (m : Nat) (e : Int) :
    toInteger rz s m e = (signedNat s (if rz then truncAt m e else roundAt m e 0 false).1, (if rz then truncAt m e else roundAt m e 0 false).2) := rfl
/-- Distances of signed integers of one sign. -/
theorem nearestInt_signedNat {s : Bool} {k j r : Nat} (h1 : 2 * j ≤ 2 * (r * 2 ^ k) + 2 ^ k) (h2 : 2 * (r * 2 ^ k) ≤ 2 * j + 2 ^ k)
    (h3 : 2 * j = 2 * (r * 2 ^ k) + 2 ^ k ∨ 2 * (r * 2 ^ k) = 2 * j + 2 ^ k → r % 2 = 0) : NearestInt (2 ^ k) (signedNat s j) (signedNat s r) := by
  have hd : (signedNat s r * (2 ^ k : Nat) - signedNat s j).natAbs = ((r * 2 ^ k : Nat) - (j : Int)).natAbs := by
    rw [← signedNat_mul_nat]
    cases s <;> grind [signedNat]
  have hp : signedNat s r % 2 = 0 ↔ r % 2 = 0 := by cases s <;> simp [signedNat] <;> omega
  rw [NearestInt, hd, hp]
  generalize r * 2 ^ k = a at *
  omega
/-- R88: what `toInteger` gives of a value of i units of 2^-k. -/
theorem toInteger_spec {s : Bool} {m : Nat} {e : Int} {k : Nat} {i : Int} (h : (Num.fin s m e).units (-k) = some i) (rz : Bool) :
    let r := (toInteger rz s m e).1
    (rz = false → NearestInt (2 ^ k) i r) ∧ (rz = true → r.natAbs * 2 ^ k ≤ i.natAbs ∧ i.natAbs < (r.natAbs + 1) * 2 ^ k ∧ 0 ≤ r * i) ∧
      ((toInteger rz s m e).2 = false ↔ r * 2 ^ k = i) := by
  obtain ⟨j, rfl, hj⟩ := Num.exists_mag h
  have up (n : Nat) : mag n 0 = mag (n * 2 ^ k) (-k) := by
    rw [mag_of_le (show -(k : Int) ≤ 0 by omega)]
    congr 3
    omega
  have eq_iff (r : Nat) : signedNat s r * 2 ^ k = signedNat s j ↔ j = r * 2 ^ k := by
    have : signedNat s r * 2 ^ k = signedNat s (r * 2 ^ k) := by rw [signedNat_mul_nat, Int.natCast_pow]; rfl
    rw [this, signedNat_inj, eq_comm]
  rw [toInteger_eq]
  dsimp only
  rw [eq_iff, natAbs_signedNat, natAbs_signedNat]
  cases rz with
  | true =>
    obtain ⟨h1, h2, h3⟩ := truncAt_spec m e
    rw [hj, up, mag_le_mag] at h1
    rw [hj, up, mag_lt_mag] at h2
    rw [hj, up, mag_inj] at h3
    refine ⟨nofun, fun _ => ⟨h1, h2, ?_⟩, h3⟩
    rw [signedNat_mul, bne_self_eq_false]
    exact Int.natCast_nonneg _
  | false =>
    obtain ⟨h1, h2, h3, h4⟩ := roundAt_spec m e 0
    have two (n : Nat) : 2 * mag n (-k) = mag (2 * n) (-k) := by rw [Nat.two_mul, ← mag_add]; grind
    rw [← mag_one, hj, up, up 1, Nat.one_mul, two, two, mag_add, mag_add] at *
    rw [mag_le_mag] at h1 h2
    rw [mag_inj, mag_inj] at h3
    rw [mag_inj] at h4
    exact ⟨fun _ => nearestInt_signedNat h1 h2 h3, nofun, h4⟩

/-- R89: the part of O17 on conversion to an integer format. -/
theorem convert_integer {f : Fmt} (quant rz : Bool) (hf : f.isFloat = false) :
    let hi : Int := if f.isSigned then 2 ^ (f.width - 1) - 1 else 2 ^ f.width - 1
    let lo : Int := if f.isSigned then (if quant then -hi else -hi - 1) else 0
    let code (r : Int) : Nat := (r % 2 ^ f.width).toNat
    convert f quant rz .nan = (0, flIv) ∧ convert f quant rz (.inf true) = (code lo, flSat) ∧ convert f quant rz (.inf false) = (code hi, flSat) ∧
    ∀ (x : Num) (k : Nat) (i : Int), x.units (-k) = some i → ∃ r : Int,
      (rz = false → NearestInt (2 ^ k) i r) ∧ (rz = true → r.natAbs * 2 ^ k ≤ i.natAbs ∧ i.natAbs < (r.natAbs + 1) * 2 ^ k ∧ 0 ≤ r * i) ∧
      convert f quant rz x = if r < lo then (code lo, flSat) else if hi < r then (code hi, flSat) else (code r, if r * 2 ^ k = i then 0 else flIx) := by
  intro hi lo code
  have hhi : intHi f = hi := by simp [intHi, hi]
  have hlo : intLo f quant = lo := by
    simp only [intLo, lo, hi]
    cases f.isSigned <;> cases quant <;> grind
  have hcode (r : Int) : wrap f.width r = code r := by simp [wrap, code]
  simp only [convert, hf, Bool.false_eq_true, if_false, hcode, hhi, hlo, if_true, true_and]
  intro x k i h
  obtain ⟨s, m, e, rfl⟩ := Num.exists_fin (Num.units_eq_some.mp h).1
  obtain ⟨h1, h2, h3⟩ := toInteger_spec h rz
  refine ⟨_, h1, h2, ?_⟩
  simp only [← h3, clampInt, hlo, hhi]
  split
  · rfl
  · split
    · rfl
    · cases (toInteger rz s m e).2 <;> rfl
end Sys2Proof.Machine

namespace Sys2Proof.Machine
open Sys2Proof

/-! Values that a format has (R84, R88). -/

theorem Fmt.hasInf_of_clsF {f : Fmt} (h : f.clsF = true) : f.hasInf = true := by
  rcases Fmt.eq_of_clsF h with rfl | rfl | rfl <;> rfl
/-- The greatest magnitude of a format with infinities. -/
theorem maxCode_fields {f : Fmt} (h : f.hasInf = true) :
    codeMant f f.maxCode = 2 * 2 ^ f.mant - 1 ∧ codeExp f f.maxCode = 2 ^ f.expo - 2 - f.bias - f.mant ∧ 0 ≤ codeExp f f.maxCode ∧ eMin f ≤ 0 ∧
      3 ≤ 2 ^ f.expo := by
  revert h
  cases f <;> decide
/-- A finite value's integer and exponent are in range. -/
theorem decodeNum_range {f : Fmt} (h : f.hasInf = true) (hf : f.isFloat = true) {x : Nat} {s : Bool} {m : Nat} {e : Int}
    (hx : decodeNum f x = .fin s m e) : m < 2 * 2 ^ f.mant ∧ eMin f ≤ e ∧ e ≤ codeExp f f.maxCode := by
  obtain ⟨-, htop, -, -, h2⟩ := maxCode_fields h
  have hm := Nat.mod_lt x (Nat.two_pow_pos f.mant)
  have he := Nat.mod_lt (x >>> f.mant) (Nat.two_pow_pos f.expo)
  simp only [decodeNum, hf, if_true, h, Bool.true_and, decide_eq_true_eq] at hx
  generalize x >>> f.mant % 2 ^ f.expo = a at *
  generalize x % 2 ^ f.mant = b at *
  have hE : ((2 ^ f.expo : Nat) : Int) = 2 ^ f.expo := Int.natCast_pow ..
  rw [htop, ← hE, eMin]
  split at hx
  · split at hx <;> cases hx
  · split at hx
    · cases hx
    · split at hx <;> obtain ⟨-, rfl, rfl⟩ := Num.fin.inj hx <;> omega
/-- An integer of at most M + 1 bits at an exponent from the least is some code's value. -/
theorem exists_codeVal (f : Fmt) (k : Nat) {r : Nat} (hr : r ≤ 2 * 2 ^ f.mant) : ∃ c, codeVal f c = mag r (eMin f + k) := by
  induction k generalizing r with
  | zero => exact ⟨_, codeVal_of hr (.inl rfl)⟩
  | succ k ih =>
    by_cases hk : 2 ^ f.mant ≤ r
    · exact ⟨_, codeVal_of hr (.inr hk)⟩
    · obtain ⟨c, hc⟩ := ih (r := r * 2) (by omega)
      refine ⟨c, hc.trans ?_⟩
      rw [mag_of_le (show eMin f + k ≤ eMin f + (k + 1 : Nat) by omega), show (eMin f + (k + 1 : Nat) - (eMin f + k)).toNat = 1 by omega, Nat.pow_one]
/-- The values that a format with infinities has. -/
theorem exists_code_le_maxCode {f : Fmt} (h : f.hasInf = true) {r : Nat} {q : Int} (hr : r < 2 * 2 ^ f.mant) (h1 : eMin f ≤ q)
    (h2 : q ≤ codeExp f f.maxCode) : ∃ c, c ≤ f.maxCode ∧ codeVal f c = mag r q := by
  obtain ⟨c, hc⟩ := exists_codeVal f (q - eMin f).toNat (Nat.le_of_lt hr)
  rw [show eMin f + ((q - eMin f).toNat : Nat) = q by omega] at hc
  refine ⟨c, Nat.not_lt.mp fun hlt => ?_, hc⟩
  have h3 := codeVal_lt (f := f) hlt
  rw [hc, codeVal, (maxCode_fields h).1] at h3
  have h4 : mag r q ≤ mag (2 * 2 ^ f.mant - 1) q := mag_le_mag.mpr (by omega)
  have h5 : mag (2 * 2 ^ f.mant - 1) q ≤ mag (2 * 2 ^ f.mant - 1) (codeExp f f.maxCode) := by
    rw [mag_of_le h2, mag_le_mag]
    exact Nat.le_mul_of_pos_right _ (Nat.two_pow_pos _)
  grind
/-- Rounding changes no value that the format has. -/
theorem roundMag_of_codeVal {f : Fmt} (h : f.hasInf = true) (hf : f.isFloat = true) (neg : Bool) {m : Nat} (hm : 0 < m) {e : Int} {c : Nat}
    (hc : c ≤ f.maxCode) (hv : codeVal f c = mag m e) : (roundMag f false neg m e false).1 = (if neg then 2 ^ (f.mant + f.expo) else 0) + c := by
  obtain ⟨⟨⟨hup, -⟩, hlow⟩, -⟩ := nearest_roundCode hf hm e
  have code : roundCode f m e = c := by
    rcases Nat.lt_trichotomy (roundCode f m e) c with hlt | heq | hgt
    · have := codeMid_lt_codeVal (f := f) hlt
      grind
    · exact heq
    · have h1 := (hlow (by omega)).1
      have h2 := codeVal_lt_codeMid f c
      have h3 := codeMid_le (f := f) (show c ≤ roundCode f m e - 1 by omega)
      grind
  have past : ¬overflows f m e (roundCode f m e) = true := by
    rw [overflows_iff hf hm e, if_pos h, Rat.not_le, ← hv]
    have h1 := codeVal_le (f := f) hc
    have h2 := codeVal_lt_codeMid f f.maxCode
    grind
  rw [roundMag_eq f false neg hm e, if_neg past, code]

/-! The nearest integral value (R149). -/

/-- The integer nearest to a value is a value of the format. -/
theorem exists_code_roundAt {f : Fmt} (h : f.hasInf = true) {m : Nat} {e : Int} (hm : m < 2 * 2 ^ f.mant) (h1 : eMin f ≤ e)
    (h2 : e ≤ codeExp f f.maxCode) : ∃ c, c ≤ f.maxCode ∧ codeVal f c = mag (roundAt m e 0 false).1 0 := by
  obtain ⟨-, -, h3, h4, -⟩ := maxCode_fields h
  by_cases he : 0 ≤ e
  · have : mag (roundAt m e 0 false).1 0 = mag m e := by
      rw [mag_of_le he m]
      simp only [roundAt, if_pos he, Nat.shiftLeft_eq]
    rw [this]
    exact exists_code_le_maxCode h hm h1 h2
  · obtain ⟨-, hr, -, -⟩ := roundAt_nat m (show e < 0 by omega)
    have hp : 2 ≤ 2 ^ (0 - e).toNat := Nat.le_pow (by omega)
    refine exists_code_le_maxCode h (Nat.not_le.mp fun hge => ?_) h4 h3
    have a1 := Nat.mul_le_mul_right (2 ^ (0 - e).toNat) hge
    have a2 := Nat.mul_le_mul_left (2 ^ f.mant) hp
    have a3 := Nat.mul_le_mul_right (2 ^ (0 - e).toNat) (Nat.two_pow_pos f.mant)
    rw [Nat.mul_assoc] at a1
    omega
/-- R149: the part of O17 on `vrnd`. -/
theorem fRnd_spec {f : Fmt} (h : f.clsF = true) {x : Nat} {s : Bool} {m : Nat} {e : Int} (hx : decodeNum f x = .fin s m e) (k : Nat) (i : Int)
    (hi : (decodeNum f x).units (-k) = some i) : ∃ r : Int, NearestInt (2 ^ k) i r ∧ (decodeNum f (fRnd f x).1).units 0 = some r ∧
      (decodeNum f (fRnd f x).1).isNeg = s ∧ (fRnd f x).2 = if r * 2 ^ k = i then 0 else flIx := by
  have hinf := Fmt.hasInf_of_clsF h
  have hf := Fmt.isFloat_of_clsF h
  rw [hx] at hi
  obtain ⟨h1, -, h3⟩ := toInteger_spec hi false
  obtain ⟨hm, he1, he2⟩ := decodeNum_range hinf hf hx
  obtain ⟨c, hc, hv⟩ := exists_code_roundAt hinf hm he1 he2
  have code : (fRnd f x).1 = (if s then 2 ^ (f.mant + f.expo) else 0) + c := by
    simp only [fRnd, hx, toInteger_eq, natAbs_signedNat, Bool.false_eq_true, if_false, roundTo]
    split
    · next h0 =>
      have : ¬0 < c := fun hpos => by
        have := codeVal_lt (f := f) hpos
        have h00 : codeVal f 0 = mag 0 (eMin f) := by simpa using codeVal_of (f := f) (k := 0) (r := 0) (by omega) (.inl rfl)
        rw [hv, h0, h00, mag, mag] at this
        grind
      rw [show c = 0 by omega, Nat.one_shiftLeft]
      rfl
    · next h0 => exact roundMag_of_codeVal hinf hf s (Nat.pos_of_ne_zero h0) hc hv
  have flags : (fRnd f x).2 = if (toInteger false s m e).2 then flIx else 0 := by simp only [fRnd, hx]
  refine ⟨_, h1 rfl, ?_, ?_, ?_⟩
  · rw [code, decodeNum_sign_code hf s hc, toInteger_eq]
    exact Num.units_of_mag s hv
  · rw [code, decodeNum_sign_code hf s hc]
    rfl
  · rw [flags]
    simp only [← h3]
    cases (toInteger false s m e).2 <;> rfl
end Sys2Proof.Machine

namespace Sys2Proof.Machine
open Sys2Proof

/-! Reciprocals (R150). -/

theorem mag_mul (a b : Nat) (e g : Int) : mag (a * b) (e + g) = mag a e * mag b g := by
  rw [mag_def, mag_def, mag_def, Int.natCast_mul, intCast_mul_twoTo_mul]
theorem mag_nonneg (m : Nat) (e : Int) : 0 ≤ mag m e := Rat.not_lt.mp fun h => by
  rw [mag_def, intCast_mul_twoTo_neg] at h
  omega
theorem mag_one_eq (k : Nat) : mag 1 0 = mag (2 ^ k) (-k) := by
  rw [mag_of_le (show -(k : Int) ≤ 0 by omega), Nat.one_mul]
  congr 2
  omega
/-- A significand of a format with infinities has few bits beside 2^40. -/
theorem mant_small {f : Fmt} (h : f.hasInf = true) : 4 * 2 ^ f.mant ≤ 2 ^ 26 := by
  revert h
  cases f <;> decide
/-- Rounding, from its integer part of many bits, the value at which an increasing function is 1. -/
theorem roundsTo_floor {f : Fmt} (hinf : f.hasInf = true) (hf : f.isFloat = true) (neg : Bool) {F : Rat → Rat}
    (mono : ∀ a b, 0 ≤ a → a < b → F a < F b) {cmp : Nat → Int → Ordering}
    (hcmp : ∀ n g, cmp n g = if F (mag n g) < mag 1 0 then .lt else if F (mag n g) = mag 1 0 then .eq else .gt)
    {q : Nat} {e : Int} (large : 4 * 2 ^ f.mant ≤ q) (lo : F (mag q e) ≤ mag 1 0) (hi : mag 1 0 < F (mag (q + 1) e)) {sticky : Bool}
    (hs : sticky = false ↔ F (mag q e) = mag 1 0) : RoundsTo f false neg cmp (roundMag f false neg q e sticky) := by
  have le {a b : Rat} (ha : 0 ≤ a) (h : a ≤ b) : F a ≤ F b := by
    by_cases hab : a = b
    · exact hab ▸ Rat.le_refl
    · exact Rat.le_of_lt (mono a b ha (by grind))
  have hq : 0 < q := by have := Nat.two_pow_pos f.mant; omega
  cases sticky with
  | false =>
    have heq := hs.mp rfl
    refine roundsTo_roundMag_of hf false neg hq fun n g _ => ?_
    have h1 := mono (mag n g) (mag q e) (mag_nonneg n g)
    have h2 := mono (mag q e) (mag n g) (mag_nonneg q e)
    rw [hcmp, cmpPow_eq]
    grind
  | true =>
    have hne : F (mag q e) ≠ mag 1 0 := fun h => Bool.noConfusion (hs.mpr h)
    refine roundsTo_between hinf false neg large (fun n g h => ?_) fun n g h => ?_
    · have := le (mag_nonneg n g) h
      rw [hcmp]
      grind
    · have := le (mag_nonneg (q + 1) e) h
      rw [hcmp]
      grind
/-- R150: `vrcp` of a finite operand that is not 0. -/
theorem fRcp_spec {f : Fmt} (h : f.clsF = true) {x : Nat} {s : Bool} {m : Nat} {e : Int} (hx : decodeNum f x = .fin s (m + 1) e) :
    RoundsTo f false s (fun n g => cmpPow (n * (m + 1)) (g + e) 1 0) (fRcp f x) := by
  have hinf := Fmt.hasInf_of_clsF h
  obtain ⟨-, b2, -⟩ := bitLen_bounds (Nat.succ_pos m)
  have hr : fRcp f x = roundMag f false s (2 ^ (bitLen (m + 1) + 40) / (m + 1)) (-e - (bitLen (m + 1) + 40 : Nat))
      (decide (2 ^ (bitLen (m + 1) + 40) % (m + 1) ≠ 0)) := by
    simp only [fRcp, hx, if_neg (Nat.succ_ne_zero m), quotBits, Nat.one_shiftLeft]
  generalize hk : bitLen (m + 1) + 40 = k at hr
  have large : 4 * 2 ^ f.mant ≤ 2 ^ k / (m + 1) := by
    refine Nat.le_trans (mant_small hinf) ((Nat.le_div_iff_mul_le (Nat.succ_pos m)).mpr ?_)
    rw [← hk, Nat.pow_add, Nat.mul_comm]
    exact Nat.mul_le_mul (Nat.le_of_lt b2) (by decide)
  have prod (n : Nat) : mag n (-e - k) * mag (m + 1) e = mag (n * (m + 1)) (-k) := by
    rw [← mag_mul]
    congr 1
    omega
  have hd := Nat.div_add_mod' (2 ^ k) (m + 1)
  have hmod : 2 ^ k % (m + 1) < m + 1 := Nat.mod_lt _ (Nat.succ_pos m)
  rw [hr]
  refine roundsTo_floor hinf (Fmt.isFloat_of_clsF h) s (F := fun v => v * mag (m + 1) e)
    (fun a b _ hab => (Rat.mul_lt_mul_right (mag_pos.mpr (Nat.succ_pos m))).mpr hab) (fun n g => ?_) large ?_ ?_ ?_
  · rw [cmpPow_eq, mag_mul]
  · rw [prod, mag_one_eq k, mag_le_mag]
    omega
  · rw [prod, mag_one_eq k, mag_lt_mag, Nat.succ_mul]
    omega
  · rw [prod, mag_one_eq k, mag_inj, decide_eq_false_iff_not, ne_eq, Decidable.not_not]
    omega

/-! Square roots. -/

/-- The square root by bits keeps the root between its value and the value plus the bits to come. -/
theorem isqrtAux_spec (x n r : Nat) (h1 : r * r ≤ x) (h2 : x < (r + 2 ^ n) * (r + 2 ^ n)) :
    isqrtAux x n r * isqrtAux x n r ≤ x ∧ x < (isqrtAux x n r + 1) * (isqrtAux x n r + 1) := by
  induction n generalizing r with
  | zero => exact ⟨h1, h2⟩
  | succ n ih =>
    rw [isqrtAux]
    by_cases h : (r + 2 ^ n) * (r + 2 ^ n) ≤ x
    · rw [if_pos h]
      refine ih _ h ?_
      rwa [Nat.add_assoc, ← Nat.two_mul, ← Nat.pow_succ']
    · rw [if_neg h]
      exact ih _ h1 (Nat.not_le.mp h)
theorem isqrt_spec (x : Nat) : isqrt x * isqrt x ≤ x ∧ x < (isqrt x + 1) * (isqrt x + 1) := by
  refine isqrtAux_spec x _ 0 (Nat.zero_le x) ?_
  rw [Nat.zero_add, ← Nat.pow_add]
  rcases Nat.eq_zero_or_pos x with rfl | hx
  · exact Nat.two_pow_pos _
  · exact Nat.lt_of_lt_of_le (bitLen_bounds hx).2.1 (Nat.pow_le_pow_right (by decide) (by omega))
/-- The root of an integer part is the integer part of the root. -/
theorem isqrt_div_spec (n : Nat) {m : Nat} (hm : 0 < m) :
    isqrt (n / m) * isqrt (n / m) * m ≤ n ∧ n < (isqrt (n / m) + 1) * (isqrt (n / m) + 1) * m := by
  obtain ⟨h1, h2⟩ := isqrt_spec (n / m)
  exact ⟨(Nat.le_div_iff_mul_le hm).mp h1, (Nat.div_lt_iff_lt_mul hm).mp h2⟩
theorem le_isqrt {x y : Nat} (h : x * x ≤ y) : x ≤ isqrt y := by
  obtain ⟨-, h2⟩ := isqrt_spec y
  refine Nat.not_lt.mp fun hlt => ?_
  exact absurd (Nat.lt_of_lt_of_le h2 (Nat.mul_le_mul hlt hlt)) (Nat.not_lt.mpr h)
/-- R150: `vrsqrt` of a finite operand above 0. -/
theorem fRsqrt_spec {f : Fmt} (h : f.clsF = true) {x m : Nat} {e : Int} (hx : decodeNum f x = .fin false (m + 1) e) :
    RoundsTo f false false (fun n g => cmpPow (n * n * (m + 1)) (2 * g + e) 1 0) (fRsqrt f x) := by
  have hinf := Fmt.hasInf_of_clsF h
  -- the operand is p x 2^(2 c)
  obtain ⟨p, c, hp, hpc, hr⟩ : ∃ (p : Nat) (c : Int), 0 < p ∧ mag p (2 * c) = mag (m + 1) e ∧ fRsqrt f x =
      roundMag f false false (isqrt (2 ^ (2 * (bitLen p + 40)) / p)) (-(bitLen p + 40 : Nat) - c)
        (!decide (isqrt (2 ^ (2 * (bitLen p + 40)) / p) * isqrt (2 ^ (2 * (bitLen p + 40)) / p) * p = 2 ^ (2 * (bitLen p + 40)))) := by
    simp only [fRsqrt, hx, if_neg (Nat.succ_ne_zero m), Bool.false_eq_true, if_false]
    by_cases he : e % 2 = 0
    · refine ⟨m + 1, e / 2, Nat.succ_pos m, by congr 1; omega, ?_⟩
      simp only [if_pos he]
    · refine ⟨2 * (m + 1), (e - 1) / 2, by omega, ?_, ?_⟩
      · rw [show 2 * ((e - 1) / 2) = e - 1 by omega, mag_of_le (show e - 1 ≤ e by omega), show (e - (e - 1)).toNat = 1 by omega, Nat.pow_one, Nat.mul_comm]
      · simp only [if_neg he]
  obtain ⟨-, b2, -⟩ := bitLen_bounds hp
  generalize hk : bitLen p + 40 = k at hr
  obtain ⟨q1, q2⟩ := isqrt_div_spec (2 ^ (2 * k)) hp
  have large : 4 * 2 ^ f.mant ≤ isqrt (2 ^ (2 * k) / p) := by
    refine Nat.le_trans (mant_small hinf) (le_isqrt ((Nat.le_div_iff_mul_le hp).mpr ?_))
    rw [← hk, show 2 * (bitLen p + 40) = 80 + bitLen p + bitLen p by omega, Nat.pow_add, Nat.pow_add]
    exact Nat.le_trans (Nat.mul_le_mul (by decide) (Nat.le_of_lt b2)) (Nat.le_mul_of_pos_right _ (Nat.two_pow_pos _))
  have prod (n : Nat) : mag n (-k - c) * mag n (-k - c) * mag (m + 1) e = mag (n * n * p) (-(2 * k : Nat)) := by
    rw [← hpc, ← mag_mul, ← mag_mul]
    congr 1
    omega
  rw [hr]
  refine roundsTo_floor hinf (Fmt.isFloat_of_clsF h) false (F := fun v => v * v * mag (m + 1) e) (fun a b ha hab => ?_) (fun n g => ?_) large ?_ ?_ ?_
  · refine (Rat.mul_lt_mul_right (mag_pos.mpr (Nat.succ_pos m))).mpr ?_
    have h1 : a * a ≤ a * b := Rat.mul_le_mul_of_nonneg_left (Rat.le_of_lt hab) ha
    have h2 : a * b < b * b := Rat.mul_lt_mul_of_pos_right hab (by grind)
    grind
  · rw [cmpPow_eq, mag_mul, show 2 * g = g + g by omega, mag_mul]
  · rw [prod, mag_one_eq (2 * k), mag_le_mag]
    exact q1
  · rw [prod, mag_one_eq (2 * k), mag_lt_mag]
    exact q2
  · rw [prod, mag_one_eq (2 * k), mag_inj]
    simp
end Sys2Proof.Machine

namespace Sys2Proof.Machine
open Sys2Proof

/-! Powers and logarithms (R150). -/

/-- Each of the three answers of an inexact rounding has the flag (R90). -/
theorem inexact_flag (past inf tiny : Bool) (a b c : Nat) :
    (if past then (if inf then (a, flOf ||| flIx) else (b, flSat ||| flIx)) else (c, flIx ||| if tiny then flUf else 0)).2.getLsbD 4 = true := by
  cases past
  · cases tiny <;> simp [flIx, flUf]
  · cases inf <;> simp [flOf, flIx, flSat]
/-- A value of which more digits follow is inexact (R90). -/
theorem roundMag_sticky_inexact (f : Fmt) (quant neg : Bool) (m : Nat) (e : Int) : (roundMag f quant neg m e true).2.getLsbD 4 = true := by
  have ix (q : Int) : (roundAt m e q true).2 = true := by
    unfold roundAt
    split <;> simp
  simp only [roundMag, ix, if_true, Bool.true_and]
  exact inexact_flag ..
/-- The least and the greatest values of the formats with infinities. -/
theorem eMin_bounds {f : Fmt} (h : f.hasInf = true) : -2047 < eMin f ∧ codeExp f f.maxCode + f.mant + 1 ≤ 2048 := by
  revert h
  cases f <;> decide
/-- R89: a power of two far above every value of the format. -/
theorem roundMag_above {f : Fmt} (h : f.hasInf = true) (hf : f.isFloat = true) {n : Int} (hn : 2048 ≤ n) :
    roundMag f false false 1 n false = (f.infCode, flOf ||| flIx) := by
  have past : overflows f 1 n (roundCode f 1 n) = true := by
    rw [overflows_iff hf Nat.one_pos n, if_pos h, codeMid, (maxCode_fields h).1, mag_one]
    have hp := Nat.two_pow_pos f.mant
    have h1 : mag (2 * (2 * 2 ^ f.mant - 1) + 1) (codeExp f f.maxCode - 1) ≤ mag (2 ^ (f.mant + 2)) (codeExp f f.maxCode - 1) := by
      rw [mag_le_mag, Nat.pow_add]
      omega
    rw [mag_two_pow] at h1
    have h2 := (eMin_bounds h).2
    exact Rat.le_trans h1 (twoTo_le_twoTo (by omega))
  rw [roundMag_eq f false false Nat.one_pos n, if_pos past, h]
  simp
/-- R88: a power of two far below every value of the format. -/
theorem roundMag_below {f : Fmt} (h : f.hasInf = true) (hf : f.isFloat = true) {n : Int} (hn : n ≤ -2048) :
    roundMag f false false 1 n false = (0, flIx ||| flUf) := by
  obtain ⟨⟨-, hlow⟩, hix⟩ := nearest_roundCode hf Nat.one_pos n
  have h0 := (eMin_bounds h).1
  have hp := Nat.two_pow_pos f.mant
  have val0 : codeMant f 0 = 0 ∧ codeExp f 0 = eMin f := by simpa using code_of (f := f) (k := 0) (r := 0) (by omega) (.inl rfl)
  have mid : mag 1 n < codeMid f 0 := by
    rw [codeMid, val0.1, val0.2, mag_one, mag_one]
    exact twoTo_lt_twoTo (by omega)
  have code : roundCode f 1 n = 0 := Nat.eq_zero_of_not_pos fun hpos => by
    have h1 := (hlow hpos).1
    have h2 := codeMid_le (f := f) (Nat.zero_le (roundCode f 1 n - 1))
    grind
  have past : ¬overflows f 1 n (roundCode f 1 n) = true := by
    rw [overflows_iff hf Nat.one_pos n, if_pos h, Rat.not_le]
    have := codeMid_le (f := f) (Nat.zero_le f.maxCode)
    grind
  have inexact : (roundAt 1 n (ulpExp f 1 n) false).2 = true := eq_true_of_ne_false fun hx => by
    have h1 := hix.mp hx
    have h2 := mag_pos (e := n).mpr Nat.one_pos
    rw [code, codeVal, val0.1, mag] at h1
    grind
  have tiny : n + bitLen 1 ≤ eMin f + f.mant := by
    have : bitLen 1 = 1 := by decide
    omega
  rw [roundMag_eq f false false Nat.one_pos n, if_neg past, code, inexact, decide_eq_true tiny]
  rfl

/-- A finite operand as an integer, and one that is none. -/
theorem Num.units_zero_eq_none {s : Bool} {m : Nat} {e : Int} (h : (Num.fin s m e).units 0 = none) :
    e < 0 ∧ ¬((2 ^ (-e).toNat : Nat) : Int) ∣ signedNat s m := by
  have he : ¬0 ≤ e := fun he => nomatch h.symm.trans (Num.units_of_mag s (mag_of_le he m))
  refine ⟨Int.not_le.mp he, fun ⟨c, hc⟩ => nomatch h.symm.trans (Num.units_eq_some (i := c).mpr ⟨rfl, ?_⟩)⟩
  rw [Num.rat, hc, twoTo_of_le (show e ≤ 0 by omega), Int.zero_sub, ← Rat.mul_assoc, ← Rat.intCast_mul, Int.mul_comm]
theorem Num.units_zero_eq_some {s : Bool} {m : Nat} {e n : Int} (h : (Num.fin s m e).units 0 = some n) :
    (0 ≤ e → n = signedNat s (m <<< e.toNat)) ∧ (e < 0 → signedNat s m = n * (2 ^ (-e).toNat : Nat)) := by
  obtain ⟨j, rfl, hj⟩ := Num.exists_mag h
  refine ⟨fun he => ?_, fun he => ?_⟩
  · rw [mag_of_le he, mag_inj, Int.sub_zero] at hj
    rw [← hj, Nat.shiftLeft_eq]
  · rw [mag_of_le (Int.le_of_lt he) j, mag_inj, Int.zero_sub] at hj
    rw [hj, signedNat_mul_nat]
/-- What `vexp2` computes of a finite operand that is not 0. -/
theorem fExp2_fin {f : Fmt} {x : Nat} {s : Bool} {m : Nat} {e : Int} (hx : decodeNum f x = .fin s (m + 1) e) :
    let v := signedNat s (m + 1)
    let u : Int := (2 ^ (-e).toNat : Nat)
    (12 ≤ e + bitLen (m + 1) → fExp2 f x = if s then roundMag f false false 1 (-100000) false else roundMag f false false 1 100000 false) ∧
    (¬12 ≤ e + bitLen (m + 1) → 0 ≤ e → fExp2 f x = roundMag f false false 1 (signedNat s ((m + 1) <<< e.toNat)) false) ∧
    (¬12 ≤ e + bitLen (m + 1) → e < 0 → (v % u).toNat = 0 → fExp2 f x = roundMag f false false 1 (v / u) false) ∧
    (¬12 ≤ e + bitLen (m + 1) → e < 0 → (v % u).toNat ≠ 0 → ∃ r, fExp2 f x = roundMag f false false r (v / u - 256) true) := by
  intro v u
  have hv : (if s = true then -((m + 1 : Nat) : Int) else ((m + 1 : Nat) : Int)) = v := rfl
  simp only [fExp2, hx, if_neg (Nat.succ_ne_zero m), hv]
  refine ⟨fun h => if_pos h, fun h he => ?_, fun h he h0 => ?_, fun h he h0 => ?_⟩
  · rw [if_neg h, if_pos he]
    rfl
  · rw [if_neg h, if_neg (Int.not_le.mpr he), if_pos h0]
  · rw [if_neg h, if_neg (Int.not_le.mpr he), if_neg h0]
    exact ⟨_, rfl⟩
/-- R150: `vexp2` of an integer is a power of two, rounded once. -/
theorem fExp2_integer {f : Fmt} (h : f.clsF = true) {x : Nat} {s : Bool} {m : Nat} {e n : Int} (hx : decodeNum f x = .fin s (m + 1) e)
    (hn : (Num.fin s (m + 1) e).units 0 = some n) : fExp2 f x = roundTo f false (.fin false 1 n) := by
  have hinf := Fmt.hasInf_of_clsF h
  have hf := Fmt.isFloat_of_clsF h
  obtain ⟨far, whole, part, -⟩ := fExp2_fin hx
  obtain ⟨hpos, hneg⟩ := Num.units_zero_eq_some hn
  change _ = roundMag f false false 1 n false
  by_cases h12 : 12 ≤ e + bitLen (m + 1)
  · obtain ⟨j, rfl, hj⟩ := Num.exists_mag hn
    have large : 2048 ≤ j := by
      have h1 := (mag_bounds (Nat.succ_pos m) e).1
      have h2 := twoTo_le_twoTo (show (0 : Int) + (11 : Nat) ≤ e + bitLen (m + 1) - 1 by omega)
      rw [← mag_two_pow] at h2
      exact mag_le_mag.mp (hj ▸ Rat.le_trans h2 h1)
    rw [far h12]
    cases s
    · exact (roundMag_above hinf hf (by decide)).trans (roundMag_above hinf hf (by simp [signedNat]; omega)).symm
    · exact (roundMag_below hinf hf (by decide)).trans (roundMag_below hinf hf (by simp [signedNat]; omega)).symm
  · by_cases he : 0 ≤ e
    · rw [whole h12 he, hpos he]
    · have hu : ((2 ^ (-e).toNat : Nat) : Int) ≠ 0 := by have := Nat.two_pow_pos (-e).toNat; omega
      have hv := hneg (Int.not_le.mp he)
      rw [part h12 (Int.not_le.mp he) (by rw [hv, Int.mul_emod_left]; rfl), hv, Int.mul_ediv_cancel n hu]
/-- `vexp2` of a value that is no integer is inexact. -/
theorem fExp2_inexact {f : Fmt} (h : f.clsF = true) {x : Nat} {s : Bool} {m : Nat} {e : Int} (hx : decodeNum f x = .fin s (m + 1) e)
    (hn : (Num.fin s (m + 1) e).units 0 = none) : (fExp2 f x).2.getLsbD 4 = true := by
  have hinf := Fmt.hasInf_of_clsF h
  have hf := Fmt.isFloat_of_clsF h
  obtain ⟨far, -, -, part⟩ := fExp2_fin hx
  obtain ⟨he, hdvd⟩ := Num.units_zero_eq_none hn
  by_cases h12 : 12 ≤ e + bitLen (m + 1)
  · rw [far h12, roundMag_above (n := 100000) hinf hf (by decide), roundMag_below (n := -100000) hinf hf (by decide)]
    cases s <;> simp [flOf, flIx, flUf]
  · have hu : ((2 ^ (-e).toNat : Nat) : Int) ≠ 0 := by have := Nat.two_pow_pos (-e).toNat; omega
    have := Int.emod_nonneg (signedNat s (m + 1)) hu
    obtain ⟨r, hr⟩ := part h12 he fun h0 => hdvd (Int.dvd_of_emod_eq_zero (by omega))
    rw [hr]
    exact roundMag_sticky_inexact ..
/-- R150: `vlog2` of a power of two is its exponent, rounded once. -/
theorem fLog2_power {f : Fmt} {x m k : Nat} {e : Int} (hx : decodeNum f x = .fin false (m + 1) e) (hk : m + 1 = 2 ^ k) :
    fLog2 f x = roundTo f false (Num.ofInt (e + k)) := by
  have hb : bitLen (m + 1) = k + 1 := by
    rw [hk, bitLen, if_neg (Nat.ne_of_gt (Nat.two_pow_pos k)), Nat.log2_two_pow]
  simp only [fLog2, hx, if_neg (Nat.succ_ne_zero m), Bool.false_eq_true, if_false, hb, Nat.add_sub_cancel, if_pos hk]
  congr 2
  omega
/-- `vlog2` of a value that is no power of two is inexact. -/
theorem fLog2_inexact {f : Fmt} {x m : Nat} {e : Int} (hx : decodeNum f x = .fin false (m + 1) e) (hk : ∀ k : Nat, m + 1 ≠ 2 ^ k) :
    (fLog2 f x).2.getLsbD 4 = true := by
  simp only [fLog2, hx, if_neg (Nat.succ_ne_zero m), Bool.false_eq_true, if_false, if_neg (hk _)]
  split
  · exact roundMag_sticky_inexact ..
  · exact roundMag_sticky_inexact ..

/-- The part of O17 on exact sums, products and the order. -/
theorem Num.units_arith (x y : Num) (e g i j : Int) (hx : x.units e = some i) (hy : y.units g = some j) :
    (x.mul y).units (e + g) = some (i * j) ∧ (x.mul y).isNeg = (x.isNeg != y.isNeg) ∧ x.neg.units e = some (-i) ∧ x.neg.isNeg = !x.isNeg ∧
    (e = g → (x.add y).units e = some (i + j) ∧ (i + j = 0 → (x.add y).isNeg = (x.isNeg && y.isNeg)) ∧
      (i ≠ j → x.lt y = decide (i < j)) ∧ (i = j → (x.lt y = true ↔ i = 0 ∧ x.isNeg = true ∧ y.isNeg = false))) := by
  obtain ⟨m1, m2⟩ := Num.mul_units hx hy
  obtain ⟨n1, n2⟩ := Num.neg_units hx
  refine ⟨m1, m2, n1, n2, ?_⟩
  rintro rfl
  obtain ⟨a1, a2⟩ := Num.add_units hx hy
  exact ⟨a1, a2, Num.lt_units hx hy⟩
/-- Settles O17: a rounded magnitude's code is nearest because its integer is the nearest multiple of the ulp, and the codes' magnitudes
ascend; reciprocals and roots round from an integer part of many bits, of which a remainder counts as half a unit. -/
theorem numbersRoundOnceToNearest : Obligations.NumbersRoundOnceToNearest := by
  refine ⟨fun f s e m hf he hm => decodeNum_code hf s he hm, Num.units_arith, fun s t x hx => Num.inf_add_mul s t hx,
    fun f quant x hf => roundedFrom_roundTo hf quant x, fun f quant rz hf => convert_integer quant rz hf, fun f x s m e h hx => ?_⟩
  refine ⟨fRcp_spec h hx, ?_, fRnd_spec h hx, fun n hn => fExp2_integer h hx (hx ▸ hn), fun hn => fExp2_inexact h hx (hx ▸ hn), ?_, ?_⟩
  · rintro rfl
    exact fRsqrt_spec h hx
  · rintro k rfl hk
    exact fLog2_power hx hk
  · rintro rfl hk
    exact fLog2_inexact hx hk
end Sys2Proof.Machine
